-- ==== Sys2Proof/Word.lean ====
section
/-! DEFINITION. The word types (00 R3; 05 R143; 02 R60). Bit-field, sign-extension and byte-order helpers
stand in Machine/Bits.lean. -/

namespace Sys2Proof

abbrev Byte := BitVec 8
/-- A byte that travels, with the poison of the sector it came from (13 R431). -/
abbrev PByte := Byte × Bool
/-- A dword: general registers, addresses while they are computed, A-ISA instructions. -/
abbrev Word := BitVec 64
abbrev Word32 := BitVec 32
/-- A 512-bit vector register of a PE (05 R143). -/
abbrev Vec := BitVec 512
/-- A bundle of a row store (02 R60). -/
abbrev Bundle := BitVec 256

end Sys2Proof
end

