-- ==== Sys2Proof/Machine/Bits.lean ====
section
/-! DEFINITION. Bit fields, sign extension and byte order (00 R3, R4, R8). -/

namespace Sys2Proof

/-- The field slice v[hi:lo] as an unsigned integer (R4). -/
def bits {w : Nat} (v : BitVec w) (hi lo : Nat) : Nat := (v.toNat >>> lo) % 2 ^ (hi + 1 - lo)

/-- The bit v[n] (R4). -/
def bit {w : Nat} (v : BitVec w) (n : Nat) : Bool := v.toNat.testBit n

/-- SignExt(v, n) of R8: the low `n` bits of `v` read as two's complement. -/
def signedOf (n : Nat) (v : Nat) : Int :=
  if 2 * (v % 2 ^ n) < 2 ^ n then ((v % 2 ^ n : Nat) : Int) else ((v % 2 ^ n : Nat) : Int) - ((2 ^ n : Nat) : Int)

/-- Wrap64 of R8. -/
def wrap64 (v : Int) : Word := BitVec.ofInt 64 v

/-- A narrower pattern sign-extended to a dword. -/
def sext64 {w : Nat} (v : BitVec w) : Word := v.signExtend 64

/-- A narrower pattern zero-extended to a dword, or the low dword of a wider one. -/
def zext64 {w : Nat} (v : BitVec w) : Word := v.setWidth 64

def boolWord (b : Bool) : Word := if b then 1#64 else 0#64

/-- A number as a dword. -/
def word (n : Nat) : Word := BitVec.ofNat 64 n

/-- `v` with bits [hi:lo] replaced by `x` (R4). -/
def setBits (v : Nat) (hi lo x : Nat) : Nat :=
  v - (((v >>> lo) % 2 ^ (hi + 1 - lo)) <<< lo) + ((x % 2 ^ (hi + 1 - lo)) <<< lo)

/-- A field placed at bit `lo`, for building words from fields. -/
def field (lo x : Nat) : Nat := x <<< lo

/-- The little-endian bytes of a value, lowest address first (R3). -/
def toBytes : (n : Nat) → Nat → List Byte
  | 0, _ => []
  | n + 1, v => BitVec.ofNat 8 v :: toBytes n (v / 256)

/-- The value of little-endian bytes (R3). -/
def ofBytes : List Byte → Nat
  | [] => 0
  | b :: bs => b.toNat + 256 * ofBytes bs

/-- Bytes [i, i + n) of a byte list. -/
def bytesAt (bs : List Byte) (i n : Nat) : Nat := ofBytes ((bs.drop i).take n)

/-- An address is canonical when bits [63:57] all equal bit [56] (01 R33). -/
def canonical (a : Word) : Bool := (a.toNat >>> 56 == 0) || (a.toNat >>> 56 == 0xFF)

end Sys2Proof
end

