-- ==== Sys2Proof/Machine/Flags.lean ====
section
/-! DEFINITION. Number formats, rounding, and every flag they raise (03 R82 to R98; the exact operations of 05 R150
to R155). Values are exact: a sign, a natural mantissa and an integer exponent. -/

namespace Sys2Proof.Machine

/-- A set of sticky flags, as XFLAGS lays it out (03 R99). -/
abbrev Flags := BitVec 6
def fNV : Flags := 1
def fOF : Flags := 2
def fUF : Flags := 4
def fNX : Flags := 8
def fSAT : Flags := 16
def fPSN : Flags := 32

/-- A value: NaN, an infinity, or (−1)^neg × m × 2^e. With `sticky`, the magnitude lies strictly between m × 2^e and
(m + 1) × 2^e. -/
inductive FVal where
  | nan
  | inf (neg : Bool)
  | fin (neg : Bool) (m : Nat) (e : Int) (sticky : Bool)
deriving DecidableEq, Repr

def fZero (neg : Bool) : FVal := .fin neg 0 0 false

/-- A floating format: precision, exponent of the smallest normal, exponent of the smallest positive value, the
largest finite value maxm × 2^maxe, and its codes (03 R84 to R89). -/
structure Fmt where
  p : Nat
  emin : Int
  qmin : Int
  maxm : Nat
  maxe : Int
  width : Nat
  hasInf : Bool
  isB8 : Bool
  isUnsigned : Bool
  infCode : Nat
  nanCode : Nat
deriving DecidableEq, Repr

def fmtF64 : Fmt := ⟨53, -1022, -1074, 2 ^ 53 - 1, 971, 64, true, false, false, 0x7FF0000000000000, 0x7FF8000000000000⟩
def fmtF32 : Fmt := ⟨24, -126, -149, 2 ^ 24 - 1, 104, 32, true, false, false, 0x7F800000, 0x7FC00000⟩
def fmtF16 : Fmt := ⟨11, -14, -24, 2 ^ 11 - 1, 5, 16, true, false, false, 0x7C00, 0x7E00⟩
def fmtBf16 : Fmt := ⟨8, -126, -133, 2 ^ 8 - 1, 120, 16, true, false, false, 0x7F80, 0x7FC0⟩

/-- m × 2^e as a natural number, where it is one. -/
def scaleNat (m : Nat) (e : Int) : Nat := if 0 ≤ e then m * 2 ^ e.toNat else m / 2 ^ (-e).toNat

/-- Exponent of the leading bit of m × 2^e, m ≠ 0. -/
def topExp (m : Nat) (e : Int) : Int := (Nat.log2 m : Int) + e

/-- The magnitude of a binary8 code without its sign: mantissa and exponent (R86). -/
def b8Mag (p w mag : Nat) : Nat × Int :=
  let t := p - 1
  let bias : Int := 2 ^ (w - 1)
  let e := mag / 2 ^ t
  let f := mag % 2 ^ t
  if e = 0 then (f, 1 - bias - t) else (2 ^ t + f, (e : Int) - bias - t)

/-- The binary8 format of precision P, 1 to 7 (R86, R87). -/
def fmtB8 (p : Nat) (isSigned inf : Bool) : Fmt :=
  let w := if isSigned then 8 - p else 9 - p
  let bias : Int := 2 ^ (w - 1)
  let maxCode := (if isSigned then 0x7F else 0xFE) - (if inf then 1 else 0)
  let mx := b8Mag p w maxCode
  ⟨p, 1 - bias, 1 - bias - (p - 1 : Nat), mx.1, mx.2, 8, inf, true, !isSigned, if isSigned then 0x7F else 0xFE,
    if isSigned then 0x80 else 0xFF⟩

/-- Decode8 of R86. -/
def decode8 (c p : Nat) (isSigned inf : Bool) : FVal :=
  if isSigned then
    if c = 0x80 then .nan
    else if inf && c == 0x7F then .inf false
    else if inf && c == 0xFF then .inf true
    else
      let x := b8Mag p (8 - p) (c % 128)
      .fin (128 ≤ c) x.1 x.2 false
  else if c = 0xFF then .nan
  else if inf && c == 0xFE then .inf false
  else
    let x := b8Mag p (9 - p) c
    .fin false x.1 x.2 false

/-- An IEEE format or bf16 pattern read as a value (R84). -/
def Fmt.decode (F : Fmt) (v : Nat) : FVal :=
  let neg := v.testBit (F.width - 1)
  let mag := v % 2 ^ (F.width - 1)
  let t := F.p - 1
  let e := mag / 2 ^ t
  let f := mag % 2 ^ t
  if F.infCode < mag then .nan
  else if mag = F.infCode then .inf neg
  else if e = 0 then .fin neg f F.qmin false
  else .fin neg (2 ^ t + f) (F.qmin + (e - 1 : Nat)) false

/-- FI: a subnormal input reads as a zero of its sign (R96). -/
def Fmt.flushIn (F : Fmt) (fi : Bool) : FVal → FVal
  | .fin neg m e st => if fi && m != 0 && topExp m e < F.emin then fZero neg else .fin neg m e st
  | v => v

/-- The code of a value the format holds exactly (R84, R86). -/
def Fmt.encode (F : Fmt) : FVal → Nat
  | .nan => F.nanCode
  | .inf neg => if F.isB8 then (if neg then 0xFF else F.infCode) else (if neg then 2 ^ (F.width - 1) else 0) + F.infCode
  | .fin neg m e _ =>
    if m = 0 then (if neg && !F.isB8 then 2 ^ (F.width - 1) else 0)
    else
      let top := topExp m e
      let mag :=
        if top < F.emin then scaleNat m (e - F.qmin)
        else (top - F.emin).toNat * 2 ^ (F.p - 1) + scaleNat m (e - (top - (F.p - 1 : Nat)))
      (if neg then 2 ^ (F.width - 1) else 0) + mag

/-- m × 2^e ≤ m' × 2^e' on magnitudes. -/
def magLe (m : Nat) (e : Int) (m' : Nat) (e' : Int) : Bool :=
  let k := min e e'
  m * 2 ^ (e - k).toNat ≤ m' * 2 ^ (e' - k).toNat

/-- The candidate of R92 step 4 for a nonzero magnitude under precision `p`: mantissa, exponent, and whether it
differs from the exact value. -/
def Fmt.candidate (F : Fmt) (p mode : Nat) (neg : Bool) (m : Nat) (e : Int) (sticky : Bool) : Nat × Int × Bool :=
  let q := max F.qmin (topExp m e - (p - 1 : Nat))
  if q ≤ e ∧ !sticky then (m * 2 ^ (e - q).toNat, q, false)
  else
    let k := (q - e).toNat
    let r := m / 2 ^ k
    let rem := m % 2 ^ k
    let inexact := rem != 0 || sticky
    let half := 2 ^ k / 2
    let above := half < rem || (rem == half && sticky)
    let tie := k != 0 && rem == half && !sticky
    let odd := if F.p = 1 then r == 1 && (q - F.emin + 1) % 2 == 1 else r % 2 == 1
    let up :=
      inexact &&
      (if mode = 0 then above || (tie && odd)
       else if mode = 1 then false
       else if mode = 2 then !neg
       else neg)
    ((if up then r + 1 else r), q, inexact)

/-- The largest finite value of a sign. -/
def Fmt.maxVal (F : Fmt) (neg : Bool) : FVal := .fin neg F.maxm F.maxe false

/-- RoundFmt of R92 to R96 at precision `p`: the value and the flags. `sat`: the saturating form of R94 and 05
R155. -/
def Fmt.roundAt (F : Fmt) (p mode : Nat) (fo sat : Bool) : FVal → FVal × Flags
  | .nan => (.nan, 0)
  | .inf neg =>
    if F.isUnsigned && neg then (if sat then (fZero false, fSAT) else (.nan, fNV))
    else if sat then (F.maxVal neg, fSAT)
    else if F.hasInf then (.inf neg, 0) else (.nan, fNV)
  | .fin neg m e sticky =>
    if m = 0 ∧ !sticky then (fZero (neg && !F.isB8), 0)
    else
      let c := F.candidate p mode neg m e sticky
      let tiny := topExp m e < F.emin
      if F.isUnsigned && neg then
        (if c.1 = 0 then (fZero false, fUF ||| fNX) else if sat then (fZero false, fSAT) else (.nan, fNV))
      else if !(magLe c.1 c.2.1 F.maxm F.maxe) then
        (if sat then (F.maxVal neg, fSAT ||| fNX)
         else
           let toInf := mode == 0 || (mode == 2 && !neg) || (mode == 3 && neg)
           if toInf then
             (if F.hasInf then (.inf neg, fOF ||| fNX) else (F.maxVal neg, fOF ||| fNX ||| fSAT))
           else (F.maxVal neg, fOF ||| fNX))
      else
        let fl := (if c.2.2 then fNX else 0) ||| (if c.2.2 && tiny then fUF else 0)
        if fo && c.1 != 0 && topExp c.1 c.2.1 < F.emin then (fZero (neg && !F.isB8), fl ||| fUF ||| fNX)
        else if c.1 = 0 then (fZero (neg && !F.isB8), fl)
        else (.fin neg c.1 c.2.1 false, fl)

def Fmt.round (F : Fmt) (mode : Nat) (fo sat : Bool) (v : FVal) : FVal × Flags := F.roundAt F.p mode fo sat v

/-! ## Exact operations -/

/-- Signed mantissa at a common exponent. -/
def signedAt (neg : Bool) (m : Nat) (e k : Int) : Int :=
  let v : Int := ((m * 2 ^ (e - k).toNat : Nat) : Int)
  if neg then -v else v

def ofSigned (v e : Int) : FVal := .fin (v < 0) v.natAbs e false

/-- A sum, and the invalid flag of ∞ − ∞. An exact zero sum of opposite signs is −0 only toward −∞ (05 R150). -/
def fAdd (mode : Nat) : FVal → FVal → FVal × Flags
  | .nan, _ => (.nan, 0)
  | _, .nan => (.nan, 0)
  | .inf a, .inf b => if a = b then (.inf a, 0) else (.nan, fNV)
  | .inf a, .fin .. => (.inf a, 0)
  | .fin .., .inf b => (.inf b, 0)
  | .fin na ma ea _, .fin nb mb eb _ =>
    let k := min ea eb
    let v := signedAt na ma ea k + signedAt nb mb eb k
    if v = 0 then (fZero (if ma = 0 ∧ mb = 0 ∧ na = nb then na else mode == 3), 0) else (ofSigned v k, 0)

def FVal.negate : FVal → FVal
  | .nan => .nan
  | .inf n => .inf (!n)
  | .fin n m e st => .fin (!n) m e st

/-- A product, and the invalid flag of 0 × ∞. -/
def fMul : FVal → FVal → FVal × Flags
  | .nan, _ => (.nan, 0)
  | _, .nan => (.nan, 0)
  | .inf a, .inf b => (.inf (a != b), 0)
  | .inf a, .fin nb mb _ _ => if mb = 0 then (.nan, fNV) else (.inf (a != nb), 0)
  | .fin na ma _ _, .inf b => if ma = 0 then (.nan, fNV) else (.inf (na != b), 0)
  | .fin na ma ea _, .fin nb mb eb _ => (.fin (na != nb) (ma * mb) (ea + eb) false, 0)

/-- a × b + c; 0 × ∞ is invalid even when c is NaN (05 R150). -/
def fFma (mode : Nat) (a b c : FVal) : FVal × Flags :=
  let p := fMul a b
  let r := fAdd mode p.1 c
  (r.1, p.2 ||| r.2)

/-- a < b and a = b of values that are not NaN; −0 equals +0. -/
def fLt : FVal → FVal → Bool
  | .nan, _ => false
  | _, .nan => false
  | .inf a, .inf b => a && !b
  | .inf a, .fin .. => a
  | .fin .., .inf b => !b
  | .fin na ma ea _, .fin nb mb eb _ =>
    let k := min ea eb
    signedAt na ma ea k < signedAt nb mb eb k

def fEq : FVal → FVal → Bool
  | .nan, _ => false
  | _, .nan => false
  | .inf a, .inf b => a == b
  | .fin na ma ea _, .fin nb mb eb _ =>
    let k := min ea eb
    signedAt na ma ea k == signedAt nb mb eb k
  | _, _ => false

def FVal.isNan : FVal → Bool
  | .nan => true
  | _ => false

def FVal.isNeg : FVal → Bool
  | .nan => false
  | .inf n => n
  | .fin n _ _ _ => n

/-- −0 counts as less than +0 (05 R151). -/
def fLess (a b : FVal) : Bool := fLt a b || (fEq a b && a.isNeg && !b.isNeg)

def fMin (a b : FVal) : FVal := if a.isNan then b else if b.isNan then a else if fLess b a then b else a
def fMax (a b : FVal) : FVal := if a.isNan then b else if b.isNan then a else if fLess a b then b else a

/-! ## Roots, powers and logarithms (05 R153) -/

/-- floor(√v) for v < 4^bits. -/
def isqrt (v : Nat) : (bits : Nat) → Nat
  | 0 => 0
  | k + 1 =>
    let r := 2 * isqrt (v / 4) k
    if (r + 1) * (r + 1) ≤ v then r + 1 else r

def fRcp : FVal → FVal × Flags
  | .nan => (.nan, 0)
  | .inf n => (fZero n, 0)
  | .fin n m e _ =>
    if m = 0 then (.inf n, 0)
    else
      let k := Nat.log2 m + 80
      (.fin n (2 ^ k / m) (-e - k) (2 ^ k % m != 0), 0)

def fRsq : FVal → FVal × Flags
  | .nan => (.nan, 0)
  | .inf n => if n then (.nan, fNV) else (fZero false, 0)
  | .fin n m e _ =>
    if m = 0 then (.inf n, 0)
    else if n then (.nan, fNV)
    else
      let m' := if e % 2 = 0 then m else 2 * m
      let e' := if e % 2 = 0 then e else e - 1
      let k := Nat.log2 m' + 80
      let r := isqrt (2 ^ (2 * k) / m') (k + 1)
      (.fin false r (-(e' / 2) - k) (r * r * m' != 2 ^ (2 * k)), 0)

/-- 2^f for f = F / 2^k, as a fixed-point number of 256 fraction bits, from the low bit of F up. -/
def exp2Frac (F : Nat) : (k : Nat) → Nat → Nat
  | 0, y => y
  | k + 1, y => exp2Frac (F / 2) k (isqrt (y * 2 ^ (F % 2) * 2 ^ 256) 260)

def fExp2 : FVal → FVal × Flags
  | .nan => (.nan, 0)
  | .inf n => if n then (fZero false, 0) else (.inf false, 0)
  | .fin n m e _ =>
    if m = 0 then (.fin false 1 0 false, 0)
    else if 13 ≤ topExp m e then (.fin false (2 ^ 80) (if n then -6000 else 6000) true, 0)
    else if 0 ≤ e then (.fin false 1 (signedAt n m e 0) false, 0)
    else if topExp m e < -20 then
      (if n then (.fin false (2 ^ 80 - 1) (-80) true, 0) else (.fin false (2 ^ 80) (-80) true, 0))
    else
      let k := (-e).toNat
      let v : Int := if n then -(m : Int) else m
      let whole := v / 2 ^ k
      let F := (v % 2 ^ k).toNat
      if F = 0 then (.fin false 1 whole false, 0)
      else (.fin false (exp2Frac F k (2 ^ 256) / 2 ^ 8) (whole - 248) true, 0)

/-- 200 fraction bits of log2 x for x in [1, 2), x held with 512 fraction bits. -/
def log2Frac : (k : Nat) → (x acc : Nat) → Nat
  | 0, _, acc => acc
  | k + 1, x, acc =>
    let y := x * x / 2 ^ 512
    if 2 ^ 513 ≤ y then log2Frac k (y / 2) (2 * acc + 1) else log2Frac k y (2 * acc)

def fLog2 : FVal → FVal × Flags
  | .nan => (.nan, 0)
  | .inf n => if n then (.nan, fNV) else (.inf false, 0)
  | .fin n m e _ =>
    if m = 0 then (.inf true, 0)
    else if n then (.nan, fNV)
    else
      let l := Nat.log2 m
      let whole : Int := l + e
      if m = 2 ^ l then (ofSigned whole 0, 0)
      else
        let G := log2Frac 200 (m * 2 ^ (512 - l)) 0
        let v : Int := whole * 2 ^ 200 + G
        if 0 ≤ v then (.fin false v.toNat (-200) true, 0) else (.fin true (-v - 1).toNat (-200) true, 0)

/-! ## Integers (R82, R83, R97) -/

/-- The range of an integer format of `w` bits. -/
def intLo (w : Nat) (isSigned : Bool) : Int := if isSigned then -(2 ^ (w - 1)) else 0
def intHi (w : Nat) (isSigned : Bool) : Int := if isSigned then 2 ^ (w - 1) - 1 else 2 ^ w - 1

def clampInt (w : Nat) (isSigned : Bool) (v : Int) : Int := max (intLo w isSigned) (min (intHi w isSigned) v)

/-- A finite value rounded to an integer under the mode, and whether it differs. -/
def roundInt (mode : Nat) (neg : Bool) (m : Nat) (e : Int) : Int × Bool :=
  if 0 ≤ e then (signedAt neg m e 0, false)
  else
    let k := (-e).toNat
    let r := m / 2 ^ k
    let rem := m % 2 ^ k
    let half := 2 ^ k / 2
    let up :=
      rem != 0 &&
      (if mode = 0 then half < rem || (rem == half && r % 2 == 1)
       else if mode = 1 then false
       else if mode = 2 then !neg
       else neg)
    let a : Int := if up then r + 1 else r
    (if neg then -a else a, rem != 0)

/-- ToInt of R97. -/
def toInt (w : Nat) (isSigned : Bool) (mode : Nat) (sat : Bool) : FVal → Int × Flags
  | .nan => (0, fNV)
  | .inf neg => (if neg then intLo w isSigned else intHi w isSigned, if sat then fSAT else fNV)
  | .fin neg m e _ =>
    let r := roundInt mode neg m e
    if r.1 < intLo w isSigned ∨ intHi w isSigned < r.1 then (clampInt w isSigned r.1, if sat then fSAT else fNV)
    else (r.1, if r.2 then fNX else 0)

/-- `afadd` (R115): nearest-even, subnormals kept, no flag. -/
def afadd (F : Fmt) (a b : Nat) : Nat := F.encode (F.round 0 false false (fAdd 0 (F.decode a) (F.decode b)).1).1

end Sys2Proof.Machine
end

