-- ==== Sys2Proof/Syntax.lean ====
section
/-! DEFINITION. The instructions and steps of Oluaraval: one constructor of `Instr` per row of the opcode table.
A-ISA instructions carry the operand fields of 02 R41 to R58, PE operations those of R63, row controls those of
R61 and matrix commands those of R68. A step that no encoding names (an arrival, a completion, a timeout, a
request from outside) carries the unit it concerns and, where it comes from outside the package, its data. -/

namespace Sys2Proof

/-- A register field: x0 to x63 (R41). -/
abbrev Reg := BitVec 6

/-- SIZE of R42. -/
inductive Size where
  | b | h | w | d
deriving DecidableEq, Repr

/-- ORDER of R42. -/
inductive Order where
  | plain | acq | rel | acqRel | sc
deriving DecidableEq, Repr

/-- SCOPE of R42. -/
inductive Scope where
  | core | cluster | group | die | package | domain | system
deriving DecidableEq, Repr

/-- HINT of R42. -/
inductive Hint where
  | none | nt | keep
deriving DecidableEq, Repr

/-- The modifiers of `ld` and `st` (R41, R47). -/
structure MemMod where
  size : Size
  order : Order
  scope : Scope
  sign : Bool
  hint : Hint
deriving DecidableEq, Repr

/-- The modifiers of an atomic (R47): word or dword, order, scope. -/
structure AtomMod where
  dword : Bool
  order : Order
  scope : Scope
deriving DecidableEq, Repr

/-- The EMOD fields of a copy (R53) but RING. -/
structure CopyMod where
  scope : Scope
  flag : Bool
  crc : Bool
  token : BitVec 3
deriving DecidableEq, Repr

/-- The EMOD fields of `fedge` (R55). -/
structure FEdgeF where
  srcType : BitVec 4
  srcIdx : BitVec 4
  srcPort : BitVec 2
  dstType : BitVec 4
  dstIdx : BitVec 4
  dstPort : BitVec 2
deriving DecidableEq, Repr

/-- The fields of a PE operation but OPC (R63). -/
structure PeF where
  dst : BitVec 4
  a : BitVec 6
  b : BitVec 6
  c : BitVec 6
  fmt : BitVec 3
  rnd : BitVec 2
  fi : Bool
  fo : Bool
  rep : BitVec 6
  step : BitVec 2
  push : BitVec 4
deriving DecidableEq, Repr

/-- The fields of a matrix command but MOP (R68). -/
structure MatF where
  ra : BitVec 3
  rb : BitVec 3
  rd : BitVec 3
  acc : BitVec 2
  mfmt : BitVec 4
  accum : Bool
  timed : Bool
  policy : Bool
  zero : Bool
  stamp : BitVec 48
  count : BitVec 32
  dper : BitVec 8
  la : BitVec 4
  lb : BitVec 4
  trole : BitVec 16
  tthread : BitVec 3
deriving DecidableEq, Repr

/-- The operations of the atomics (07 R219). -/
inductive AtomOp where
  | add | and | or | xor | min | max | minu | maxu | swap | cas | fadd
deriving DecidableEq, Repr

/-- A physical request: its byte address, and what it does; bytes carry their poison (12 R386, 10 R328, 13 R431). -/
inductive PhysReq where
  | read (pa n : Nat)
  | write (pa : Nat) (data : List PByte)
  | rmw (op : AtomOp) (pa n operand compare : Nat)
deriving DecidableEq, Repr

/-- One packet of an Ultra Ethernet message (08 R265, R266). `src` and `msg` tell messages apart at the receiver. -/
structure Packet where
  engine : Nat
  src : Nat
  msg : Nat
  rjob : Nat
  ring : Nat
  sep : Nat
  tag : Word
  imm : Word
  len : Nat
  pkt : Nat
  data : List Byte
deriving DecidableEq, Repr

/-- What an acknowledgement says of a message we sent (08 R265, R270). -/
inductive AckAnswer where
  | received (acked missing : List Nat)
  | refusedForNow
  | refusedForGood
deriving DecidableEq, Repr

structure Ack where
  msg : Nat
  answer : AckAnswer
deriving DecidableEq, Repr

/-- An entry of a chain reaching this package (11 R366): the destination launch, role and queue, and the entry.
`fromHere` names the chain of this package that sent it, none for a chain of another package. -/
structure ChainFlit where
  fromHere : Option Nat
  dlid : Nat
  drole : Nat
  dq : Nat
  kind : BitVec 4
  poison : Bool
  data : Word
deriving DecidableEq, Repr

/-- A firmware image as the Jusural controller reads it (13 R433). -/
structure FwImage where
  length : Nat
  entry : Word
  version : Nat
  body : List Byte
  signature : List Byte
deriving DecidableEq, Repr, Inhabited

/-- Where an uncorrectable error strikes (13 R429). -/
inductive ErrSite where
  | memory (sector : Nat)
  | scratchpad (core sector : Nat)
  | queueEntry (core q i : Nat)
  | accumulator (core acc : Nat)
  | register (m t : Nat) (r : Reg)
  | controlWord (m t : Nat) (cw : BitVec 12)
  | peRegister (core pe : Nat) (code : BitVec 6)
  | rowStore (core row : Nat)
deriving DecidableEq, Repr

/-- What the reset sequence finds (13 R432, R433; 17 R468). -/
structure ResetInfo where
  failedCores : List Nat
  failedPertor : List Nat
  failedEthernet : List Nat
  log : List Byte
  critical : Bool
  svcs : Nat
  image : FwImage
deriving DecidableEq, Repr, Inhabited

/-- Who writes a hub register (17 R469, R470; 00 R6): the host through BAR0, or a writer with RWS rights. -/
inductive RegSource where
  | host | supervisor
deriving DecidableEq, Repr

/-- The instructions and steps of the machine; each line ends with its row's mnemonic and rule. Those with operands
come first, then those without, whose agent (a core, or a thread) is the one State's `cur` names, then those that
come from outside the package with their data. -/
inductive Instr where
  | add (d a b : Reg) -- ADD, R124
  | sub (d a b : Reg) -- SUB, R124
  | addw (d a b : Reg) -- ADDW, R124
  | subw (d a b : Reg) -- SUBW, R124
  | and (d a b : Reg) -- AND, R124
  | or (d a b : Reg) -- OR, R124
  | xor (d a b : Reg) -- XOR, R124
  | andn (d a b : Reg) -- ANDN, R124
  | orn (d a b : Reg) -- ORN, R124
  | xnor (d a b : Reg) -- XNOR, R124
  | sll (d a b : Reg) -- SLL, R124
  | srl (d a b : Reg) -- SRL, R124
  | sra (d a b : Reg) -- SRA, R124
  | rol (d a b : Reg) -- ROL, R124
  | ror (d a b : Reg) -- ROR, R124
  | mul (d a b : Reg) -- MUL, R124
  | mulh (d a b : Reg) -- MULH, R124
  | mulhu (d a b : Reg) -- MULHU, R124
  | mulhsu (d a b : Reg) -- MULHSU, R124
  | mulw (d a b : Reg) -- MULW, R124
  | madd (d a b c : Reg) -- MADD, R124
  | div (d a b : Reg) -- DIV, R125
  | divu (d a b : Reg) -- DIVU, R125
  | rem (d a b : Reg) -- REM, R125
  | remu (d a b : Reg) -- REMU, R125
  | min (d a b : Reg) -- MIN, R124
  | max (d a b : Reg) -- MAX, R124
  | minu (d a b : Reg) -- MINU, R124
  | maxu (d a b : Reg) -- MAXU, R124
  | slt (d a b : Reg) -- SLT, R124
  | sltu (d a b : Reg) -- SLTU, R124
  | seq (d a b : Reg) -- SEQ, R124
  | sne (d a b : Reg) -- SNE, R124
  | sel (d a b c : Reg) -- SEL, R124
  | clz (d a : Reg) -- CLZ, R124
  | ctz (d a : Reg) -- CTZ, R124
  | popc (d a : Reg) -- POPC, R124
  | brev (d a : Reg) -- BREV, R124
  | bswap (d a : Reg) -- BSWAP, R124
  | bfx (d a b c : Reg) -- BFX, R126
  | bfxu (d a b c : Reg) -- BFXU, R126
  | bfi (d a b c : Reg) -- BFI, R126
  | lea (d a b : Reg) (shift : BitVec 3) (disp : BitVec 29) -- LEA, R128
  | addi (d a : Reg) (imm : Word32) -- ADDI, R127
  | addiw (d a : Reg) (imm : Word32) -- ADDIW, R127
  | andi (d a : Reg) (imm : Word32) -- ANDI, R127
  | ori (d a : Reg) (imm : Word32) -- ORI, R127
  | xori (d a : Reg) (imm : Word32) -- XORI, R127
  | slli (d a : Reg) (imm : Word32) -- SLLI, R127
  | srli (d a : Reg) (imm : Word32) -- SRLI, R127
  | srai (d a : Reg) (imm : Word32) -- SRAI, R127
  | slti (d a : Reg) (imm : Word32) -- SLTI, R127
  | sltiu (d a : Reg) (imm : Word32) -- SLTIU, R127
  | li (d : Reg) (imm : Word32) -- LI, R127
  | lih (d a : Reg) (imm : Word32) -- LIH, R127
  | muli (d a : Reg) (imm : Word32) -- MULI, R127
  | bfxi (d a : Reg) (imm : Word32) -- BFXI, R126
  | bfxui (d a : Reg) (imm : Word32) -- BFXUI, R126
  | bfii (d a : Reg) (imm : Word32) -- BFII, R126
  | beq (a b : Reg) (disp : Word32) -- BEQ, R129
  | bne (a b : Reg) (disp : Word32) -- BNE, R129
  | blt (a b : Reg) (disp : Word32) -- BLT, R129
  | bge (a b : Reg) (disp : Word32) -- BGE, R129
  | bltu (a b : Reg) (disp : Word32) -- BLTU, R129
  | bgeu (a b : Reg) (disp : Word32) -- BGEU, R129
  | j (disp : Word32) -- J, R130
  | jal (d : Reg) (disp : Word32) -- JAL, R130
  | jalr (d a : Reg) (imm : Word32) -- JALR, R131
  | loop (a : Reg) (disp : Word32) -- LOOP, R132
  | ld (d a : Reg) (m : MemMod) (off : Word32) -- LD, R210
  | st (d a : Reg) (m : MemMod) (off : Word32) -- ST, R210
  | pf (a : Reg) (sc : Scope) (hint : Hint) (off : Word32) -- PF, R214
  | cwb (a : Reg) (sc : Scope) (off : Word32) -- CWB, R215
  | cinv (a : Reg) (sc : Scope) (off : Word32) -- CINV, R215
  | fence (ord : Order) (sc : Scope) -- FENCE, R217
  | aadd (d a b : Reg) (m : AtomMod) (off : BitVec 20) -- AADD, R219
  | aand (d a b : Reg) (m : AtomMod) (off : BitVec 20) -- AAND, R219
  | aor (d a b : Reg) (m : AtomMod) (off : BitVec 20) -- AOR, R219
  | axor (d a b : Reg) (m : AtomMod) (off : BitVec 20) -- AXOR, R219
  | amin (d a b : Reg) (m : AtomMod) (off : BitVec 20) -- AMIN, R219
  | amax (d a b : Reg) (m : AtomMod) (off : BitVec 20) -- AMAX, R219
  | aminu (d a b : Reg) (m : AtomMod) (off : BitVec 20) -- AMINU, R219
  | amaxu (d a b : Reg) (m : AtomMod) (off : BitVec 20) -- AMAXU, R219
  | aswap (d a b : Reg) (m : AtomMod) (off : BitVec 20) -- ASWAP, R219
  | acas (d a b c : Reg) (m : AtomMod) (off : BitVec 20) -- ACAS, R219
  | afadd (d a b : Reg) (m : AtomMod) (off : BitVec 20) -- AFADD, R219
  | qpush (a : Reg) (kind q : BitVec 4) -- QPUSH, R222
  | qpushi (imm : BitVec 16) (kind q : BitVec 4) -- QPUSHI, R222
  | qpop (d b : Reg) (q : BitVec 4) -- QPOP, R223
  | qtry (d b c : Reg) (q : BitVec 4) -- QTRY, R223
  | bqpop (d : Reg) -- BQPOP, R224
  | bqtry (d c : Reg) -- BQTRY, R224
  | qstat (d : Reg) (q : BitVec 4) -- QSTAT, R225
  | waita (d a b : Reg) (dword : Bool) (cond : BitVec 2) -- WAITA, R232
  | bar (a b : Reg) (sc : Scope) -- BAR, R234
  | evwait (d : Reg) -- EVWAIT, R236
  | evpost (a b c : Reg) -- EVPOST, R237
  | eventArrival (src : Nat) -- EVENT_ARRIVAL, R198
  | copy (d a b c : Reg) (e : CopyMod) -- COPY, R244
  | copy2 (d a b c : Reg) (e : CopyMod) -- COPY2, R244
  | copyr (d a b c : Reg) (ring : BitVec 3) (e : CopyMod) -- COPYR, R247
  | copyrg (d a b c : Reg) (ring : BitVec 3) (e : CopyMod) -- COPYRG, R247
  | twait (k : BitVec 3) -- TWAIT, R251
  | tquery (d : Reg) (k : BitVec 3) -- TQUERY, R251
  | tqueryCrc (d : Reg) (k : BitVec 3) -- TQUERY_CRC, R251
  | copyChunk (m id k : Nat) -- COPY_CHUNK, R245
  | copyFaultTimeout (m id : Nat) -- COPY_FAULT_TIMEOUT, R252
  | sbase (st : BitVec 3) (a : Reg) -- SBASE, R255
  | sdim (st : BitVec 3) (dim : BitVec 2) (a b : Reg) -- SDIM, R255
  | sgoLd (st : BitVec 3) (q : BitVec 4) (sz : Size) (sc : Scope) -- SGO_LD, R256
  | sgoSt (st : BitVec 3) (q : BitVec 4) (sz : Size) (sc : Scope) -- SGO_ST, R256
  | sstop (st : BitVec 3) -- SSTOP, R258
  | sresume (st : BitVec 3) -- SRESUME, R258
  | sbar (mask : BitVec 8) -- SBAR, R259
  | streamElement (core u : Nat) -- STREAM_ELEMENT, R256
  | streamFaultTimeout (core u : Nat) -- STREAM_FAULT_TIMEOUT, R260
  | alloc (d a b : Reg) -- ALLOC, R262
  | free (a : Reg) -- FREE, R263
  | freeD (a : Reg) -- FREE_D, R263
  | nsend (d a : Reg) (sc : Scope) -- NSEND, R267
  | nrecv (d a : Reg) -- NRECV, R269
  | ssubmit (d a b : Reg) (sc : Scope) -- SSUBMIT, R275
  | packetSend (msg pkt port : Nat) -- PACKET_SEND, R265
  | packetTimeout (msg pkt : Nat) -- PACKET_TIMEOUT, R265
  | refusedForNowRetry (msg : Nat) -- REFUSED_FOR_NOW_RETRY, R270
  | fnode (d a b c : Reg) (utype unit : BitVec 4) -- FNODE, R285
  | fedge (e : FEdgeF) -- FEDGE, R287
  | fgo (d : Reg) (gid : BitVec 8) -- FGO, R288
  | fwait (d : Reg) (gid : BitVec 8) -- FWAIT, R289
  | fkill (gid : BitVec 8) -- FKILL, R291
  | fresume (gid : BitVec 8) -- FRESUME, R292
  | scannerDecision (core u : Nat) -- SCANNER_DECISION, R293
  | sieveDecision (core u : Nat) -- SIEVE_DECISION, R294
  | whiskDecision (core u : Nat) -- WHISK_DECISION, R294
  | repeaterDecision (core u : Nat) -- REPEATER_DECISION, R295
  | gatherDecision (core u : Nat) -- GATHER_DECISION, R296
  | gatherRow (core u : Nat) -- GATHER_ROW, R297
  | fibreFaultTimeout (core gid : Nat) -- FIBRE_FAULT_TIMEOUT, R307
  | graphSkew (core gid : Nat) -- GRAPH_SKEW, R301
  | graphStall (core gid : Nat) -- GRAPH_STALL, R303
  | launch (d a : Reg) -- LAUNCH, R346
  | cancelTask (a : Reg) -- CANCEL_TASK, R356
  | cancelLaunch (a : Reg) -- CANCEL_LAUNCH, R356
  | cancelGraph (a : Reg) -- CANCEL_GRAPH, R356
  | cancelJob (a : Reg) -- CANCEL_JOB, R356
  | spawn (d a : Reg) -- SPAWN, R352
  | effectiveClassAging (lid : Nat) -- EFFECTIVE_CLASS_AGING, R348
  | exitDrainComplete (task : Nat) -- EXIT_DRAIN_COMPLETE, R354
  | chainSend (id : Nat) -- CHAIN_SEND, R366
  | chainArrival (x : ChainFlit) -- CHAIN_ARRIVAL, R367
  | chainResend (id : Nat) -- CHAIN_RESEND, R367
  | spillRingDrain (core q : Nat) -- SPILL_RING_DRAIN, R367
  | syscall (a : Reg) (imm : BitVec 16) -- SYSCALL, R425
  | trap (imm : BitVec 16) -- TRAP, R405
  | getcw (d : Reg) (cw : BitVec 12) -- GETCW, R406
  | setcw (cw : BitVec 12) (a : Reg) -- SETCW, R406
  | cyc (d : Reg) -- CYC, R406
  | faultEntryWrite (calls : Bool) -- FAULT_ENTRY_WRITE, R412
  | remoteGiveUp (id : Nat) -- REMOTE_GIVE_UP, R213
  | hubWorkTimeout (id : Nat) -- HUB_WORK_TIMEOUT, R472
  | tlbinvPage (d a b : Reg) -- TLBINV_PAGE, R382
  | tlbinvRange (d a b c : Reg) -- TLBINV_RANGE, R382
  | tlbinvJob (d a : Reg) -- TLBINV_JOB, R382
  | tlbinvAll (d : Reg) -- TLBINV_ALL, R382
  | acctab (d a b c : Reg) -- ACCTAB, R388
  | freeze (d a : Reg) -- FREEZE, R390
  | thaw (d a : Reg) -- THAW, R390
  | migrate (d a b c : Reg) -- MIGRATE, R384
  | preempt (d a b : Reg) -- PREEMPT, R415
  | preemptSaveComplete (task : Nat) -- PREEMPT_SAVE_COMPLETE, R416
  | resumeTask (d a : Reg) -- RESUME_TASK, R422
  | resumeRetry (d a : Reg) -- RESUME_RETRY, R414
  | resumeDeliver (d a : Reg) -- RESUME_DELIVER, R414
  | resumeKill (d a : Reg) -- RESUME_KILL, R414
  | fadd (f : PeF) -- FADD, R150
  | fsub (f : PeF) -- FSUB, R150
  | fmul (f : PeF) -- FMUL, R150
  | ffma (f : PeF) -- FFMA, R150
  | ffms (f : PeF) -- FFMS, R150
  | fnfma (f : PeF) -- FNFMA, R150
  | fmin (f : PeF) -- FMIN, R151
  | fmax (f : PeF) -- FMAX, R151
  | fabs (f : PeF) -- FABS, R151
  | fneg (f : PeF) -- FNEG, R151
  | fceq (f : PeF) -- FCEQ, R152
  | fclt (f : PeF) -- FCLT, R152
  | fcle (f : PeF) -- FCLE, R152
  | frcp (f : PeF) -- FRCP, R153
  | frsq (f : PeF) -- FRSQ, R153
  | fexp2 (f : PeF) -- FEXP2, R153
  | flog2 (f : PeF) -- FLOG2, R153
  | iadd (f : PeF) -- IADD, R154
  | isub (f : PeF) -- ISUB, R154
  | imul (f : PeF) -- IMUL, R154
  | imulh (f : PeF) -- IMULH, R154
  | iand (f : PeF) -- IAND, R154
  | ior (f : PeF) -- IOR, R154
  | ixor (f : PeF) -- IXOR, R154
  | ishl (f : PeF) -- ISHL, R154
  | ishr (f : PeF) -- ISHR, R154
  | isra (f : PeF) -- ISRA, R154
  | imin (f : PeF) -- IMIN, R154
  | imax (f : PeF) -- IMAX, R154
  | iceq (f : PeF) -- ICEQ, R154
  | iclt (f : PeF) -- ICLT, R154
  | iabs (f : PeF) -- IABS, R154
  | iaddsat (f : PeF) -- IADDSAT, R154
  | cvt (f : PeF) -- CVT, R155
  | cvtSat (f : PeF) -- CVT_SAT, R155
  | pk8 (f : PeF) -- PK8, R157
  | upk8 (f : PeF) -- UPK8, R157
  | bscale (f : PeF) -- BSCALE, R157
  | mov (f : PeF) -- MOV, R158
  | lshuf (f : PeF) -- LSHUF, R159
  | lbcast (f : PeF) -- LBCAST, R159
  | lrot (f : PeF) -- LROT, R159
  | redadd (f : PeF) -- REDADD, R160
  | redmax (f : PeF) -- REDMAX, R160
  | redmin (f : PeF) -- REDMIN, R160
  | peSel (f : PeF) -- PE_SEL, R159
  | accs (f : PeF) -- ACCS, R161
  | qdrop (f : PeF) -- QDROP, R162
  | tkind (f : PeF) -- TKIND, R163
  | jmp (target : BitVec 9) -- JMP, R164
  | brTok (q kind : BitVec 4) (target : BitVec 9) -- BR_TOK, R164
  | loopRow (l : BitVec 2) (count : Word32) -- LOOP_ROW, R164
  | endloop (l : BitVec 2) (target : BitVec 9) -- ENDLOOP, R164
  | bqpush (pe : BitVec 2) (s : BitVec 3) -- BQPUSH, R166
  | peResultLands (core pe : Nat) -- PE_RESULT_LANDS, R147
  | mma (f : MatF) -- MMA, R182
  | mzero (f : MatF) -- MZERO, R184
  | mload (f : MatF) -- MLOAD, R185
  | mdrain (f : MatF) -- MDRAIN, R186
  | simmer (f : MatF) -- SIMMER, R192
  | fwVerifyDone (image : Nat) -- FW_VERIFY_DONE, R428
  | hostLaunch (port : Nat) (lctl : Word) -- HOST_LAUNCH, R351
  | blockedPushTakesEffect -- BLOCKED_PUSH_TAKES_EFFECT, R227
  | blockedPopTakesEffect -- BLOCKED_POP_TAKES_EFFECT, R228
  | waitaReread -- WAITA_REREAD, R233
  | engineFifoPlaceFrees -- ENGINE_FIFO_PLACE_FREES, R239
  | cpeSlotPublish -- CPE_SLOT_PUBLISH, R297
  | exit -- EXIT, R353
  | exitAbort -- EXIT_ABORT, R355
  | yield -- YIELD, R361
  | yieldWindowEnd -- YIELD_WINDOW_END, R361
  | placementRound -- PLACEMENT_ROUND, R348
  | launchReservation -- LAUNCH_RESERVATION, R348
  | threadExitComplete -- THREAD_EXIT_COMPLETE, R353
  | threadOverdue -- THREAD_OVERDUE, R360
  | decoupleDeadlock -- DECOUPLE_DEADLOCK, R364
  | savepoolReread -- SAVEPOOL_REREAD, R427
  | rte -- RTE, R404
  | nop -- NOP, R66
  | halt -- HALT, R141
  | endRow -- END, R141
  | simstop -- SIMSTOP, R199
  | mstat -- MSTAT, R188
  | mfence -- MFENCE, R189
  | matrixCommandAccept -- MATRIX_COMMAND_ACCEPT, R180
  | mmaPairStart -- MMA_PAIR_START, R182
  | mmaPairEnd -- MMA_PAIR_END, R182
  | mmaComplete -- MMA_COMPLETE, R182
  | mzeroComplete -- MZERO_COMPLETE, R184
  | mloadComplete -- MLOAD_COMPLETE, R185
  | mdrainComplete -- MDRAIN_COMPLETE, R186
  | simmerAttempt -- SIMMER_ATTEMPT, R194
  | beatEnd -- BEAT_END, R195
  | simmerDrainPublish -- SIMMER_DRAIN_PUBLISH, R195
  | fwGo -- FW_GO, R428
  | fwDrained -- FW_DRAINED, R428
  | fwDrainTimeout -- FW_DRAIN_TIMEOUT, R428
  | scrub -- SCRUB, R435
  | getStatus -- GET_STATUS, R469
  | reset -- RESET, R469
  | correctedError -- CORRECTED_ERROR, R429
  | vauxPowerUp -- VAUX_POWER_UP, R471
  | packetArrival (p : Packet) -- PACKET_ARRIVAL, R270
  | ackReceived (k : Ack) -- ACK_RECEIVED, R268
  | remoteAccessCompletion (id : Nat) (data : List PByte) -- REMOTE_ACCESS_COMPLETION, R213
  | remoteKeepWaiting (id : Nat) -- REMOTE_KEEP_WAITING, R213
  | remoteCancelReply (id : Nat) (performed : Option (List PByte)) -- REMOTE_CANCEL_REPLY, R213
  | pertorRequestIn (pkg : Nat) (r : PhysReq) -- PERTOR_REQUEST_IN, R386
  | hostMemoryRequest (master : Nat) (r : PhysReq) -- HOST_MEMORY_REQUEST, R328
  | uncorrectableError (site : ErrSite) -- UNCORRECTABLE_ERROR, R429
  | packageReset (r : ResetInfo) -- PACKAGE_RESET, R468
  | thermalTrip (sensor : Nat) -- THERMAL_TRIP, R467
  | powerAverage (avg10 : Nat) (avg1 : Nat) -- POWER_AVERAGE, R466
  | agingMonitorStep (die : Nat) (up : Bool) -- AGING_MONITOR_STEP, R465
  | vctlWrite (die : Nat) (v : Word) -- VCTL_WRITE, R465
  | registerWrite (src : RegSource) (off : Nat) (v : Word) -- REGISTER_WRITE, R6
  | getLog (off len : Nat) -- GET_LOG, R469
  | attest (nonce : List Byte) -- ATTEST, R469
  | readReg (off : Nat) -- READ_REG, R469
  | writeReg (off : Nat) (v : Word) -- WRITE_REG, R469
  | unsupportedCommand (code : Byte) -- UNSUPPORTED_COMMAND, R469
  | hostRecall (pa : Nat) -- HOST_RECALL, R338
deriving DecidableEq, Repr

end Sys2Proof
end

