-- ==== Sys2Proof/Config.lean ====
section
/-! DEFINITION. What the spec leaves open: free values and free choices (no body, so nothing can evaluate them or
prove a value of them), and the constants an implementation fixes. `tick` is the model's step counter
(assumption log 1), `kind` tells what the value is for, and `unit` which unit or item it concerns. -/

namespace Sys2Proof.Config

/-- A free choice at a step: which of several allowed moves, copies or translations is taken (log 1). -/
opaque freeNat : (tick kind unit : Nat) → Nat
/-- A free 512-bit value: a read of an undefined register, NB or accumulator (00 R10). -/
opaque freeVec : (tick kind unit : Nat) → Vec
/-- A free byte: overlapping copy bytes, private save-area bytes, hub registers no rule describes (00 R10, 13 R417). -/
opaque freeByte : (tick kind unit : Nat) → Byte
/-- Whether a unit whose latency the spec bounds but does not fix makes its move now (log 1). -/
opaque moves : (tick kind unit : Nat) → Bool
/-- What reaches the package from outside in the cycle of this tick; management commands among it come by MCTP over PCIe (log 1). -/
opaque inputs : (tick : Nat) → List Instr
/-- The management commands that reach the I3C target in the cycle of this tick (17 R469). -/
opaque sideband : (tick : Nat) → List Instr
/-- The host's reads through BAR0 in the cycle of this tick: offset and length (17 R470). -/
opaque hostReads : (tick : Nat) → List (Nat × Nat)
/-- What self-test and the boot image are found to be in a package reset that a RESET command brings (17 R468, R469). -/
opaque resetInfo : (tick : Nat) → ResetInfo
/-- Whether a Pertor route reaches the package of this number, with the Pertor ports `off` disabled (07 R213, 13 R432). -/
opaque joined : (off : List Nat) → (pkg : Nat) → Bool
/-- Where the test log stands in service memory, from its base (10 R330, 13 R432). -/
opaque logAt : Nat
/-- SHA3-256 of a byte string, as 32 bytes (13 R433). -/
opaque sha3 : List Byte → List Byte
/-- Verification of an ML-DSA-44 signature over a digest against the fused key hash (13 R433). -/
opaque mldsaVerify : (digest signature : List Byte) → Bool
/-- The ML-DSA-44 signature of a report by the device identity key (13 R433). -/
opaque mldsaSign : (report : List Byte) → List Byte
/-- The fused counter of security versions (13 R433). -/
opaque fusedVersion : Nat
/-- Cycles after which an unacknowledged packet is retransmitted (08 R265). -/
opaque packetTimeout : Nat
/-- The sender's back-off, in cycles, after a refusal for now (08 R270). -/
opaque backOff : Nat

end Sys2Proof.Config
end

