-- ==== Sys2Proof/Machine/State.lean ====
section
/-! DEFINITION. The state of one package, as plain data: INVENTORY.md lists each piece with its rule and reset
value. Where a default is not zero it stands beside the field. -/

namespace Sys2Proof.Machine

/-- A token: a word queue entry or a fibre token (01 R22, 09 R281). -/
structure Tok where
  kind : BitVec 4 := 0
  poison : Bool := false
  data : Word := 0
deriving DecidableEq, Repr

/-- A queue entry and the cycle from which it can be popped (05 R147, 07 R222). `key`: four times the issue cycle plus
the row, for an entry pushed by the execute array (R147). -/
structure QEntry where
  tok : Tok
  ready : Nat
  key : Nat := 0
deriving DecidableEq, Repr

/-- A word queue (01 R24): `xa` is the direction bit DIR; the oldest entry first. `lent`: by stream unit, an entry whose write travels
over Pertor (08 R256): its place stays taken, and it returns to the head when it is not written. -/
structure Queue where
  decl : Bool := false
  xa : Bool := false
  cap : Nat := 0
  entries : List QEntry := []
  lent : List (Nat × QEntry) := []
deriving DecidableEq, Repr

/-- A tile ring (01 R26, 06 R174). `slot` is the SLOT code: 0 4 KiB, 1 16 KiB, 2 32 KiB. `holds`: which thread records
(task, record slot) hold which slots; `late`: cycle and descriptor of a publication that found the ring full (06 R177). -/
structure Ring where
  decl : Bool := false
  slot : Nat := 0
  depth : Nat := 0
  base : Nat := 0
  head : Nat := 0
  tail : Nat := 0
  count : Nat := 0
  holds : List (Nat × Nat × Nat) := []
  late : Option (Nat × Nat) := none
deriving DecidableEq, Repr

/-- RUN of a row (05 R136). -/
inductive Run where
  | running | atEnd | halted
deriving DecidableEq, Repr

/-- A burner (05 R136). `counted`: queues whose part in the wait in progress was counted in QEMPTYCNT (R146). `handed`:
its MATRIX command waits for the array; `taken`: the array has accepted it (06 R180). `tookAt`: one more than the last cycle in which its unit
took an issue cycle. `began`: the first issue cycle of its current bundle, once that has taken place (03 R102). `done`: its current
bundle, which has issue cycles left, has popped a DONE (03 R101). `bqv`: what its `bqpush` sends (R166). -/
structure Row where
  pc : Nat := 0
  issue : Nat := 0
  tkfin : Nat := 0
  run : Run := .running
  loops : Tab Word32 := []
  counted : List Nat := []
  handed : Bool := false
  taken : Bool := false
  tookAt : Nat := 0
  began : Nat := 0
  done : Bool := false
  bqv : Option (BitVec 16) := none
deriving DecidableEq, Repr

/-- A result in flight (05 R145, R147): `dst` none when it was pushed, an s register when `isS`; `nb`: it is a vector
result; `lanes`: it writes the four 32-bit lanes of this group only (R157); `claimed`: a DONE gather has its flags (03
R102). -/
structure Flight where
  land : Nat
  issued : Nat
  isS : Bool
  dst : Option Nat
  value : Vec
  nb : Bool
  flags : BitVec 6
  lanes : Option Nat := none
  claimed : Bool := false
deriving DecidableEq, Repr

/-- A PE (05 R136). `used`: the unfinished `accs` has consumed an entry (R161). `bad`: registers struck by an
uncorrectable error, by source code, NB as 0x18 (13 R429). -/
structure Pe where
  v : Tab Vec := []
  s : Tab Word := []
  nb : Vec := 0
  asum : Word := 0
  acnt : Nat := 0
  used : Bool := false
  xflags : BitVec 6 := 0
  flight : List Flight := []
  bad : List Nat := []
deriving DecidableEq, Repr

/-- An execute-array fault of the current cycle (05 R169). -/
structure XFault where
  row : Nat
  cause : Nat
  slot : Nat
  bundle : Nat
deriving DecidableEq, Repr

/-- AKIND (06 R170). -/
inductive AKind where
  | f32 | f64 | i32
deriving DecidableEq, Repr

/-- What the matrix array is doing (06 R180 to R202). -/
inductive MPhase where
  /-- stopped by a fault at its acceptance, which is judged again when the array runs again -/
  | accepting
  /-- no occupying command -/
  | idle
  /-- waits until a pair's slots are present, or for its timed start -/
  | pairWait
  /-- a pair or a beat is running and ends at the due cycle -/
  | pairRun
  /-- the last pair has ended; the command completes at the due cycle -/
  | finishing
  /-- an `mzero` in its 16 cycles -/
  | zeroing
  /-- an `mload` waits for its slot, or reads it until the due cycle -/
  | loadWait
  | loading
  /-- an `mdrain` waits for a free slot, or writes it until the due cycle -/
  | drainWait
  | draining
  /-- a simmer run waits for its next attempt at the due cycle -/
  | attempt
  /-- a simmer run waits, slipping, for room in its drain ring at a drain point -/
  | drainPoint
  /-- a simmer run has ended and its drains are being written -/
  | ending
deriving DecidableEq, Repr

/-- A drain being written (06 R186, R195), which has reserved a slot of its ring: the tile's words, its header and the cycle of publication.
`simmer`: it belongs to a run; `final`: no DRAIN event (R200). -/
structure Drain where
  ring : Nat
  due : Nat
  tag : Nat
  fcode : Nat
  words : List Word32
  poison : Bool
  last : Nat
  simmer : Bool
  final : Bool
deriving DecidableEq, Repr

/-- An event of 16 bytes (06 R197) and the thread it goes to. -/
structure Event where
  d0 : Word
  d1 : Word
deriving DecidableEq, Repr

/-- An event on its way to the thread of record `slot` of task `task`, posted by that of record `pslot` of task `ptask`,
whose thread key was `pkey`; `pslot` 100 is the matrix array of `ptask`. `waiting`: it has found the queue full. -/
structure EvFlight where
  id : Nat
  ev : Event
  task : Nat
  slot : Nat
  ptask : Nat
  pslot : Nat
  pkey : Nat
  waiting : Bool := false
deriving DecidableEq, Repr

/-- The matrix array (06 R170, R172, R173). A list of accumulator words or inner sums reads 0 past its end. `flags`: the
six sticky flags; `mflags`: MFLAGS; `mcopies`: the copies that it becomes from their cycles on (R188); `was`: the cycle of the last gather,
and the flags before that cycle's (R204). `mop` and `cmd`: the command in flight;
`idx`: the pair or beat index; `slipk`: slips before the next attempt; `s0`: start of beat 0, or of a timed pair 0;
`untimed`: a stamp is not honoured (again) (R202); `seenA`, `seenB`: beats below these have been evaluated (R196);
`period`: beats since the last drain point; `ndrain`: drain points so far; `fin`: the run ends at this drain point. `missAdd`: misses of the current
cycle, which MISSCNT counts after its thread accesses (04 R122). `again`: demand is evaluated again, at the cycle in which the array restarts
(R202). `pend`: cause and record of a fault that waits for the drains in progress (R203). -/
structure Matrix where
  acc : Tab (List Word32) := []
  akind : Tab AKind := []
  apsn : Tab Bool := []
  isum : Tab (List Int) := []
  pairs : Nat := 0
  flags : BitVec 6 := 0
  state : Nat := 0
  lastop : Nat := 0
  stopreq : Bool := false
  evlost : Bool := false
  mflags : BitVec 6 := 0
  mcopies : List (Nat × BitVec 6) := []
  was : Option (Nat × BitVec 6) := none
  slips : Nat := 0
  beats : Nat := 0
  misscnt : Word := 0
  missAdd : Word := 0
  dla : Nat := 0
  dlb : Nat := 0
  mop : Nat := 0
  cmd : Option MatF := none
  phase : MPhase := .idle
  due : Nat := 0
  idx : Nat := 0
  slipk : Nat := 0
  s0 : Int := 0
  untimed : Bool := false
  seenA : Nat := 0
  seenB : Nat := 0
  period : Nat := 0
  ndrain : Nat := 0
  fin : Bool := false
  again : Bool := false
  pend : Option (Nat × Word) := none
  drains : List Drain := []
deriving DecidableEq, Repr

/-- STATE of a stream unit (08 R254). -/
inductive StState where
  | idle | running | stopped | withholding
deriving DecidableEq, Repr

/-- A stream unit (08 R254). `fail`: cycle of a withheld element's first failure; `cause`, `tval`: its last. `away`: the access by which
the element travels over Pertor; `got`: what came back of it, until its push finds room. `stopping`: it stops once that access is done
(R258). `discard`: it is discarded then (11 R355). `win`: its low-water record is open (12 R393). -/
structure Stream where
  base : Word := 0
  counts : Tab Nat := []
  strides : Tab Word := []
  q : Nat := 0
  esize : Size := .b
  store : Bool := false
  scope : Scope := .core
  state : StState := .idle
  next : Nat := 0
  owner : Nat := 0
  fail : Nat := 0
  cause : Nat := 0
  tval : Word := 0
  away : Option Nat := none
  got : Option (List PByte) := none
  stopping : Bool := false
  discard : Bool := false
  win : Bool := false
deriving DecidableEq, Repr

/-- Where a byte of an access lies: memory of this package, of another one, or a scratchpad. -/
inductive Loc where
  | mem (pa : Nat)
  | far (pkg pa : Nat)
  | scr (core off : Nat)
deriving DecidableEq, Repr

/-- A withheld access: its first failure, last cause and failing address (08 R252). -/
structure Withheld where
  since : Nat
  cause : Nat
  tval : Word
  off : Nat
deriving DecidableEq, Repr

/-- What a read of the chunk [lo, hi) of a copy brought from another package, and from which address. -/
structure FarPiece where
  lo : Nat
  hi : Nat
  ea : Nat
  bytes : List PByte
deriving DecidableEq, Repr

/-- An unfinished copy (08 R244 to R253). `func` 0 to 3 as R53; `left`: the byte intervals [lo, hi) not yet
delivered; for a slot copy, bytes from the payload size up are the header. `got`: bytes delivered, for the CRC, or of the tile of a slot
copy, which `fills` the slot at this offset (06 R179). `taken`: the engine has taken it from its FIFO. `drains`: it starts no chunk until those in flight are done and its fault is raised; `stopped`: that fault is on its
way to the thread. `away`: chunks [lo, hi) whose bytes travel over Pertor. `far`: bytes that came back. `list`: the
row indexes of a `copyrg` read so far. `odd`: destination bytes that overlap the source. `slot`: the record slot of its thread. `orphan`:
its thread has ended (11 R354). -/
structure Copy where
  id : Nat
  thr : Nat
  task : Nat
  func : Nat
  a : Word
  b : Word
  d : Word
  c0 : Word
  c1 : Word
  c2 : Word
  c3 : Word
  scope : Scope
  flag : Bool
  crc : Bool
  ring : Nat
  token : Nat
  seq : Nat
  left : List (Nat × Nat)
  got : Tab PByte := []
  fills : Option Nat := none
  withheld : List Withheld := []
  taken : Bool := false
  drains : Bool := false
  stopped : Bool := false
  away : List (Nat × Nat) := []
  far : List FarPiece := []
  list : Tab Nat := []
  slot : Nat := 0
  odd : List Loc := []
  orphan : Bool := false
deriving DecidableEq, Repr

/-- A node entered by `fnode` (09 R285). -/
structure FNode where
  utype : Nat
  unit : Nat
  d : Word
  a : Word
  b : Word
  c : Word
deriving DecidableEq, Repr

/-- A graph staging (09 R285, R287): nodes by 16 × type + unit. -/
structure Staging where
  nodes : Tab FNode := []
  edges : List FEdgeF := []
  overflow : Bool := false
  busy : Nat := 0
deriving DecidableEq, Repr

/-- A token that a unit withholds for a fault (09 R307): `retry`: the fault is retried; `ea`: the address of the read that fails. -/
structure UFault where
  since : Nat
  cause : Nat
  tval : Word
  port : Nat
  retry : Bool
  ea : Word := 0
deriving DecidableEq, Repr

/-- A unit of a live graph. By input port: `rank`, `idx` tokens taken, `prev` kind of the last one, `kinds` one more than
the stream's element kind, `last` one more than the last coordinate of the fibre (09 R294). A scanner's `active` fibre is
[p, hi) of reference r; a repeater holds `r` while `have_`. `cpe`: `rows` written in the open slot and their bytes, `tile`, in the slot at
`tileAt` (06 R179), its order among the engine's slots (0 for none open), `elem` when the level-0 fibre has one, `full` when the slot waits to be published,
`ended` after DONE. `stuck`: one more than the cycle since which an edge holds back a fork (R301). `away`: the read that travels over
Pertor; `got`: what reads of another package brought, by address. `win`: the low-water record (12 R393). -/
structure FUnit where
  node : FNode
  rank : Tab Nat := []
  idx : Tab Nat := []
  prev : Tab Nat := []
  kinds : Tab Nat := []
  last : Tab Nat := []
  r : Nat := 0
  p : Nat := 0
  hi : Nat := 0
  active : Bool := false
  pending : Bool := false
  have_ : Bool := false
  rows : Nat := 0
  tile : List PByte := []
  tileAt : Option Nat := none
  slotId : Nat := 0
  elem : Bool := false
  full : Bool := false
  ended : Bool := false
  stuck : Nat := 0
  released : Bool := false
  away : Option Nat := none
  got : List (Nat × List PByte) := []
  win : Option (Word × Word) := none
  fault : Option UFault := none
deriving DecidableEq, Repr

/-- An edge (09 R299, R300): tokens past the first eight are spilled. `moved`: cycle a token last left it. -/
structure FEdge where
  e : FEdgeF
  fifo : List QEntry := []
  moved : Nat := 0
deriving DecidableEq, Repr

/-- A live graph: `owner` the hardware thread; units by 16 × type + unit; `named`: bits [61:12] of the status word (09
R289); `moved`: cycle a token last moved; `dying`: killed, with reads outstanding (R291). -/
structure FGraph where
  owner : Nat := 0
  units : Tab FUnit := []
  edges : List FEdge := []
  stopped : Bool := false
  dying : Bool := false
  named : Nat := 0
  busy : Nat := 0
  moved : Nat := 0
deriving DecidableEq, Repr

/-- A low-water record that a unit is to store (12 R392). -/
structure LowMark where
  slot : Nat
  lo : Word
  hi : Word
  opened : Bool
  job : Nat
deriving DecidableEq, Repr

/-- A core, or a service core (which uses the copy engine and the issue pointers only). `home`: its home task's handle,
0 for none (launch sequence numbers start at 1). `group`: the rows inside the sync group's current bundle (05 R140).
`gathers`: of each DONE gather, the first issue cycle of the bundle that popped the DONE, and the first cycle after the gather is complete
(03 R102). `bq`: from which cycle an access thread can pop an entry, and its value. `sundef`: scratchpad bytes [lo, hi) whose contents are
undefined (00 R10). `lows`: low-water records that a freeze has kept back (12 R393). -/
structure Core where
  home : Nat := 0
  queues : Tab Queue := []
  bq : List (Nat × BitVec 16) := []
  rings : Tab Ring := []
  scratch : List Host.Cell := []
  spoison : List Nat := []
  sundef : List (Nat × Nat) := []
  store : Tab Bundle := []
  rows : Tab Row := []
  group : List Nat := []
  pes : Tab Pe := []
  gathers : List (Nat × Nat) := []
  xfault : Option XFault := none
  arrayFrozen : Bool := false
  matrix : Matrix := {}
  streams : Tab Stream := []
  copies : List Copy := []
  stagings : Tab Staging := []
  graphs : Tab FGraph := []
  fstatus : Tab Word := []
  ptrs : Tab Nat := []
  mutualSince : Nat := 0
  lows : List LowMark := []
deriving DecidableEq, Repr

/-- A copy token (08 R242, R250): `crc` is the CRC register before its final XOR, `parts` the finished CRC copies
not yet folded into it, by issue sequence, `issued` the copies issued on it. -/
structure Token where
  pend : Nat := 0
  crc : Word32 := 0xFFFFFFFF#32
  parts : Tab (List Byte) := []
  issued : Nat := 0
deriving DecidableEq, Repr

/-- What a parked or trapped fault waits to continue (13 R414). -/
inductive Retry where
  | instr
  | copy (m id : Nat)
  | stream (core u : Nat)
  | graph (core gid : Nat)
  | array (core : Nat)
  | monitor (core : Nat)
  | hub (id : Nat)
deriving DecidableEq, Repr

/-- A fault on its way to a thread or to the fault queue (13 R398 to R411): `task` and `slot` name the thread
record, `detail` is dword 3 of an entry. -/
structure FaultRec where
  cause : Nat
  source : Nat
  tval : Word
  detail : Word
  task : Nat
  slot : Nat
  thread : Nat
  core : Nat
  job : Nat
  retry : Retry
deriving DecidableEq, Repr

inductive Life where
  | idle | running | exiting | ended
deriving DecidableEq, Repr

/-- A thread of a core or of a service core (04 R116 to R121). `slot`: its thread record, 0 to 3 home, 4 + n
helper n (13 R417). `held`: the instruction in which it is held; `stopIn`: the one in which a freeze stopped it (12 R391).
`gen`: the generation a `bar` waits on, 2^32 more when its own arrival was the last and it has still to open the next, and that `bar`'s
address, outside a trap and, as `genTrap`, inside one (07 R234). `parked`: its parked fault (13 R402). `waiting`: engine and array faults for its next boundary
(R401). `badRegs`, `badWords`: struck by an uncorrectable error (R429). `fetched`: an instruction dword that came from
another package (07 R213). -/
structure Thread where
  life : Life := .idle
  svc : Bool := false
  helper : Bool := false
  task : Nat := 0
  slot : Nat := 0
  regs : Tab Word := []
  pc : Word := 0
  intrap : Bool := false
  arrayHandler : Bool := false
  epc : Word := 0
  tcause : Word := 0
  tval : Word := 0
  prio : Word := 0
  watchq : Word := 0
  lodcnt : Word := 0
  lodcyc : Word := 0
  qfullcnt : Word := 0
  tokens : Tab Token := []
  events : List Event := []
  credit : Nat := 0
  yieldTo : Nat := 0
  waited : Nat := 0
  overdue : Bool := false
  busyTo : Nat := 0
  held : Option Instr := none
  heldFrom : Nat := 0
  stopIn : Option Instr := none
  gen : Option (Nat × Word) := none
  genTrap : Option (Nat × Word) := none
  remote : Option Nat := none
  parked : Option FaultRec := none
  waiting : List FaultRec := []
  badRegs : List Nat := []
  badWords : List Nat := []
  phys : Bool := true
  sctxJob : Nat := 0
  svec : Word := 0
  fetched : Option Word := none
deriving DecidableEq, Repr

structure QDesc where
  decl : Bool
  xa : Bool
  cap : Nat
deriving DecidableEq, Repr

structure RDesc where
  decl : Bool
  slot : Nat
  depth : Nat
  base : Nat
deriving DecidableEq, Repr

structure Helper where
  roff : Int
  entry : Nat
deriving DecidableEq, Repr

structure ScratchDesc where
  save : Bool
  size : Nat
  base : Nat
deriving DecidableEq, Repr

structure RoleData where
  dest : Nat
  src : Nat
  len : Nat
  diev : Bool
  die : Nat
  hi : Nat
  lo : Nat
deriving DecidableEq, Repr

/-- What `launch` reads of an image's header and tables (02 R78, R79). -/
structure Image where
  threads : Nat := 0
  groupsz : Nat := 0
  accessOff : Nat := 0
  accessLen : Nat := 0
  rowOff : List Nat := []
  rowLen : List Nat := []
  queues : List QDesc := []
  rings : List RDesc := []
  helpers : List Helper := []
  scratch : List ScratchDesc := []
  roleData : List RoleData := []
deriving DecidableEq, Repr

/-- A chain descriptor (11 R345). -/
structure ChainDesc where
  dpkg : Nat
  drole : Nat
  srole : Nat
  sq : Nat
  dq : Nat
  dlid : Nat
deriving DecidableEq, Repr

inductive TaskLife where
  /-- bound to a core, and waiting for its row sections and role data (13 R472) -/
  | starting
  /-- live on a core -/
  | live
  /-- the anchor has executed `exit` (11 R354) -/
  | draining
  /-- the drain is done and LCTR's add is withheld (11 R354 step 4) -/
  | counting
  /-- pre-empted, or saved for a system call; while the save is under way `Task.saving` says so -/
  | saved
  /-- its saved area waits in the launch queue (13 R422, 11 R352) -/
  | queued
  | ended
deriving DecidableEq, Repr

/-- A pre-emption or system call in progress (13 R415, R416, R425), and the cycle in which it was accepted. -/
structure Saving where
  area : Nat
  reason : Nat
  call : Nat
  slot : Nat
  reg : Nat
  argp : Word
  svcCore : Nat
  cancelled : Bool := false
  begun : Nat := 0
deriving DecidableEq, Repr

/-- A task (01 R35). `priv`: the device-kept part of its save area (13 R417), as the core it left. `choices`: what a
`resume` of an open entry chose for its saved threads (R414). `joined`, `ord`, `eff`: when and in which order it joined the launch
queue, and its effective class (11 R348). `helperAt`: thread key of helper n, by n. `caller`: record slot and register a of the system call that ended the step (R425).
`privThreads`: its saved threads, or those that have ended, by record slot. `badWords`: task-level control words struck by an uncorrectable error (R429).
`tflagsAdd`, `qemptyAdd`: gathers and increments of the current cycle, which apply after its thread accesses (04 R122);
`trapenOld`: the cycle of the last `setcw` of TRAPEN, and the value before it (11 R368). -/
structure Task where
  lid : Nat := 0
  role : Nat := 0
  image : Word := 0
  arg : Word := 0
  trapvec : Word := 0
  trapen : Word := 0
  tflags : BitVec 6 := 0
  qempty : Tab Word := []
  tflagsAdd : BitVec 6 := 0
  qemptyAdd : Tab Word := []
  trapenOld : Nat × Word := (0, 0)
  life : TaskLife := .ended
  core : Nat := 0
  saving : Option Saving := none
  area : Nat := 0
  caller : Option (Nat × Nat) := none
  priv : Option Core := none
  privThreads : Tab Thread := []
  choices : List (Nat × Nat × Retry) := []
  joined : Nat := 0
  ord : Nat := 0
  eff : Nat := 0
  helperAt : Tab Nat := []
  badWords : List Nat := []
deriving DecidableEq, Repr

/-- A launch, waiting or live (11 R343 to R350). `ord`: the order in which launches joined. `bind`: role to core + 1, 0 while unbound
(01 R31). `left`: tasks that have not ended. -/
structure Launch where
  job : Nat := 0
  image : Word := 0
  arg : Word := 0
  lctr : Word := 0
  cls : Nat := 0
  eff : Nat := 0
  graph : Nat := 0
  preds : List Nat := []
  chains : List ChainDesc := []
  img : Image := {}
  joined : Nat := 0
  ord : Nat := 0
  waiting : Bool := true
  bind : Tab Nat := []
  left : Nat := 0
  cancelled : Bool := false
deriving DecidableEq, Repr

/-- A graph of launches (11 R350). -/
structure WorkGraph where
  job : Nat := 0
  ctr : Word := 0
  sealed : Bool := false
  left : Nat := 0
  cancelled : Bool := false
deriving DecidableEq, Repr

/-- A live chain (11 R366, R367). `flight`: the head of SQ, while it is on its way or waits to be resent; it leaves SQ
when the destination has taken it. `dead`: the destination task has ended. -/
structure Chain where
  desc : ChainDesc
  slid : Nat
  flight : List Tok := []
  refused : Bool := false
  resendAt : Nat := 0
  dead : Bool := false
deriving DecidableEq, Repr

/-- An access table entry (12 R387). -/
structure AccEntry where
  limit : Nat := 0
  base : Nat := 0
  v : Bool := false
  w : Bool := false
  r : Bool := false
  mhi : Nat := 0
  mlo : Nat := 0
deriving DecidableEq, Repr

/-- A translation cache (12 R380): a core's private TLB, the cache of an engine of a core (0 the copy engine, 1 + u stream
unit u, 16 + u scanner u, 32 + u gather u), a translation tile by die and slice, the hub's. -/
inductive CacheAt where
  | tlb (core : Nat)
  | engine (core unit : Nat)
  | tile (die slice : Nat)
  | hub
deriving DecidableEq, Repr

/-- A table entry in the walk cache of a tile (12 R380): its job, its level and the first address it covers. -/
structure WalkEntry where
  die : Nat
  slice : Nat
  job : Nat
  level : Nat
  va : Nat
  entry : Word
deriving DecidableEq, Repr

/-- A cached leaf (12 R380): where, its job, the address it translates from, its level and the leaf. -/
structure Cached where
  place : CacheAt
  job : Nat
  va : Nat
  level : Nat
  leaf : Word
deriving DecidableEq, Repr

/-- An open fault queue entry (13 R413). -/
structure OpenEntry where
  seq : Nat
  cause : Nat
  job : Nat
  page : Nat
  waiters : List FaultRec
deriving DecidableEq, Repr

/-- A queue entry that waits to be written (13 R411, R412): its four dwords, and the fault when it is of a thread
or of hub work; for a call, when it was made. -/
structure PendEntry where
  d0 : Nat
  d1 : Word
  d2 : Word
  d3 : Word
  fault : Option FaultRec
  begun : Nat := 0
deriving DecidableEq, Repr

/-- What a withheld hub access does (13 R472). `count`: adds 1 at `va`, then goes on from `step` for unit `id`: 0 a
task's LCTR, 1 a graph's counter, 2 a job's counter. -/
inductive HubAct where
  | load (lid task : Nat)
  | count (va : Word) (step id : Nat)
  | payload (msg pkt port : Nat)
  | record (msg : Nat) (va : Word) (fails retries done : Nat)
  | place (p : Packet)
deriving DecidableEq, Repr

structure HubWork where
  master : Nat
  kind : Nat
  job : Nat
  handle : Nat
  act : HubAct
  since : Nat
  cause : Nat
  tval : Word
  reported : Bool := false
deriving DecidableEq, Repr

/-- What an access to another package completes (07 R213): an instruction's destination, with the sign bit for a
load; the arrival of a `bar`, and the last arrival's write that opens the next generation (R234); the fetch of an instruction; a chunk of
a copy; an element of a stream; a read of a fibre unit. -/
inductive RemoteAct where
  | load (d : Reg) (sign : Bool)
  | store
  | rmw (d : Reg)
  | wait
  | barrier (a b : Reg) (sc : Scope)
  | opens
  | line
  | fetch
  | chunkRead (core id lo hi : Nat)
  | chunkWrite (core id lo hi : Nat)
  | element (core u : Nat)
  | token (core gid node : Nat)
deriving DecidableEq, Repr

/-- An access in flight to another package: where its bytes lie, and the request in terms of the whole access. `marks`: where leaves it uses
stand, as A and D are to be set on them when it has been performed (12 R379). -/
structure Remote where
  m : Nat
  t : Nat
  locs : List Loc
  req : PhysReq
  act : RemoteAct
  ea : Word
  issued : Nat
  marks : List (Nat × Word) := []
  cancelSent : Bool := false
  noticed : Nat := 0
deriving DecidableEq, Repr

/-- A message being sent (08 R267, R268), by record `slot` of task `task`, or by the service thread of key `slot` when
`task` is 0; `engine`: the network engine that serves it. -/
structure Msg where
  task : Nat
  slot : Nat
  engine : Nat
  job : Nat
  rjob : Nat
  ports : Nat
  fahi : Word
  falo : Word
  ring : Nat
  ep : Nat
  src : Word
  len : Nat
  tag : Word
  imm : Word
  crec : Word
  acked : List Nat := []
  flying : Tab Nat := []
  retx : List Nat := []
  backTo : Option Nat := none
deriving DecidableEq, Repr

/-- A record reserved in a receive ring (08 R270, R271). -/
structure RecvRec where
  src : Nat
  msg : Nat
  pos : Nat
  got : List Nat
deriving DecidableEq, Repr

structure RecvRing where
  base : Word := 0
  size : Nat := 0
  ctr : Word := 0
  tail : Nat := 0
  recs : List RecvRec := []
  unbinding : Bool := false
deriving DecidableEq, Repr

/-- What goes out over a port of the package: packets, answers to packets, doorbells, requests and answers to other packages,
to the host and to I/O controllers; bytes over Pertor carry their poison (13 R431). -/
inductive Output where
  | packet (port : Nat) (fahi falo : Word) (p : Packet)
  | answer (src msg : Nat) (a : AckAnswer)
  | flit (pkg : Nat) (x : ChainFlit)
  | flitReply (taken : Bool) (x : ChainFlit)
  | doorbell (port : Nat) (addr : Word) (v : Word32)
  | pertor (pkg pa : Nat) (r : PhysReq)
  | cancel (pkg id : Nat)
  | reply (master : Nat) (data : Option (List PByte))
deriving DecidableEq, Repr

/-- A host launch port (11 R351). -/
structure Port where
  dw : Tab Word := []
  busyTo : Nat := 0
  status : Nat := 0
deriving DecidableEq, Repr

/-- A migration in progress (12 R384): the page and its leaf, the new frame, and the pieces already moved. `thr`: the
thread that executes it. -/
structure Migration where
  thr : Nat
  job : Nat
  va : Nat
  level : Nat
  leafAt : Nat
  old : Nat
  frame : Nat
  next : Nat
deriving DecidableEq, Repr

/-- FWCTL.STATE (13 R428); `completing`: the new image runs and the held entries are being written, STATE still 2. -/
inductive FwState where
  | idle | verifying | draining | completing | refused
deriving DecidableEq, Repr

/-- The supervisor words held once per package (12 R371, 13 R410) and the firmware switch. `calls`: written
call queue entries whose calls are not finished, with their sequence numbers (13 R428). `fwheld`: held entries of the fault and the call
queue still to be written after a switch. `fwfrom`, `fwgo`: IMAGE as it was at GO, and the cycle of GO. -/
structure Sup where
  jobtab : Nat := 0
  lwmtab : Nat := 0
  fqbase : Word := 0
  fqhead : Nat := 0
  fqtail : Nat := 0
  cqbase : Word := 0
  cqhead : Nat := 0
  cqtail : Nat := 0
  savepool : Nat := 0
  fwstate : FwState := .idle
  fwimage : Nat := 0
  fwfrom : Nat := 0
  fwentry : Word := 0
  fwsince : Nat := 0
  fwgo : Option Nat := none
  fwheld : Nat × Nat := (0, 0)
  calls : List (Nat × PendEntry) := []
deriving DecidableEq, Repr

structure Vctl where
  cur : Nat := 12
  hi : Nat := 28
  lo : Nat := 0
deriving DecidableEq, Repr

/-- The management registers and the Jusural controller (17, 13 R432 to R434). `resetDue`: the cycles of the first and of the last RESET
that package reset has still to follow (R469). -/
structure Pkg where
  ready : Bool := false
  safe : Bool := false
  trip : Bool := false
  overcap : Bool := false
  svcs : Nat := 0
  off : Bool := false
  pwrcap : Nat := 30000
  peak : Nat := 0
  avg : Nat := 0
  vctl : Tab Vctl := []
  temp : Tab Nat := []
  uncorr : Nat := 0
  corr : Nat := 0
  log : List Byte := []
  mappedOut : List Nat := []
  pertorOff : List Nat := []
  ethernetOff : List Nat := []
  measure : Tab (List Byte) := []
  versions : Tab Nat := []
  reply : List Byte := []
  telemetry : List (Nat × Word × Word) := []
  resetDue : Option (Nat × Nat) := none
deriving DecidableEq, Repr

/-- Which agent moves: a thread (master number and hardware thread), or PE `pe` of `row` in repetition `rep`.
`peek`: the queue heads a unit of rows saw before its pops (05 R145). -/
structure Cur where
  m : Nat := 0
  t : Nat := 0
  row : Nat := 0
  pe : Nat := 0
  rep : Nat := 0
  peek : Tab QEntry := []
deriving DecidableEq, Repr

/-- A move of the current cycle: a thread issues, a unit of rows takes an issue cycle, or a step of the table whose
agent is thread `t` of master `m` (or core `m`). -/
inductive Move where
  | thread (m t : Nat)
  | rows (core : Nat) (unit : List Nat)
  /-- a part of the cycle: which moves it holds is decided when it is reached -/
  | phase (n : Nat)
  /-- the hub makes a withheld access again (13 R472) -/
  | hub (id : Nat)
  /-- the row controls at the end of the issue cycles (05 R138, R140) -/
  | controls (core : Nat)
  /-- the queue nodes of the live graphs move tokens (09 R298) -/
  | nodes (core : Nat)
  | event (m t : Nat) (i : Instr)
  /-- the host reads registers through BAR0 (17 R470) -/
  | hostRead (off n : Nat)
  /-- the package reset that a RESET command brings (17 R469) -/
  | packageReset
deriving DecidableEq, Repr

/-- What control word reads of a cycle see of a core's matrix array and queues: their state when the cycle began (04 R122). -/
structure Prior where
  cyc : Nat
  mstat : Word
  queues : List Word
deriving DecidableEq, Repr

/-- The package. Threads are keyed by 8 × master + hardware thread, cores by master number (12 R385), tasks by
task handle, launches and graphs by handle (11 R342), access table entries by 64 × target + index, receive rings by 256 × job + ring, spill rings of chains by 16 × task handle + queue (11 R367; an entry: it is allocated). `received`: complete messages.
`deadFrames`: frames of dead granules of a heap whose frames lie apart (08 R263).
`dirty`: a core has become free, or a launch has joined, since the last placement round (11 R348). `undef`: bytes of memory
[lo, hi) whose contents are undefined (00 R10). `older`: bytes written in this cycle, as they were when it began (10 R340).
`late`: instructions of this cycle that act after its other events (04 R122, 08 R278). `lctls`: LCTL writes that the hub has not
yet acted on (11 R351). `walks`, `jobs`: table entries and job entry words that translation may still use (12 R380, R381).
`accOld`: access table entries written in this cycle, as they were; `frozeAt`, `deniedAt`: one more than the cycle of a master's
last `freeze`, and denial (12 R395). -/
structure State where
  tick : Nat := 0
  agenda : List Move := []
  cur : Cur := {}
  cyc : Nat := 0
  mem : List Host.Cell := []
  poison : List Nat := []
  dead : List Nat := []
  deadFrames : List (List Nat) := []
  undef : List (Nat × Nat) := []
  older : List (Loc × PByte) := []
  late : List (Nat × Instr) := []
  prior : Tab Prior := []
  cores : Tab Core := []
  threads : Tab Thread := []
  tasks : Tab Task := []
  launches : Tab Launch := []
  wgraphs : Tab WorkGraph := []
  chains : Tab Chain := []
  spills : Tab (List Tok) := []
  seq : Nat := 1
  nextId : Nat := 1
  reservation : Option Nat := none
  dirty : Bool := false
  sup : Sup := {}
  acc : Tab AccEntry := []
  frozen : List Nat := []
  cache : List Cached := []
  walks : List WalkEntry := []
  jobs : List (Nat × Nat × Word) := []
  accOld : Tab AccEntry := []
  frozeAt : Tab Nat := []
  deniedAt : Tab Nat := []
  migrations : List Migration := []
  waitFq : List PendEntry := []
  waitCq : List PendEntry := []
  openEntries : List OpenEntry := []
  hub : Tab HubWork := []
  remotes : Tab Remote := []
  evFlight : List EvFlight := []
  msgs : Tab Msg := []
  recvRings : Tab RecvRing := []
  received : List (Nat × Nat) := []
  out : List Output := []
  ports : Tab Port := []
  lctls : List (Nat × Word) := []
  scrubHeld : Option Nat := none
  scrubDone : List Nat := []
  pkg : Pkg := {}
deriving DecidableEq, Repr

/-- Why the machine stops with a fault: no step of this spec does. The constructor stands for an access to an
address that no map of the spec holds; the access tables deny every such access before (12 R386), so no meaning
raises it (safe). -/
inductive Fault where
  | noSuchAddress
deriving DecidableEq, Repr

/-- Why a step has no meaning. -/
inductive Refusal where
  /-- raised only by an arm of `exec` that has no meaning yet (safe) -/
  | notModelled (mnemonic : String)
deriving DecidableEq, Repr

/-- The package right after reset (17 R468 step 5): arithmetic reset has just been released and CYC reads 0. Every
field is at its default above; a table that lists nothing reads as those defaults. -/
def State.reset : State := {}

end Sys2Proof.Machine
end

