-- ==== Sys2Proof/Machine/Memory.lean ====
section
/-! DEFINITION. Bytes of memory and of scratchpads, the physical address map, the hub registers and the ring
handshake (10 R330, R331; 08 R264; 13 R430; 17 R465 to R471; 06 R174 to R177). -/

namespace Sys2Proof.Machine

/-- The byte at an address; an unlisted one reads 0 (assumption log 2). -/
def Memory.get : List Host.Cell → Nat → Byte
  | [], _ => 0
  | (a, v) :: t, k => if a = k then v else Memory.get t k

/-- The memory with one byte written, kept in canonical form. -/
def Memory.put : List Host.Cell → Nat → Byte → List Host.Cell
  | [], k, v => if v = 0 then [] else [(k, v)]
  | (a, x) :: t, k, v =>
    if k < a then (if v = 0 then (a, x) :: t else (k, v) :: (a, x) :: t)
    else if a = k then (if v = 0 then t else (k, v) :: t)
    else (a, x) :: Memory.put t k v

/-- Bytes written upwards from an address. -/
def Memory.puts : List Host.Cell → Nat → List Byte → List Host.Cell
  | m, _, [] => m
  | m, k, b :: bs => Memory.puts (Memory.put m k b) (k + 1) bs

/-- The canonical form: addresses strictly rise and no entry equals what an unlisted address reads as. -/
def Memory.wf : List Host.Cell → Bool
  | [] => true
  | (_, v) :: [] => v != 0
  | (a, v) :: (b, w) :: t => v != 0 && a < b && Memory.wf ((b, w) :: t)

/-- `n` bytes upwards from an address. -/
def Memory.gets (m : List Host.Cell) (k : Nat) : Nat → List Byte
  | 0 => []
  | n + 1 => Memory.get m k :: Memory.gets m (k + 1) n

/-- The memory without the bytes of [lo, hi): they read 0 again. -/
def Memory.clear (m : List Host.Cell) (lo hi : Nat) : List Host.Cell :=
  m.filter (fun c => c.1 < lo || hi ≤ c.1)

/-! ## The physical map (10 R330, R331) -/

def serviceBase : Nat := 0x28000000000
def hubBase : Nat := 0x30000000000
def hostBase : Nat := 0x40000000000

def isHub (pa : Nat) : Bool := hubBase ≤ pa && pa < hostBase

/-- The target that checks a request to `pa` (12 R386). -/
def targetOf (pa : Nat) : Nat :=
  if pa < 2 ^ 40 then 0x10 + pa / 2 ^ 37
  else if pa < serviceBase then 0x22
  else if pa < hubBase then 0x21
  else if pa < hostBase then 0x20
  else 0x23

/-- A hole (R330, R331). -/
def isHole (pa : Nat) : Bool :=
  (pa < 2 ^ 40 && 0x1800000000 ≤ pa % 2 ^ 37) || (serviceBase + 0x4000000 ≤ pa && pa < hubBase) || 2 ^ 44 ≤ pa

/-- [pa, pa + n) lies wholly in populated HBM or LPDDR of this package. -/
def populated (pa n : Nat) : Bool :=
  (pa < 2 ^ 40 && pa % 2 ^ 37 + n ≤ 0x1800000000) || (2 ^ 40 ≤ pa && pa + n ≤ serviceBase)

/-! ## Hub registers (17) -/

/-- The fields of dword `i` of a launch port; what is Reserved there reads zero and ignores writes (11 R343 to R345, R351,
00 R7). -/
def portFields (i : Nat) : Word :=
  if i = 3 then 0x37F else if i = 10 ∨ i = 12 then 0xFF00FFFFFF00FF00 else if i < 14 then BitVec.allOnes 64 else 0

def Port.dword (p : Port) (cyc i : Nat) : Nat :=
  if i = 15 then (if cyc < p.busyTo then 2 ^ 63 else 0) + p.status * 2 ^ 16
  else (Tab.get 0 p.dw i &&& portFields i).toNat

/-- STATUS reads 0xFE on every port in the safe state (13 R434). -/
def State.portDword (s : State) (n i : Nat) : Nat :=
  let p := Tab.get {} s.ports n
  if s.pkg.safe && i == 15 then 0xFE0000 else p.dword s.cyc i

/-- The dword at an aligned offset of the hub register range; a register no rule describes reads a free value. -/
def State.hubDword (s : State) (off : Nat) : Nat :=
  let g := s.pkg
  if off = 0 then
    g.svcs * 16 + g.overcap.toNat * 8 + g.trip.toNat * 4 + g.safe.toNat * 2 + g.ready.toNat
  else if off = 8 then g.pwrcap
  else if off = 0x10 then g.peak * 2 ^ 32 + g.avg
  else if 0x100 ≤ off ∧ off ≤ 0x138 then
    let v := Tab.get {} g.vctl ((off - 0x100) / 8)
    v.cur * 2 ^ 16 + v.hi * 2 ^ 8 + v.lo
  else if 0x200 ≤ off ∧ off ≤ 0x240 then Tab.get 0 g.temp ((off - 0x200) / 8)
  else if off = 0x300 then g.uncorr * 2 ^ 32 + g.corr
  else if 0x10000 ≤ off ∧ off < 0x10000 + 128 * 16 then
    s.portDword ((off - 0x10000) / 128) ((off - 0x10000) % 128 / 8)
  else ofBytes ((List.range 8).map (fun i => Config.freeByte s.tick 3 (off + i)))

/-- Registers with RWS fields (00 R6): a write outside supervisor state traps PRIV. -/
def hubRws (off : Nat) : Bool :=
  off / 8 == 1 || (0x100 ≤ off && off < 0x140)

/-- An offset in the host launch ports (17 R470). -/
def isPort (off : Nat) : Bool := 0x10000 ≤ off && off < 0x10000 + 128 * 16

/-- A write of VCTLd (17 R465): ignored whole with LO > HI or a code above 28. -/
def Vctl.write (v : Vctl) (x : Nat) : Vctl :=
  let lo := x % 32
  let hi := x / 2 ^ 8 % 32
  if hi < lo ∨ 28 < hi ∨ 28 < lo then v else { v with hi := hi, lo := lo }

/-- A write to dword `i` of launch port `n`: a field of the record, or LCTL, on which the hub acts at the end of the cycle
(11 R351). -/
def State.portWrite (s : State) (n i : Nat) (v : Word) : State :=
  if i = 15 then { s with lctls := s.lctls ++ [(n, v)] }
  else
    let p := Tab.get {} s.ports n
    { s with ports := Tab.put s.ports n { p with dw := Tab.put p.dw i (v &&& portFields i) } }

/-- A write of the dword at an aligned offset (17 R471, 00 R6): `v` is the dword written, `ones` its bits that a
W1C field sees. -/
def State.hubWrite (s : State) (off v ones : Nat) : State :=
  let g := s.pkg
  if off = 0 then { s with pkg := { g with trip := g.trip && !(ones.testBit 2) } }
  else if off = 8 then { s with pkg := { g with pwrcap := min (v % 2 ^ 16) 30000 } }
  else if off = 0x10 then { s with pkg := { g with peak := g.peak &&& (2 ^ 32 - 1 - ones / 2 ^ 32 % 2 ^ 32) } }
  else if 0x100 ≤ off ∧ off ≤ 0x138 then
    let d := (off - 0x100) / 8
    { s with pkg := { g with vctl := Tab.put g.vctl d ((Tab.get {} g.vctl d).write v) } }
  else if off = 0x300 then
    { s with pkg := { g with uncorr := g.uncorr &&& (2 ^ 32 - 1 - ones / 2 ^ 32 % 2 ^ 32),
                             corr := g.corr &&& (2 ^ 32 - 1 - ones % 2 ^ 32) } }
  else if 0x10000 ≤ off ∧ off < 0x10000 + 128 * 16 then
    s.portWrite ((off - 0x10000) / 128) ((off - 0x10000) % 128 / 8) (word v)
  else s

/-- Bytes of an aligned hub dword written from byte `i` on. -/
def State.hubWriteBytes (s : State) (pa : Nat) (bs : List Byte) : State :=
  let off := pa - hubBase
  let d := off / 8 * 8
  let i := off % 8
  let old := toBytes 8 (s.hubDword d)
  let v := ofBytes (old.take i ++ bs ++ old.drop (i + bs.length))
  s.hubWrite d v (ofBytes bs * 2 ^ (8 * i))

/-! ## Physical bytes -/

/-- Byte intervals [lo, hi). -/
def inSpans (l : List (Nat × Nat)) (a : Nat) : Bool := l.any (fun p => p.1 ≤ a && a < p.2)

/-- The interval list without [lo, hi). -/
def cutInterval (l : List (Nat × Nat)) (lo hi : Nat) : List (Nat × Nat) :=
  l.flatMap (fun p =>
    if hi ≤ p.1 ∨ p.2 ≤ lo then [p]
    else (if p.1 < lo then [(p.1, lo)] else []) ++ (if hi < p.2 then [(hi, p.2)] else []))

/-- A byte whose contents are undefined reads a free value (00 R10). -/
def State.byteAt (s : State) (pa : Nat) : Byte :=
  if isHub pa then BitVec.ofNat 8 (s.hubDword ((pa - hubBase) / 8 * 8) >>> (8 * (pa % 8)))
  else if inSpans s.undef pa then Config.freeByte s.tick 8 pa
  else Memory.get s.mem pa

def State.bytes (s : State) (pa : Nat) : Nat → List Byte
  | 0 => []
  | n + 1 => s.byteAt pa :: s.bytes (pa + 1) n

def State.dword (s : State) (pa : Nat) : Nat := ofBytes (s.bytes pa 8)

/-- The 32-byte sector of `pa` carries poison (13 R429). -/
def State.poisoned (s : State) (pa : Nat) : Bool := s.poison.contains (pa / 32)

def State.poisonedIn (s : State) (pa n : Nat) : Bool :=
  s.poison.any (fun k => k * 32 < pa + n && pa < k * 32 + 32)

/-- Sectors [32 k, 32 k + 32) written whole lose their poison (13 R430). -/
def clearSectors (l : List Nat) (pa n : Nat) : List Nat :=
  l.filter (fun k => !(pa ≤ k * 32 && k * 32 + 32 ≤ pa + n))

def addSector (l : List Nat) (k : Nat) : List Nat := if l.contains k then l else k :: l

/-- Bytes written to memory; a dead granule becomes live (08 R264). The poison of a sector stays. -/
def State.write (s : State) (pa : Nat) (bs : List Byte) : State :=
  if isHub pa then s.hubWriteBytes pa bs
  else { s with mem := Memory.puts s.mem pa bs, undef := cutInterval s.undef pa (pa + bs.length),
                dead := s.dead.filter (fun g => !(g * 2 ^ 21 < pa + bs.length && pa < (g + 1) * 2 ^ 21))
                deadFrames := s.deadFrames.filter (fun l => !(l.any (fun f => f * 4096 < pa + bs.length && pa < (f + 1) * 4096))) }

def State.writeDword (s : State) (pa : Nat) (v : Nat) : State := s.write pa (toBytes 8 v)

/-- The granule becomes dead: every byte of it reads zero without poison (08 R264). -/
def State.markDead (s : State) (granule : Nat) : State :=
  { s with mem := Memory.clear s.mem (granule * 2 ^ 21) ((granule + 1) * 2 ^ 21),
           undef := cutInterval s.undef (granule * 2 ^ 21) ((granule + 1) * 2 ^ 21),
           poison := s.poison.filter (fun k => k * 32 / 2 ^ 21 != granule),
           dead := addSector s.dead granule }

/-- The same for a granule of a heap whose frames lie apart. -/
def State.markFrames (s : State) (l : List Nat) : State :=
  let s := l.foldl (fun (s : State) f =>
    { s with mem := Memory.clear s.mem (f * 4096) ((f + 1) * 4096), undef := cutInterval s.undef (f * 4096) ((f + 1) * 4096)
             poison := s.poison.filter (fun k => k * 32 / 4096 != f) }) s
  { s with deadFrames := l :: s.deadFrames }

/-- The byte lies in a dead granule. -/
def State.isDead (s : State) (pa : Nat) : Bool := s.dead.contains (pa / 2 ^ 21) || s.deadFrames.any (fun l => l.contains (pa / 4096))

/-- The contents of [pa, pa + n) are undefined from here on; a dead granule goes on reading zero (08 R262, R264). -/
def State.forget (s : State) (pa n : Nat) : State :=
  let alive := s.dead.foldl (fun l g => cutInterval l (g * 2 ^ 21) ((g + 1) * 2 ^ 21)) [(pa, pa + n)]
  { s with undef := s.deadFrames.flatten.foldl (fun l f => cutInterval l (f * 4096) ((f + 1) * 4096)) alive ++ s.undef }

/-! ## Cores, threads, tasks and launches by number -/

def State.core (s : State) (m : Nat) : Core := Tab.get {} s.cores m
def State.setCore (s : State) (m : Nat) (c : Core) : State := { s with cores := Tab.put s.cores m c }
def State.modCore (s : State) (m : Nat) (f : Core → Core) : State := s.setCore m (f (s.core m))

/-- Threads are keyed by 8 × master + hardware thread. -/
def thrKey (m t : Nat) : Nat := 8 * m + t
def State.thr (s : State) (k : Nat) : Thread := Tab.get {} s.threads k
def State.setThr (s : State) (k : Nat) (th : Thread) : State := { s with threads := Tab.put s.threads k th }
def State.modThr (s : State) (k : Nat) (f : Thread → Thread) : State := s.setThr k (f (s.thr k))

def State.taskOf (s : State) (id : Nat) : Task := Tab.get {} s.tasks id
def State.setTask (s : State) (id : Nat) (x : Task) : State := { s with tasks := Tab.put s.tasks id x }
def State.modTask (s : State) (id : Nat) (f : Task → Task) : State := s.setTask id (f (s.taskOf id))
def State.launchOf (s : State) (id : Nat) : Launch := Tab.get {} s.launches id
def State.setLaunch (s : State) (id : Nat) (x : Launch) : State := { s with launches := Tab.put s.launches id x }

/-- The core whose scratchpad a task's local window reaches, for its engines until its save is complete (13 R452); none while it is not on a
core (01 R30, R31): no core has this number. -/
def Task.window (t : Task) : Nat :=
  match t.life with
  | .live | .draining => t.core
  | .saved => if t.saving.isSome then t.core else 0x2000
  | _ => 0x2000

/-- A task whose threads and engines act (13 R416, R472). -/
def State.taskRuns (s : State) (id : Nat) : Bool :=
  match (s.taskOf id).life with
  | .live | .draining => true
  | _ => false

/-- A task that leaves its core: its arrays complete what is under way before its save (05 R169, 06 R202). -/
def State.taskSaving (s : State) (id : Nat) : Bool := (s.taskOf id).life == .saved && (s.taskOf id).saving.isSome

/-- A held pop has counted its blocked cycles; the thread then executes the instruction afresh (07 R228, R229). -/
def Thread.settle (th : Thread) (cyc : Nat) : Thread :=
  match th.held with
  | some (.qpop ..) | some (.bqpop _) => { th with lodcyc := th.lodcyc + word (cyc - th.heldFrom), held := none }
  | _ => { th with held := none }

/-- A stop of a thread at its boundary: a held instruction has not executed (07 R229), and `stopIn` says which one it was. -/
def Thread.stopAt (th : Thread) (cyc : Nat) : Thread :=
  { th.settle cyc with stopIn := if th.held.isSome then th.held else th.stopIn }

/-- Handles (11 R342): JOB, SEQ, ROLE. -/
def handleJob (h : Nat) : Nat := h / 2 ^ 48 % 2 ^ 16
def handleRole (h : Nat) : Nat := h % 2 ^ 12
def handleLid (h : Nat) : Nat := h / 2 ^ 12 * 2 ^ 12

/-- The core a role of a launch is bound to (01 R30, R31). -/
def State.bound (s : State) (lid role : Nat) : Option Nat :=
  match Tab.get 0 (s.launchOf lid).bind role with
  | 0 => none
  | n + 1 => some n

/-! ## Scratchpad and rings -/

def slotBytes (slot : Nat) : Nat := if slot = 0 then 4096 else if slot = 1 then 16384 else 32768

/-- Slot i of a ring begins at base + i × (256 + payload) (01 R26); its descriptor is the first dword there. -/
def Ring.slotAt (r : Ring) (i : Nat) : Nat := r.base + i * (256 + slotBytes r.slot)

def Ring.publish (r : Ring) : Ring :=
  if r.count < r.depth then { r with tail := (r.tail + 1) % r.depth, count := r.count + 1 } else r
def Ring.release (r : Ring) : Ring :=
  if 0 < r.count then { r with head := (r.head + 1) % r.depth, count := r.count - 1 } else r

/-- The descriptor of a publication of this cycle that a release of `off` makes room for: releases take effect before
publications (06 R177). -/
def Ring.lateFor (r : Ring) (cyc off v : Nat) : Option Nat :=
  match r.late with
  | some (c, x) => if r.decl && c == cyc && v == 0 && 0 < r.count && off == r.slotAt r.head then some x else none
  | none => none

/-- What a handshake write of `v` to the dword at `off` does to a ring (06 R175 to R177); `own`: the writer may
publish. -/
def Ring.store (r : Ring) (cyc off v : Nat) (own : Bool) : Ring :=
  if !r.decl then r
  else if v = 0 then
    (if off = r.slotAt r.head then
       (if (r.lateFor cyc off v).isSome then { r.release.publish with late := none } else r.release)
     else r)
  else if own && off == r.slotAt r.tail then
    (if r.count < r.depth then r.publish else { r with late := some (cyc, v) })
  else r

/-- The slot of a ring that a scratchpad offset lies in. -/
def Ring.slotOf (r : Ring) (off : Nat) : Option Nat :=
  let n := 256 + slotBytes r.slot
  if r.decl && r.base ≤ off && off < r.base + r.depth * n then some ((off - r.base) / n) else none

def Core.ring (c : Core) (i : Nat) : Ring := Tab.get {} c.rings i
def Core.setRing (c : Core) (i : Nat) (r : Ring) : Core := { c with rings := Tab.put c.rings i r }

def Core.scrWrite (c : Core) (off : Nat) (bs : List Byte) : Core :=
  { c with scratch := Memory.puts c.scratch off bs, sundef := cutInterval c.sundef off (off + bs.length) }
def Core.scrByte (c : Core) (tick off : Nat) : Byte :=
  if inSpans c.sundef off then Config.freeByte tick 9 off else Memory.get c.scratch off

/-- A handshake write seen by every ring of a core; where a release makes room for a publication of the same cycle, that
one's descriptor stands. -/
def Core.handshake (c : Core) (cyc off v : Nat) (own : Bool) : Core :=
  let k : Core := { c with rings := c.rings.map (fun e => (e.1, e.2.store cyc off v own)) }
  match c.rings.findSome? (fun e => e.2.lateFor cyc off v) with
  | some x => k.scrWrite off (toBytes 8 x)
  | none => k

/-- The slots in which [off, off + n) lies and that record `slot` of task `task` does not hold become undefined (06 R177). -/
def Core.unheld (c : Core) (task slot off n : Nat) : Core :=
  c.rings.foldl (fun c e =>
    (List.range e.2.depth).foldl (fun (c : Core) i =>
      let lo := e.2.slotAt i
      let hi := lo + 256 + slotBytes e.2.slot
      if e.2.decl && off < hi && lo < off + n && !(e.2.holds.contains (task, slot, i)) then
        { c with sundef := (lo, hi) :: cutInterval c.sundef lo hi }
      else c) c) c

/-- The record observes `v` in the dword at `off`: it holds the tail slot when its descriptor is zero, the head slot when it is
not (06 R177). -/
def Ring.observe (r : Ring) (task slot off v : Nat) : Ring :=
  if !r.decl then r
  else if v = 0 ∧ off = r.slotAt r.tail then { r with holds := (task, slot, r.tail) :: r.holds.filter (· != (task, slot, r.tail)) }
  else if v ≠ 0 ∧ off = r.slotAt r.head then { r with holds := (task, slot, r.head) :: r.holds.filter (· != (task, slot, r.head)) }
  else r

/-- A record's handshake write ends its hold on the slot. -/
def Ring.letGo (old new : Ring) (task slot off : Nat) : Ring :=
  if old.head = new.head ∧ old.tail = new.tail then new
  else { new with holds := new.holds.filter (fun h => !(h.1 == task && h.2.1 == slot && old.slotAt h.2.2 == off)) }
def Core.scrClear (c : Core) (off n : Nat) : Core := { c with spoison := clearSectors c.spoison off n }
def Core.scrPoisonedIn (c : Core) (off n : Nat) : Bool :=
  c.spoison.any (fun k => k * 32 < off + n && off < k * 32 + 32)

/-! ## Locations -/

def State.locByte (s : State) : Loc → Byte
  | .mem pa => s.byteAt pa
  | .far _ _ => 0
  | .scr c off => (s.core c).scrByte s.tick off

def State.locPoison (s : State) : Loc → Bool
  | .mem pa => s.poisoned pa
  | .far _ _ => false
  | .scr c off => (s.core c).spoison.contains (off / 32)

def State.readLocs (s : State) (l : List Loc) : List Byte := l.map s.locByte

/-- A byte as reads of this cycle see it: its value when the cycle began (10 R340). -/
def State.seen (s : State) (l : Loc) : PByte :=
  match s.older.find? (fun e => e.1 == l) with
  | some e => e.2
  | none => (s.locByte l, s.locPoison l)

def State.seenDword (s : State) (pa : Nat) : Nat :=
  ofBytes ((List.range 8).map (fun i => (s.seen (.mem (pa + i))).1))

/-- The bytes about to be written, kept for the reads of this cycle. -/
def State.note (s : State) (l : List Loc) : State :=
  let fresh : Loc → Bool
    | .mem pa => !(isHub pa) && !(s.older.any (fun e => e.1 == .mem pa))
    | .far _ _ => false
    | .scr c off => !(s.older.any (fun e => e.1 == .scr c off))
  { s with older := (l.filter fresh).map (fun x => (x, s.locByte x, s.locPoison x)) ++ s.older }

/-- Hub dwords written by an access, each whole: a byte run that stays in one hub dword is one write. -/
def State.writeRaw : State → List (Loc × Byte) → State
  | s, [] => s
  | s, (.mem pa, b) :: t =>
    if isHub pa then
      let run := (t.takeWhile (fun e => match e.1 with | .mem p => isHub p && p / 8 == pa / 8 | _ => false)).map (·.2)
      let s' := s.hubWriteBytes pa (b :: run)
      (t.drop run.length).foldl (fun s e => match e.1 with | .mem p => s.write p [e.2] | _ => s) s'
    else (s.write pa [b]).writeRaw t
  | s, (.far _ _, _) :: t => s.writeRaw t
  | s, (.scr c off, b) :: t => (s.modCore c (fun k => k.scrWrite off [b])).writeRaw t

/-- Bytes written by an access. -/
def State.writeLocs (s : State) (l : List (Loc × Byte)) : State := (s.note (l.map (·.1))).writeRaw l

end Sys2Proof.Machine
end

