-- ==== Sys2Proof/Machine/Translate.lean ====
section
/-! DEFINITION. Scratchpad windows (01 R29 to R32), page tables and walks (12 R372 to R381), access tables and
freeze (12 R385 to R390), and the checks every access meets (07 R206). -/

namespace Sys2Proof.Machine

/-- Who makes an access: its master number, job and supervisor context, the launch and role its cluster window
takes, the core its local window reaches, the graph GID it is restricted to (12 R377, R378), and the cache its walks fill
(R380). -/
structure Agent where
  master : Nat
  job : Nat
  phys : Bool := false
  svc : Bool := false
  lid : Nat := 0
  role : Nat := 0
  homeCore : Nat := 0
  restricted : Bool := false
  gid : Nat := 0
  cache : CacheAt := .hub
deriving DecidableEq, Repr

structure Need where
  rd : Bool := false
  wr : Bool := false
  ft : Bool := false
deriving DecidableEq, Repr

def needRead : Need := { rd := true }
def needWrite : Need := { wr := true }
def needBoth : Need := { rd := true, wr := true }
def needFetch : Need := { ft := true }

/-! ## Windows -/

def inAperture (a : Nat) : Bool := 0x00FFFFFFF0000000 ≤ a && a ≤ 0x00FFFFFFFFFFFFFF
def inCluster (a : Nat) : Bool := 0x00FFFFFFF0000000 ≤ a && a ≤ 0x00FFFFFFF3FFFFFF
def inLocal (a : Nat) : Bool := 0x00FFFFFFFFF00000 ≤ a && a ≤ 0x00FFFFFFFFFFFFFF

/-- The place of a byte address: 0 ordinary memory, 1 the cluster window, 2 the local window, 3 a hole. -/
def placeOf (a : Nat) : Nat :=
  if !inAperture a then 0 else if inCluster a then 1 else if inLocal a then 2 else 3

/-- The scratchpad byte a window address reaches; none where R30 refuses the access. -/
def windowLoc (s : State) (ag : Agent) (a : Nat) : Option Loc :=
  let off := a % 2 ^ 20
  if 0xB0000 ≤ off then none
  else if inLocal a then (if ag.homeCore < 4096 then some (.scr ag.homeCore off) else none)
  else if inCluster a then
    (s.bound ag.lid (ag.role / 64 * 64 + a / 2 ^ 20 % 64)).map (fun c => .scr c off)
  else none

/-! ## Walks -/

/-- A translation found: the leaf, the address it was read from, its level; the job entry's first dword, and the table entries
above the leaf, from level 0. -/
structure Tr where
  leaf : Word
  leafAt : Nat
  level : Nat
  root : Word := 0
  path : List Word := []
deriving DecidableEq, Repr

def leafP (e : Word) : Bool := bit e 0
def leafR (e : Word) : Bool := bit e 1
def leafW (e : Word) : Bool := bit e 2
def leafX (e : Word) : Bool := bit e 3
def leafA (e : Word) : Bool := bit e 5
def leafD (e : Word) : Bool := bit e 6
def leafC (e : Word) : Bool := bit e 10
def leafIs (e : Word) : Bool := bit e 11
def leafPfn (e : Word) : Nat := bits e 43 12
def leafRpkg (e : Word) : Nat := bits e 55 48
def leafGid (e : Word) : Nat := bits e 63 56

def levelSize (lv : Nat) : Nat := if lv = 1 then 2 ^ 30 else if lv = 2 then 2 ^ 21 else 2 ^ 12

def levelIndex (va lv : Nat) : Nat :=
  if lv = 0 then va / 2 ^ 39 % 2 ^ 18 else if lv = 1 then va / 2 ^ 30 % 512
  else if lv = 2 then va / 2 ^ 21 % 512 else va / 2 ^ 12 % 512

/-- R375, for an entry with P = 1. -/
def malformed (e : Word) (lv va : Nat) : Bool :=
  if leafIs e then
    lv == 0 || bits e 9 7 != 0 ||
    (lv == 1 && leafPfn e % 2 ^ 18 != 0) || (lv == 2 && leafPfn e % 2 ^ 9 != 0) ||
    (leafC e && (lv == 1 || lv == 2 || leafPfn e % 16 != va / 2 ^ 12 % 16)) ||
    (0xC0 ≤ leafRpkg e && leafRpkg e ≤ 0xFE) || (bit e 47 && leafRpkg e != 0xFF)
  else
    lv == 3 || bits e 63 44 != 0 || bits e 11 1 != 0 || !populated (leafPfn e * 4096) 4096

/-- The dword `i` of a job's entry in memory, or the cause with which an access for the job fails (R372, R376). -/
def jobWordNow (s : State) (job i : Nat) : Except Nat Word :=
  let at_ := s.sup.jobtab * 2 ^ 22 + 64 * job
  if s.poisonedIn at_ 64 then .error 0x09
  else
    let e := s.dword at_
    if e % 2 = 0 ∨ bits (word e) 63 44 ≠ 0 ∨ bits (word e) 20 1 ≠ 0 then .error 0x05
    else .ok (word (s.dword (at_ + 8 * i)))

/-- A dword of a job's entry as an access meets it: the one in memory, or a different one read before and not invalidated since
(R381), a free choice. -/
def jobWord (s : State) (job i : Nat) : Except Nat Word :=
  let now := jobWordNow s job i
  let l := s.jobs.filter (fun e => e.1 == job && e.2.1 == i && now.toOption != some e.2.2)
  match l[Config.freeNat s.tick 18 (8 * job + i) % (l.length + 1)]? with
  | some e => .ok e.2.2
  | none => now

/-- The bytes an entry of this level covers. -/
def entrySize (lv : Nat) : Nat := if lv = 0 then 2 ^ 39 else levelSize lv

/-- A table entry of a walk: the one in memory, or, where `stale` allows it, a different one read before and not invalidated since
(R380, R381), a free choice; none when its sector is poisoned. -/
def readEntry (s : State) (stale : Bool) (job va lv at_ : Nat) : Option Word :=
  let now := if (s.seen (.mem at_)).2 then none else some (word (s.seenDword at_))
  let l :=
    if stale then
      s.walks.filter (fun e =>
        e.job == job && e.level == lv && e.va == va / entrySize lv * entrySize lv && now != some e.entry)
    else []
  match l[Config.freeNat s.tick 17 (va / 2 ^ 12 * 4 + lv) % (l.length + 1)]? with
  | some e => some e.entry
  | none => now

def walkFrom (s : State) (stale : Bool) (job va : Nat) (root : Word) : (fuel lv table : Nat) → List Word → Except Nat Tr
  | 0, _, _, _ => .error 0x06
  | n + 1, lv, table, path =>
    let at_ := table + 8 * levelIndex va lv
    match readEntry s stale job va lv at_ with
    | none => .error 0x09
    | some e =>
      if !leafP e then .error 0x05
      else if malformed e lv va then .error 0x06
      else if leafIs e then .ok { leaf := e, leafAt := at_, level := lv, root, path }
      else walkFrom s stale job va root n (lv + 1) (leafPfn e * 4096) (path ++ [e])

def walkWith (s : State) (stale : Bool) (job va : Nat) : Except Nat Tr :=
  match if stale then jobWord s job 0 else jobWordNow s job 0 with
  | .error c => .error c
  | .ok je =>
    let root := bits je 43 21 * 2 ^ 21
    if populated root (2 ^ 21) then walkFrom s stale job va je 4 0 root [] else .error 0x06

/-- Translate of R376 up to the leaf, from memory: the leaf, or the cause of the failing walk. -/
def walk (s : State) (job va : Nat) : Except Nat Tr := walkWith s false job va

/-- The fields of a leaf of a 64 KiB group may come from any member with C = 1 (R375): a free choice. -/
def groupChoice (s : State) (tr : Tr) (va : Nat) : Tr :=
  if tr.level = 3 ∧ leafC tr.leaf then
    let j := Config.freeNat s.tick 10 (va / 2 ^ 12) % 16
    let at_ := tr.leafAt / 128 * 128 + 8 * j
    let e := word (s.seenDword at_)
    if !(s.seen (.mem at_)).2 && leafP e && leafIs e && leafC e && !(malformed e 3 (va / 2 ^ 16 * 2 ^ 16 + j * 2 ^ 12)) then
      { tr with leaf := word (setBits (setBits e.toNat 43 12 (leafPfn tr.leaf)) 5 5 (if leafA tr.leaf then 1 else 0)) }
    else tr
  else tr

/-- The cached copies of leaves that translate `va` for the job (R381). -/
def cachedFor (s : State) (job va : Nat) : List Cached :=
  s.cache.filter (fun c => c.job == job && c.va / levelSize c.level == va / levelSize c.level)

/-- The rights a leaf denies (R376): the cause, if any. -/
def denies (ag : Agent) (need : Need) (e : Word) : Option Nat :=
  if (need.rd && !leafR e) || (need.wr && !leafW e) || (need.ft && !leafX e) then some 0x06
  else if leafGid e ≠ 0 ∧ ag.restricted ∧ leafGid e ≠ ag.gid then some 0x07
  else none

/-- The translation of a page for an access: a cached copy or a walk, a free choice, walking again before a fault
and before the first write through a leaf whose D is 0 (R379, R381). The error is the step of R206 (4 or 5) and the
cause. -/
def translate (s : State) (ag : Agent) (va : Nat) (need : Need) : Except (Nat × Nat) Tr :=
  let through (stale : Bool) : Except (Nat × Nat) Tr :=
    match walkWith s stale ag.job va with
    | .error c => .error (4, c)
    | .ok tr =>
      let tr := groupChoice s tr va
      match denies ag need tr.leaf with
      | some c => .error (5, c)
      | none => .ok tr
  let fresh : Except (Nat × Nat) Tr :=
    match through true with
    | .ok tr => .ok tr
    | .error _ => through false
  let l := cachedFor s ag.job va
  match l[Config.freeNat s.tick 11 (va / 2 ^ 12) % (l.length + 1)]? with
  | none => fresh
  | some c =>
    if (denies ag need c.leaf).isSome || (need.wr && !leafD c.leaf) then fresh
    else .ok { leaf := c.leaf, leafAt := 0, level := c.level }

def Tr.pa (tr : Tr) (va : Nat) : Nat := leafPfn tr.leaf * 4096 + va % levelSize tr.level

/-- The piece of a page under migration that holds an address is at its new frame once it has moved (R384). -/
def State.movedPa (s : State) (job a pa : Nat) : Nat :=
  match s.migrations.find? (fun m => m.job == job && m.va ≤ a && a < m.va + levelSize m.level) with
  | some m => if (a - m.va) / 4096 < m.next then m.frame + (a - m.va) else pa
  | none => pa

/-- The place of what the hub has read of the tables. -/
def hubDie : Nat := 8

/-- The translation tile that a core's miss goes to (R380). -/
def tileOf (master job va : Nat) : Nat × Nat := (master / 512, bits (word va) 29 21 ^^^ bits (word va) 38 30 ^^^ job % 512)

def CacheAt.capacity : CacheAt → Nat
  | .tlb _ => 64
  | .engine _ u => if u = 0 then 16 else 2
  | .tile _ _ => 2048
  | .hub => 1024

/-- A leaf enters a cache; a full one gives up its oldest leaf. -/
def fillCache (l : List Cached) (c : Cached) : List Cached :=
  if l.contains c then l
  else c :: (l.filter (fun x => x.place != c.place) ++ (l.filter (fun x => x.place == c.place)).take (c.place.capacity - 1))

/-- A leaf enters the caches on the way of the access that walked for it: the agent's own, and the tile; a streamed page does not
enter a private TLB (R380). What the hub translates, for whichever master, is walked by the hub. The table entries above the leaf
enter the tile's walk cache; the hub, which has none, may use those it has read all the same until they are invalidated (R381:
DEDUCED, log 26). -/
def State.fill (s : State) (ag : Agent) (va : Nat) (tr : Tr) (leaf : Word) : State :=
  let c (p : CacheAt) : Cached := ⟨p, ag.job, va / levelSize tr.level * levelSize tr.level, tr.level, leaf⟩
  let t := if ag.cache = .hub then (hubDie, 0) else tileOf ag.master ag.job va
  let own := match ag.cache with | .tlb _ => !(bit leaf 4) | _ => true
  let l := if ag.cache = .hub then s.cache else fillCache s.cache (c (.tile t.1 t.2))
  let new := (tr.path.zip (List.range 4)).map (fun e =>
    ({ die := t.1, slice := t.2, job := ag.job, level := e.2, va := va / entrySize e.2 * entrySize e.2, entry := e.1 } : WalkEntry))
  { s with cache := if own then fillCache l (c ag.cache) else l
           walks := new.filter (fun e => !(s.walks.contains e)) ++ s.walks }

/-- The dword of a job's entry that an access has used. -/
def State.keepJob (s : State) (job i : Nat) (v : Word) : State :=
  if s.jobs.contains (job, i, v) then s else { s with jobs := (job, i, v) :: s.jobs }

/-- The leaf with the bits that its use sets (R379). -/
def Tr.marked (tr : Tr) (need : Need) : Word := word (tr.leaf.toNat ||| 2 ^ 5 ||| (if need.wr then 2 ^ 6 else 0))

/-- A and D set on the leaf of a translation that is used, and the leaf cached (R379, R380). -/
def commitTr (s : State) (ag : Agent) (va : Nat) (need : Need) (tr : Tr) : State :=
  let leaf := tr.marked need
  let s :=
    if leaf = tr.leaf ∨ tr.leafAt = 0 then s
    else s.writeDword tr.leafAt (s.dword tr.leafAt ||| 2 ^ 5 ||| (if need.wr then 2 ^ 6 else 0))
  if tr.leafAt = 0 then s else (s.keepJob ag.job 0 tr.root).fill ag va tr leaf

/-! ## Access tables and freeze -/

/-- The access table entries after reset (R387). -/
def accReset (i : Nat) : AccEntry :=
  if i = 0 then ⟨0xFFFFFFFF, 0, true, true, true, 0x101F, 0x1000⟩ else {}

def State.accEntry (s : State) (target i : Nat) : AccEntry :=
  match Tab.find s.acc (64 * target + i) with
  | some e => e
  | none => accReset i

/-- The entry that governs a request of this cycle: one written in it governs from the next on (R395). -/
def State.accBefore (s : State) (target i : Nat) : AccEntry :=
  match Tab.find s.accOld (64 * target + i) with
  | some e => e
  | none => s.accEntry target i

/-- Whether the entries of a target allow a request to a 4 KiB unit (R387). -/
def accAllows (s : State) (target master unit : Nat) (rd wr : Bool) : Bool :=
  (List.range 64).any (fun i =>
    let e := s.accBefore target i
    e.v && e.mlo ≤ master && master ≤ e.mhi && e.base ≤ unit && unit ≤ e.limit && (!rd || e.r) && (!wr || e.w))

/-- The target and unit that deny a request, if any (R386). -/
def denied (s : State) (master : Nat) (rd wr : Bool) : Loc → Option (Nat × Nat)
  | .mem pa =>
    let t := targetOf pa
    if isHole pa || !accAllows s t master (pa / 4096) rd wr then some (t, pa / 4096) else none
  | .far _ _ => none
  | .scr c off =>
    if accAllows s (0x1000 + c) master (off / 4096) rd wr then none else some (0x1000 + c, off / 4096)

/-- The CORE field of an entry about a master: its number within its kind. -/
def masterCore (master : Nat) : Nat := if master < 0x1000 then master else if master < 0x1020 then master - 0x1000 else 0

/-- A queue entry waits to be written by the hub (13 R412). -/
def State.queueEntry (s : State) (e : PendEntry) : State := { s with waitFq := s.waitFq ++ [e] }

/-- The freeze of a master: its threads stop at their boundaries, a held one to execute afresh (R389, R390, 07
R229). -/
def State.freezeMaster (s : State) (master : Nat) : State :=
  { s with frozen := if s.frozen.contains master then s.frozen else master :: s.frozen
           threads := s.threads.map (fun e =>
             if e.1 / 8 = master then (e.1, e.2.stopAt s.cyc) else e) }

/-- A denial: the master is frozen, and one ACCESS_FREEZE entry is made per freeze (R389, 13 R411), also for one with a `freeze`
of the same cycle (R395). -/
def State.deny (s : State) (master target unit : Nat) (rd wr : Bool) : State :=
  if s.frozen.contains master && Tab.get 0 s.frozeAt master != s.cyc + 1 then s
  else
    State.queueEntry { s.freezeMaster master with
        frozeAt := Tab.del s.frozeAt master, deniedAt := Tab.put s.deniedAt master (s.cyc + 1) }
      { d0 := 0x08 * 2 ^ 56 + 6 * 2 ^ 52 + masterCore master * 2 ^ 37 + 2 ^ 16, d1 := 0, d2 := word (unit * 4096),
        d3 := word (target * 2 ^ 48 + master * 2 ^ 35 + (if wr then 2 ^ 32 else 0) + (if rd then 2 ^ 31 else 0)),
        fault := none }

/-! ## The checks of an access (07 R206) -/

/-- An access that passed steps 1 to 5: where each byte lies, and the translations it uses. -/
structure Access where
  locs : List Loc
  pages : List (Nat × Tr)
deriving DecidableEq, Repr

/-- Why an access does not take place: a trap, or a denial at a target. -/
inductive Fail where
  | trap (cause : Nat) (tval : Word)
  | denied (target unit : Nat)
deriving DecidableEq, Repr

/-- The byte addresses ea to ea + n − 1, wrapping (R205). -/
def touched (ea n : Nat) : List Nat := (List.range n).map (fun i => (ea + i) % 2 ^ 64)

/-- The pages of a list of addresses, each once. -/
def pagesOf (l : List Nat) : List Nat :=
  l.foldl (fun acc a => if acc.contains (a / 4096) then acc else acc ++ [a / 4096]) []

/-- The least failing byte of a step: the lowest address on a page that fails at that step (R206). -/
def lowestFailing (addrs : List Nat) (bad : List (Nat × Nat)) : Option (Nat × Nat) :=
  let l := addrs.filterMap (fun a => (bad.find? (fun p => p.1 == a / 4096)).map (fun p => (a, p.2)))
  l.foldl (fun m e => match m with | none => some e | some x => if e.1 < x.1 then some e else some x) none

/-- Steps 1 to 5 of R206 for an access of `n` bytes at `ea`; `align` when it must be aligned. -/
def checkVirtual (s : State) (ag : Agent) (ea : Word) (n : Nat) (need : Need) (align : Bool) :
    Except (Nat × Word) Access :=
  let addrs := touched ea.toNat n
  if !(addrs.all (fun a => canonical (word a))) then .error (0x03, ea)
  else if align && ea.toNat % n != 0 then .error (0x04, ea)
  else if ag.svc && ag.phys then
    if addrs.any (fun a => 2 ^ 44 ≤ a) then .error (0x06, ea) else .ok ⟨addrs.map .mem, []⟩
  else
    let p := placeOf ea.toNat
    if addrs.any (fun a => placeOf a != p) then .error (0x06, ea)
    else if p ≠ 0 then
      if ag.svc then .error (0x06, ea)
      else
        let l := addrs.filterMap (windowLoc s ag)
        if l.length = n then .ok ⟨l, []⟩ else .error (0x06, ea)
    else
      let ts := (pagesOf addrs).map (fun k => (k, translate s ag (k * 4096) need))
      let at_ (step : Nat) : List (Nat × Nat) :=
        ts.filterMap (fun t => match t.2 with | .error (st, c) => if st = step then some (t.1, c) else none | .ok _ => none)
      match lowestFailing addrs (at_ 4) with
      | some (a, c) => .error (c, word a)
      | none =>
        match lowestFailing addrs (at_ 5) with
        | some (a, c) => .error (c, word a)
        | none =>
          let pages := ts.filterMap (fun t => match t.2 with | .ok tr => some (t.1, tr) | .error _ => none)
          let loc (a : Nat) : Loc :=
            match pages.find? (fun p => p.1 == a / 4096) with
            | some (_, tr) =>
              if leafRpkg tr.leaf = 0xFF then .mem (s.movedPa ag.job a (tr.pa (a / 4096 * 4096) + a % 4096))
              else .far (leafRpkg tr.leaf) (tr.pa (a / 4096 * 4096) + a % 4096)
            | none => .mem 0
          .ok ⟨addrs.map loc, pages⟩

/-- Steps 1 to 6. -/
def checkAccess (s : State) (ag : Agent) (ea : Word) (n : Nat) (need : Need) (align : Bool) :
    Except Fail Access :=
  match checkVirtual s ag ea n need align with
  | .error (c, v) => .error (.trap c v)
  | .ok acc =>
    match acc.locs.findSome? (denied s ag.master (need.rd || need.ft) need.wr) with
    | some (t, u) => .error (.denied t u)
    | none => .ok acc

/-- Where a byte that the agent can name lies. -/
def State.place (s : State) (ag : Agent) (ea : Word) : Option Loc :=
  match checkVirtual s ag ea 1 {} false with
  | .ok acc => acc.locs.head?
  | .error _ => none

/-- A and D set on the leaves of an access that proceeds; one that faults at any step sets neither (12 R379). -/
def commitAccess (s : State) (ag : Agent) (need : Need) (acc : Access) : State :=
  acc.pages.foldl (fun s p => commitTr s ag (p.1 * 4096) need p.2) s

/-- The leaves of an access that goes to another package: one whose bits stand is cached; the others are marked when the access has been
performed (12 R379, 07 R213). -/
def commitSent (s : State) (ag : Agent) (need : Need) (acc : Access) : State :=
  acc.pages.foldl (fun s p => if p.2.marked need = p.2.leaf then commitTr s ag (p.1 * 4096) need p.2 else s) s
def Access.marks (acc : Access) (need : Need) : List (Nat × Word) :=
  acc.pages.filterMap (fun p =>
    if p.2.leafAt = 0 ∨ p.2.marked need = p.2.leaf then none else some (p.2.leafAt, p.2.marked need))

/-- A and D set late, on a leaf that still maps its page where it did. -/
def State.markLeaf (s : State) (e : Nat × Word) : State :=
  let w := word (s.dword e.1)
  if leafP w && leafIs w && leafPfn w == leafPfn e.2 && leafRpkg w == leafRpkg e.2 then s.writeDword e.1 (w ||| (e.2 &&& 0x60)).toNat else s
def State.markLeaves (s : State) (l : List (Nat × Word)) : State := l.foldl State.markLeaf s

/-- The package another package's bytes lie in, when the access goes there. -/
def Access.far (acc : Access) : Option (Nat × Nat) :=
  acc.locs.findSome? (fun l => match l with | .far p pa => some (p, pa) | _ => none)

/-- The sectors an access reads carry poison; an RMW reads what stands there, a read what stood there when the cycle began. -/
def Access.poisoned (acc : Access) (s : State) (rmw : Bool) : Bool :=
  acc.locs.any (fun l => if rmw then s.locPoison l else (s.seen l).2)

end Sys2Proof.Machine
end

