-- ==== Sys2Proof/Machine/Ops.lean ====
section
/-! DEFINITION. The named operations the meanings share: registers and the pc of the acting thread, the fault queue
and the entries of 13 R411 to R413, TAKING A TRAP and returning from one (13 R399 to R407), and a checked access of an
instruction (07 R206 to R213). -/

namespace Sys2Proof.Machine

/-! ## The acting thread and its registers (04 R116) -/

def State.curKey (s : State) : Nat := thrKey s.cur.m s.cur.t
def State.me (s : State) : Thread := s.thr s.curKey
def State.modMe (s : State) (f : Thread → Thread) : State := s.modThr s.curKey f
/-- The core the acting thread runs on. -/
def State.myCore (s : State) : Core := s.core s.cur.m
def State.modMyCore (s : State) (f : Core → Core) : State := s.modCore s.cur.m f
/-- The task of the acting thread. -/
def State.myTask (s : State) : Task := s.taskOf s.me.task
def State.modMyTask (s : State) (f : Task → Task) : State := s.modTask s.me.task f

/-- x0 reads zero. -/
def Thread.reg (th : Thread) (r : Reg) : Word := if r = 0 then 0 else Tab.get 0 th.regs r.toNat
/-- A write to x0 is discarded; a written register holds good data again (13 R429). -/
def Thread.setReg (th : Thread) (r : Reg) (v : Word) : Thread :=
  if r = 0 then th
  else { th with regs := Tab.put th.regs r.toNat v, badRegs := th.badRegs.filter (fun k => k != r.toNat) }

def State.rx (s : State) (r : Reg) : Word := s.me.reg r
def State.wx (s : State) (r : Reg) (v : Word) : State := s.modMe (fun th => th.setReg r v)
def State.goto (s : State) (pc : Word) : State := s.modMe (fun th => { th with pc := pc, held := none })
/-- The next instruction in sequence (04 R133: the pc wraps). -/
def State.next (s : State) : State := s.goto (s.me.pc + 8)
/-- A register result, then the next instruction. -/
def State.result (s : State) (d : Reg) (v : Word) : State := (s.wx d v).next

/-- The register `i` places after `r`, for a group of consecutive registers. -/
def regPlus (r : Reg) (i : Nat) : Reg := r + BitVec.ofNat 6 i

/-! ## Faults (13 R398 to R413) -/

/-- Causes that take the task route where they can (R402). -/
def taskRoute (cause : Nat) : Bool := cause == 0x0A || cause == 0x0B || cause == 0x19

/-- Causes that merge into an open entry (R413). -/
def mergeCause (cause : Nat) : Bool := cause == 0x05 || cause == 0x06 || cause == 0x07

def mkFault (s : State) (k cause source : Nat) (tval detail : Word) (retry : Retry) : FaultRec :=
  let th := s.thr k
  { cause, source, tval, detail, task := th.task, slot := th.slot, thread := k % 8, core := masterCore (k / 8),
    job := handleJob th.task, retry }

/-- The TCAUSE value of a fault (R400). -/
def FaultRec.tcause (f : FaultRec) : Word := word (f.source * 2 ^ 12 + f.cause)

def fqLog (base : Word) : Nat := bits base 4 0
def fqAddr (base : Word) (seq : Nat) : Nat := bits base 43 12 * 4096 + 32 * (seq % 2 ^ fqLog base)
/-- An entry can be made: LOG2N is 7 to 16, and there is room (R410, R412). -/
def fqRoom (base : Word) (head tail : Nat) : Bool :=
  7 ≤ fqLog base && fqLog base ≤ 16 && (tail + 2 ^ 32 - head) % 2 ^ 32 < 2 ^ fqLog base

/-- COUNT incremented by an atomic add; it stops at 0xFFFF (R411, R413). -/
def State.countEntry (s : State) (seq : Nat) : State :=
  let a := fqAddr s.sup.fqbase seq
  let d := s.dword a
  if d / 2 ^ 16 % 2 ^ 16 = 0xFFFF then s else s.writeDword a (d + 2 ^ 16)

/-- The fault merged into an open entry of its cause, job and 4 KiB page, if there is one (R413). -/
def State.mergeFault (s : State) (f : FaultRec) : Option State :=
  if mergeCause f.cause then
    match s.openEntries.find? (fun e => e.cause == f.cause && e.job == f.job && e.page == f.tval.toNat / 4096) with
    | some e =>
      some { s.countEntry e.seq with
        openEntries := s.openEntries.map (fun x => if x.seq = e.seq then { x with waiters := x.waiters ++ [f] } else x) }
    | none => none
  else none

/-- Dword 0 of an entry (R411). -/
def entryWord (cause source thread core : Nat) : Nat :=
  cause * 2 ^ 56 + source * 2 ^ 52 + thread * 2 ^ 49 + core * 2 ^ 37 + 2 ^ 16

/-- A fault that reached its delivery point merges, or its entry waits to be written (R412, R413). -/
def State.reportFault (s : State) (f : FaultRec) : State :=
  match s.mergeFault f with
  | some s' => s'
  | none =>
    s.queueEntry { d0 := entryWord f.cause f.source f.thread f.core, d1 := word f.task, d2 := f.tval, d3 := f.detail,
                   fault := some f }

/-- Trap entry (R403). A dword fetched and not issued is fetched again (04 R117). -/
def Thread.takeTrap (th : Thread) (vec : Word) (f : FaultRec) (epc : Word) : Thread :=
  { th with epc := epc, tcause := f.tcause, tval := f.tval, intrap := true, pc := word (vec.toNat / 8 * 8),
            held := none, parked := none, arrayHandler := false, fetched := none
            life := if th.life = .exiting then .running else th.life }

/-- The copy of an engine changed, by its id. -/
def Core.modCopy (k : Core) (id : Nat) (f : Copy → Copy) : Core :=
  { k with copies := k.copies.map (fun c => if c.id = id then f c else c) }

/-- The engine tries the withheld chunks of a copy again (08 R252, 13 R414). -/
def retryWithheld (s : State) (m id : Nat) : State :=
  s.modCore m (fun k => k.modCopy id (fun c => { c with stopped := false, drains := false, withheld := [] }))

/-- A copy's chunks are tried again once its thread has taken the trap, and runs (08 R252). -/
def State.retryTrapped (s : State) (f : FaultRec) : State :=
  match f.retry with
  | .copy m id => retryWithheld s m id
  | _ => s

/-- A fault of a service thread: trap entry at SVEC, or the freeze of its core when INTRAP is 1 (R407). -/
def State.serviceTrap (s : State) (k : Nat) (f : FaultRec) (epc : Word) : State :=
  let s := s.retryTrapped f
  let th := s.thr k
  if th.intrap then
    { s.freezeMaster (k / 8) with pkg := { s.pkg with telemetry := (masterCore (k / 8), epc, f.tcause) :: s.pkg.telemetry } }
  else s.setThr k (th.takeTrap th.svec f epc)

/-- The thread is parked on its fault, its pc at the address R399 gives as EPC (R402). -/
def State.park (s : State) (k : Nat) (f : FaultRec) (epc : Word) : State :=
  (s.modThr k (fun th => { th with parked := some f, pc := epc, held := none, fetched := none })).reportFault f

/-- TAKING A FAULT: its route, and what the route does (R402, R403, R407); an anchor that has executed `exit` takes no
trap entry (R399). -/
def State.deliver (s : State) (k : Nat) (f : FaultRec) (epc : Word) : State :=
  let s := s.modThr k (fun th => th.settle s.cyc)
  let th := s.thr k
  let vec := (s.taskOf th.task).trapvec
  if th.svc then s.serviceTrap k f epc
  else if taskRoute f.cause && vec != 0 && !th.intrap && th.life != .exiting then s.setThr k (th.takeTrap vec f epc)
  else s.park k f epc

/-- An instruction's own fault, with EPC the instruction at `epc` (R399). -/
def State.trapAt (s : State) (cause : Nat) (tval epc : Word) : State :=
  s.deliver s.curKey (mkFault s s.curKey cause 0 tval epc .instr) epc

/-- Trap(cause) of 00 R9 at the acting thread's instruction. -/
def State.trap (s : State) (cause : Nat) (tval : Word) : State := s.trapAt cause tval s.me.pc

def ILLOP : Nat := 0x01
def PRIV : Nat := 0x02

/-- An engine's or array's fault waits for its thread's next boundary (R399, R401). -/
def State.raise (s : State) (k : Nat) (f : FaultRec) : State :=
  s.modThr k (fun th => { th with waiting := th.waiting ++ [f] })

/-- The order in which faults of one cycle reach a thread (R401). -/
def sourceRank (source : Nat) : Nat := if source = 8 then 6 else source

/-- The first waiting fault in that order, and the others. -/
def firstWaiting : List FaultRec → Option (FaultRec × List FaultRec)
  | [] => none
  | f :: l =>
    match firstWaiting l with
    | none => some (f, [])
    | some (g, r) => if sourceRank g.source < sourceRank f.source then some (g, f :: r) else some (f, l)

/-- A waiting fault delivered at the thread's boundary, when it holds none (R401): a trap entry of the same cycle on the task route has been
dealt with by then, DEDUCED (log 39). -/
def State.deliverWaiting (s : State) (k : Nat) : Option State :=
  let th := s.thr k
  if th.parked.isSome ∨ th.remote.isSome then none
  else
    match firstWaiting th.waiting with
    | none => none
    | some (f, r) => some ((s.setThr k { th with waiting := r }).deliver k f th.pc)

/-- The return from a trap (R404), without the unfreezing of the arrays. A barrier's waiting loop goes on only where the thread
returns to it (07 R234). -/
def Thread.returnFromTrap (th : Thread) : Thread :=
  { th with intrap := false, arrayHandler := false, pc := th.epc, genTrap := none
            gen := match th.gen with | some (g, pc) => if pc = th.epc then some (g, pc) else none | none => none }

/-! ## Guards of the meanings -/

/-- A register of the acting thread that an uncorrectable error has struck (13 R429); x0 reads zero whatever its saved bytes
carry (04 R116). -/
def State.struckReg (s : State) (r : Reg) : Bool := r != 0 && s.me.badRegs.contains r.toNat

/-- Control word `n` of the acting thread, or of its task, that an uncorrectable error has struck (13 R429). -/
def State.struck (s : State) (n : Nat) : Bool :=
  s.me.badWords.contains n || (!s.me.svc && s.myTask.badWords.contains n)

/-- A struck control word traps POISON at the instruction that reads it (13 R429). -/
def State.readingWord (s : State) (n : Nat) (k : State) : State := if s.struck n then s.trap 0x09 (word (0x1000 + n)) else k

/-- A struck register traps POISON at the instruction that reads it (13 R429). -/
def State.reading (s : State) (rs : List Reg) (k : State) : State :=
  match rs.find? s.struckReg with
  | some r => s.trap 0x09 (word (0x100 + r.toNat))
  | none => k

/-- Families absent on helper threads and service cores (02 R45). -/
def State.homeOnly (s : State) (k : State) : State :=
  if s.me.svc || s.me.helper then s.trap ILLOP 0 else k

/-- Instructions absent on service cores (02 R45). -/
def State.taskOnly (s : State) (k : State) : State := if s.me.svc then s.trap ILLOP 0 else k

/-- The supervisor family (02 R44 step 2). -/
def State.supervisor (s : State) (k : State) : State := if s.me.svc then k else s.trap PRIV 0

/-- The thread is held in its instruction. -/
def State.hold (s : State) (i : Instr) : State := s.modMe (fun th => 
  { th with held := some i, heldFrom := if th.held = some i then th.heldFrom else s.cyc })

/-! ## Checked accesses of an instruction -/

/-- Who accesses for a thread (12 R377, R385). -/
def State.agentOf (s : State) (k : Nat) : Agent :=
  let th := s.thr k
  if th.svc then { master := k / 8, job := th.sctxJob, phys := th.phys, svc := true, cache := .hub }
  else
    let t := s.taskOf th.task
    { master := k / 8, job := handleJob th.task, lid := t.lid, role := t.role, homeCore := t.window, cache := .tlb (k / 8) }

def State.agent (s : State) : Agent := s.agentOf s.curKey

/-- The bytes of other packages in an access from byte `i` on, run by run: package, address, position, length (R213). -/
def farRuns : (i : Nat) → List Loc → List (Nat × Nat × Nat × Nat)
  | _, [] => []
  | i, .far p a :: t =>
    match farRuns (i + 1) t with
    | (q, b, j, n) :: r => if q = p ∧ b = a + 1 then (p, a, i, n + 1) :: r else (p, a, i, 1) :: (q, b, j, n) :: r
    | [] => [(p, a, i, 1)]
  | i, _ :: t => farRuns (i + 1) t

/-- The request for the run of an access's bytes at position `i`. -/
def requestFor (r : PhysReq) (pa i n : Nat) : PhysReq :=
  match r with
  | .read _ _ => .read pa n
  | .write _ d => .write pa ((d.drop i).take n)
  | .rmw op _ _ o c => .rmw op pa n o c

/-- Whether a Pertor route reaches a package (R213, 13 R432). -/
def State.routed (s : State) (pkg : Nat) : Bool := Config.joined s.pkg.pertorOff pkg

/-- Requests for the runs of an access, sent over Pertor. -/
def State.requests (s : State) (locs : List Loc) (req : PhysReq) : State :=
  { s with out := s.out ++ (farRuns 0 locs).map (fun r => .pertor r.1 r.2.1 (requestFor req r.2.1 r.2.2.1 r.2.2.2)) }

/-- Bytes without poison. -/
def clean (bs : List Byte) : List PByte := bs.map (·, false)

/-- A request of thread `t` of master `m` goes out over Pertor, as the next access in flight (R213). -/
def State.sendFar (s : State) (m t : Nat) (ag : Agent) (need : Need) (acc : Access) (ea : Word) (req : PhysReq) (act : RemoteAct) : State :=
  let s := (commitSent s ag need acc).requests acc.locs req
  { s with nextId := s.nextId + 1
           remotes := Tab.put s.remotes s.nextId { m, t, locs := acc.locs, req, act, ea, issued := s.cyc, marks := acc.marks need } }

/-- The instruction's request goes to the other package, and the thread waits; with no route it traps
REMOTE_TIMEOUT at once (R213). -/
def State.sendRemote (s : State) (ag : Agent) (need : Need) (acc : Access) (ea : Word) (req : PhysReq)
    (act : RemoteAct) : State :=
  let runs := farRuns 0 acc.locs
  if runs.any (fun r => !(s.routed r.1)) then s.trap 0x14 ea
  else
    (s.modMe (fun th => { th with remote := some s.nextId })).sendFar s.cur.m s.cur.t ag need acc ea req act

/-- A write from outside supervisor state to a register with RWS fields is refused PRIV (00 R6). -/
def rwsBreach (svc : Bool) (need : Need) (acc : Access) : Bool :=
  need.wr && !svc &&
    acc.locs.any (fun l => match l with | .mem pa => isHub pa && hubRws (pa - hubBase) | _ => false)

/-- A thread is not stopped by a freeze, a save or the launch unit. -/
def State.threadActs (s : State) (k : Nat) : Bool :=
  let th := s.thr k
  !(s.frozen.contains (k / 8)) && (th.svc || s.taskRuns th.task)

/-- The checks of R206 in order, then the access `k` on the locations of its bytes. `poison`: poisoned data traps. -/
def State.access (s : State) (ea : Word) (n : Nat) (need : Need) (align poison : Bool) (req : PhysReq)
    (act : RemoteAct) (k : State → List Loc → State) : State :=
  let ag := s.agent
  match checkAccess s ag ea n need align with
  | .error (.trap c v) => s.trap c v
  | .error (.denied t u) => s.deny ag.master t u need.rd need.wr
  | .ok acc =>
    if poison && acc.poisoned s need.wr then s.trap 0x09 ea
    else if rwsBreach s.me.svc need acc then s.trap PRIV 0
    else if acc.far.isSome then s.sendRemote ag need acc ea req act
    else k (commitAccess s ag need acc) acc.locs

/-- The value a read of this cycle finds at `locs` (10 R340). -/
def State.valueSeen (s : State) (locs : List Loc) : Nat := ofBytes (locs.map (fun l => (s.seen l).1))

/-- The value of the bytes at `locs`. -/
def State.valueAt (s : State) (locs : List Loc) : Nat := ofBytes (s.readLocs locs)

/-- `v` written to the bytes at `locs`. -/
def State.store (s : State) (locs : List Loc) (v : Nat) : State :=
  s.writeLocs (locs.zip (toBytes locs.length v))

end Sys2Proof.Machine
end

