-- ==== Sys2Proof/Machine/Operands.lean ====
section
/-! DEFINITION. The operand forms of the A-ISA: which registers an instruction reads, and where its result goes
(04 R116, R117, R124, R127; 07 R205). -/

namespace Sys2Proof.Machine

abbrev Out := Host.Outcome State Fault Refusal

/-- One source: x[d] := f(x[a]). -/
def unary (f : Word → Word) (d a : Reg) (s : State) : State := s.reading [a] (s.result d (f (s.rx a)))
/-- Two sources: x[d] := f(x[a], x[b]). -/
def binary (f : Word → Word → Word) (d a b : Reg) (s : State) : State :=
  s.reading [a, b] (s.result d (f (s.rx a) (s.rx b)))
/-- Three sources. -/
def ternary (f : Word → Word → Word → Word) (d a b c : Reg) (s : State) : State :=
  s.reading [a, b, c] (s.result d (f (s.rx a) (s.rx b) (s.rx c)))
/-- Three sources and the old destination (`bfi`). -/
def quaternary (f : Word → Word → Word → Word → Word) (d a b c : Reg) (s : State) : State :=
  s.reading [d, a, b, c] (s.result d (f (s.rx d) (s.rx a) (s.rx b) (s.rx c)))
/-- A register and an immediate. -/
def withImm (f : Word → Word32 → Word) (d a : Reg) (imm : Word32) (s : State) : State :=
  s.reading [a] (s.result d (f (s.rx a) imm))
/-- A register, an immediate and the old destination (`bfii`). -/
def withImmOld (f : Word → Word → Word32 → Word) (d a : Reg) (imm : Word32) (s : State) : State :=
  s.reading [d, a] (s.result d (f (s.rx d) (s.rx a) imm))

/-- A division occupies its thread for 40 cycles (R135). -/
def State.occupy (s : State) : State := s.modMe (fun th => { th with busyTo := s.cyc + 40 })
def dividing (f : Word → Word → Word) (d a b : Reg) (s : State) : State :=
  s.reading [a, b] ((s.result d (f (s.rx a) (s.rx b))).occupy)

/-- The field instructions' width, clipped to the register (R126). -/
def fieldLen (pos len : Nat) : Nat := if 64 < pos + len then 64 - pos else len

def extractField (v : Word) (pos len : Nat) : Nat := v.toNat / 2 ^ pos % 2 ^ fieldLen pos len
def signedField (v : Word) (pos len : Nat) : Word :=
  wrap64 (signedOf (fieldLen pos len) (extractField v pos len))
def unsignedField (v : Word) (pos len : Nat) : Word := word (extractField v pos len)
def insertField (old v : Word) (pos len : Nat) : Word :=
  let mask := word ((2 ^ fieldLen pos len - 1) * 2 ^ pos)
  (old &&& ~~~mask) ||| ((v <<< pos) &&& mask)

/-- Bytes of a SIZE. -/
def sizeBytes : Size → Nat
  | .b => 1 | .h => 2 | .w => 4 | .d => 8

/-- ea of the M format, offset layout (07 R205). -/
def State.eaOff (s : State) (a : Reg) (off : Word32) : Word := s.rx a + sext64 off
/-- ea of an atomic. -/
def State.eaAtomic (s : State) (a : Reg) (off : BitVec 20) : Word := s.rx a + sext64 off

end Sys2Proof.Machine
end

