-- ==== Sys2Proof/Machine/LoadStore.lean ====
section
/-! DEFINITION. Loads, stores, cache line instructions, fences and atomics (07 R205 to R220), and their completion
over Pertor (07 R213). -/

namespace Sys2Proof.Machine

/-- The register value of a loaded pattern of `n` bytes (R210). -/
def loadValue (sign : Bool) (n v : Nat) : Word := if sign then wrap64 (signedOf (8 * n) v) else word v

/-- An acquire read of a slot's descriptor in a scratchpad: the thread holds the slot (06 R177). -/
def State.observe (s : State) (locs : List Loc) (v : Nat) : State :=
  match locs with
  | .scr c off :: _ =>
    s.modCore c (fun k => { k with rings := k.rings.map (fun e => (e.1, e.2.observe s.me.task s.me.slot off v)) })
  | _ => s

/-- What an access writes into slots that record `slot` of task `task` does not hold leaves them undefined (06 R177, 01 R27). -/
def State.unheld (s : State) (task slot : Nat) (locs : List Loc) : State :=
  match locs with
  | .scr c off :: _ => s.modCore c (fun k => k.unheld task slot off locs.length)
  | _ => s

/-- A thread's write to bytes whose slots it must hold. -/
def State.storeHeld (s : State) (locs : List Loc) (v : Nat) : State := (s.store locs v).unheld s.me.task s.me.slot locs

def execLd (d a : Reg) (m : MemMod) (off : Word32) (s : State) : Out :=
  .next (s.reading [a]
    (let ea := s.eaOff a off
     let n := sizeBytes m.size
     s.access ea n needRead (m.order != .plain) true (.read 0 n) (.load d m.sign)
       (fun s locs =>
         let v := s.valueSeen locs
         (if m.order = .acq ∨ m.order = .sc then s.observe locs v else s).result d (loadValue m.sign n v))))

/-- A dword store with order rel or sc is a handshake write to the rings of the scratchpad it reaches (06 R175,
R176). -/
def ringStore (s : State) (order : Order) (locs : List Loc) (v : Nat) : State :=
  match locs with
  | .scr c off :: _ =>
    if locs.length = 8 ∧ (order = .rel ∨ order = .sc) then
      s.modCore c (fun k =>
        let k' := k.handshake s.cyc off v (!s.me.svc && s.myTask.core == c)
        { k' with rings := (k.rings.zip k'.rings).map (fun p => (p.2.1, Ring.letGo p.1.2 p.2.2 s.me.task s.me.slot off)) })
    else s
  | _ => s

/-- On a service core the scopes core, cluster, group and die act as package (R209). -/
def scopeOnService : Scope → Scope
  | .core | .cluster | .group | .die | .package => .package
  | .domain => .domain
  | .system => .system

/-- A service core's `st.d.sc.package` over a sector held by the scrub: the fourth dword frees the sector of its
poison (13 R430). -/
def scrubStore (s : State) (m : MemMod) (locs : List Loc) : State :=
  match locs, s.scrubHeld with
  | .mem pa :: _, some k =>
    if s.me.svc && m.size == .d && m.order == .sc && scopeOnService m.scope == .package && pa / 32 == k then
      let done := addSector s.scrubDone (pa % 32 / 8)
      { s with scrubDone := done, poison := if done.length = 4 then s.poison.filter (· != k) else s.poison }
    else s
  | _, _ => s

def execSt (d a : Reg) (m : MemMod) (off : Word32) (s : State) : Out :=
  .next (s.reading [a, d]
    (let ea := s.eaOff a off
     let n := sizeBytes m.size
     let v := (s.rx d).toNat % 2 ^ (8 * n)
     s.access ea n needWrite (m.order != .plain) false (.write 0 (clean (toBytes n v))) .store
       (fun s locs => (scrubStore (ringStore (s.storeHeld locs v) m.order locs v) m locs).next)))

/-- R214: nothing changes but the pc. -/
def execPf (_a : Reg) (_sc : Scope) (_hint : Hint) (_off : Word32) (s : State) : Out := .next s.next

/-- R215: the checks of a load of one byte, in another package with its request and its wait (R213); every copy of the line is
coherent, so no value changes, and poison stays with the data (R212). An address in the aperture meets the first three only. -/
def lineOp (a : Reg) (off : Word32) (s : State) : State :=
  s.reading [a]
    (let ea := s.eaOff a off
     if inAperture ea.toNat then
       match checkVirtual s s.agent ea 1 needRead false with
       | .error (c, v) => s.trap c v
       | .ok _ => s.next
     else s.access ea 1 needRead false false (.read 0 1) .line (fun s _ => s.next))

def execCwb (a : Reg) (_sc : Scope) (off : Word32) (s : State) : Out := .next (lineOp a off s)
def execCinv (a : Reg) (_sc : Scope) (off : Word32) (s : State) : Out := .next (lineOp a off s)

/-- R217: every access of the model is performed whole and in order, so a fence only advances the pc. -/
def execFence (_ord : Order) (_sc : Scope) (s : State) : Out := .next s.next

/-- The new memory value of an atomic (R219); none: no write. `A`, `O`, `C` are `n`-byte patterns. -/
def atomicNew (op : AtomOp) (n A O C : Nat) : Option Nat :=
  match op with
  | .add => some ((A + O) % 2 ^ (8 * n))
  | .and => some (A &&& O)
  | .or => some (A ||| O)
  | .xor => some (A ^^^ O)
  | .min => some (if signedOf (8 * n) A ≤ signedOf (8 * n) O then A else O)
  | .max => some (if signedOf (8 * n) A ≤ signedOf (8 * n) O then O else A)
  | .minu => some (if A ≤ O then A else O)
  | .maxu => some (if A ≤ O then O else A)
  | .swap => some O
  | .cas => if A = C then some O else none
  | .fadd => some (afadd (if n = 4 then fmtF32 else fmtF64) A O)

/-- R218, R219: one read and one write of the word, the old value to x[d]. -/
def atomic (op : AtomOp) (d a b c : Reg) (m : AtomMod) (off : BitVec 20) (s : State) : State :=
  s.reading [a, b, c]
    (let ea := s.eaAtomic a off
     let n := if m.dword then 8 else 4
     let o := (s.rx b).toNat % 2 ^ (8 * n)
     let e := (s.rx c).toNat % 2 ^ (8 * n)
     s.access ea n needBoth true true (.rmw op 0 n o e) (.rmw d)
       (fun s locs =>
         let old := s.valueAt locs
         let s' := match atomicNew op n old o e with
           | some v => s.storeHeld locs v
           | none => s
         s'.result d (word old)))

def execAadd (d a b : Reg) (m : AtomMod) (off : BitVec 20) (s : State) : Out := .next (atomic .add d a b 0 m off s)
def execAand (d a b : Reg) (m : AtomMod) (off : BitVec 20) (s : State) : Out := .next (atomic .and d a b 0 m off s)
def execAor (d a b : Reg) (m : AtomMod) (off : BitVec 20) (s : State) : Out := .next (atomic .or d a b 0 m off s)
def execAxor (d a b : Reg) (m : AtomMod) (off : BitVec 20) (s : State) : Out := .next (atomic .xor d a b 0 m off s)
def execAmin (d a b : Reg) (m : AtomMod) (off : BitVec 20) (s : State) : Out := .next (atomic .min d a b 0 m off s)
def execAmax (d a b : Reg) (m : AtomMod) (off : BitVec 20) (s : State) : Out := .next (atomic .max d a b 0 m off s)
def execAminu (d a b : Reg) (m : AtomMod) (off : BitVec 20) (s : State) : Out := .next (atomic .minu d a b 0 m off s)
def execAmaxu (d a b : Reg) (m : AtomMod) (off : BitVec 20) (s : State) : Out := .next (atomic .maxu d a b 0 m off s)
def execAswap (d a b : Reg) (m : AtomMod) (off : BitVec 20) (s : State) : Out := .next (atomic .swap d a b 0 m off s)
def execAcas (d a b c : Reg) (m : AtomMod) (off : BitVec 20) (s : State) : Out := .next (atomic .cas d a b c m off s)
def execAfadd (d a b : Reg) (m : AtomMod) (off : BitVec 20) (s : State) : Out := .next (atomic .fadd d a b 0 m off s)

end Sys2Proof.Machine
end

