-- ==== Sys2Proof/Machine/Sync.lean ====
section
/-! DEFINITION. Waiting on memory, barriers and events (07 R232 to R237). -/

namespace Sys2Proof.Machine

/-! ## `waita` and `bar` -/

/-- The condition of `waita` on n-byte patterns (R232). -/
def waitCond (cond : BitVec 2) (n M B : Nat) : Bool :=
  match cond.toNat with
  | 0 => M == B
  | 1 => M != B
  | 2 => signedOf (8 * n) B ≤ signedOf (8 * n) M
  | _ => B ≤ M

/-- What a read of `waita` does: it completes, or the thread waits on. -/
def waitaRead (d b : Reg) (dword : Bool) (cond : BitVec 2) (i : Instr) (locs : List Loc) (v : Nat) (s : State) : State :=
  let n := if dword then 8 else 4
  if waitCond cond n v ((s.rx b).toNat % 2 ^ (8 * n)) then (s.observe locs v).result d (word v) else s.hold i

def waita (d a b : Reg) (dword : Bool) (cond : BitVec 2) (s : State) : State :=
  let n := if dword then 8 else 4
  (s.hold (.waita d a b dword cond)).access (s.rx a) n needRead true true (.read 0 n) .wait
    (fun s locs => waitaRead d b dword cond (.waita d a b dword cond) locs (s.valueSeen locs) s)

def execWaita (d a b : Reg) (dword : Bool) (cond : BitVec 2) (s : State) : Out :=
  .next (s.reading [a, b] (waita d a b dword cond s))

/-- The participant count (R234): an n of 0 is taken as 1. -/
def barCount (v : Word) : Nat := if v.toNat % 2 ^ 32 = 0 then 1 else v.toNat % 2 ^ 32

/-- The generation a thread's waiting loop holds: a handler's loop has its own, so that a loop left by a fault goes on where the
handler returns to it. -/
def Thread.theGen (th : Thread) : Option (Nat × Word) := if th.intrap then th.genTrap else th.gen
def Thread.setGen (th : Thread) (g : Option (Nat × Word)) : Thread :=
  if th.intrap then { th with genTrap := g } else { th with gen := g }

/-- The arrival has read `old`: the last participant opens the next generation, another waits. `open_` writes the
dword. -/
def barArrived (i : Instr) (n old : Nat) (open_ : Nat → State → State) (s : State) : State :=
  let g := old / 2 ^ 32
  if n ≤ old % 2 ^ 32 + 1 then open_ ((g + 1) % 2 ^ 32 * 2 ^ 32) s
  else (s.hold i).modMe (fun th => th.setGen (some (g, th.pc)))

/-- An arrival of a thread that has been stopped meanwhile stands: its loop goes on with its generation, or opens the next one. -/
def barStopped (n old : Nat) (s : State) : State :=
  let g := old / 2 ^ 32
  s.modMe (fun th => th.setGen (some (if n ≤ old % 2 ^ 32 + 1 then g + 2 ^ 32 else g, th.pc)))

/-- The waiting loop has read `v`. -/
def barReread (i : Instr) (g v : Nat) (s : State) : State :=
  if v / 2 ^ 32 ≠ g then (s.modMe (fun th => th.setGen none)).next else s.hold i

def bar (a b : Reg) (sc : Scope) (s : State) : State :=
  let i : Instr := .bar a b sc
  let s := s.hold i
  let arrive :=
    s.access (s.rx a) 8 needBoth true true (.rmw .add 0 8 1 0) (.barrier a b sc)
      (fun s locs =>
        let old := s.valueAt locs
        barArrived i (barCount (s.rx b)) old (fun v s => (s.storeHeld locs v).next)
          (s.storeHeld locs ((old + 1) % 2 ^ 64)))
  match s.me.theGen with
  | none => arrive
  | some (g, pc) =>
    if pc ≠ s.me.pc then arrive
    else if g < 2 ^ 32 then
      s.access (s.rx a) 8 needBoth true true (.read 0 8) .wait (fun s locs => barReread i g (s.valueSeen locs) s)
    else
      let v := (g + 1) % 2 ^ 32 * 2 ^ 32
      s.access (s.rx a) 8 needWrite true false (.write 0 (clean (toBytes 8 v))) .opens
        (fun s locs => ((s.storeHeld locs v).modMe (fun th => th.setGen none)).next)

def execBar (a b : Reg) (sc : Scope) (s : State) : Out := .next (s.reading [a, b] (bar a b sc s))

/-- R233, R234: the waiting instruction of the acting thread reads its word again. -/
def execWaitaReread (s : State) : Out :=
  .next (match s.me.held with
    | some (.waita d a b dword cond) => s.reading [a, b] (waita d a b dword cond s)
    | some (.bar a b sc) => s.reading [a, b] (bar a b sc s)
    | _ => s)

/-! ## Events (R235 to R237; 06 R198) -/

def State.isLive (s : State) (k : Nat) : Bool :=
  match (s.thr k).life with
  | .running => true
  | .exiting => true
  | _ => false

/-- The live thread that holds record `slot` of a task, wherever it runs. -/
def State.keyOf (s : State) (task slot : Nat) : Option Nat :=
  (s.threads.find? (fun e => e.2.task == task && e.2.slot == slot && e.1 / 8 < 0x1000 && s.isLive e.1)).map (·.1)

/-- Events that are on their way to a thread. -/
def State.eventsTo (s : State) (k : Nat) : Nat :=
  (s.evFlight.filter (fun e => e.task == (s.thr k).task && e.slot == (s.thr k).slot)).length

/-- The thread an `evpost` names: hardware thread t of the core ROLE is bound to, when it is a live thread of the
poster's launch in its block (R237). -/
def eventTarget (s : State) (lid role : Nat) (w : Word) : Option Nat :=
  let r := bits w 11 0
  if r < (s.launchOf lid).img.groupsz ∧ r / 64 = role / 64 then
    match s.bound lid r with
    | some c =>
      let k := thrKey c (bits w 14 12)
      if s.isLive k ∧ handleLid (s.thr k).task = lid then some k else none
    | none => none
  else none

/-- Removes the oldest event, or waits (R236). -/
def evwait (d : Reg) (s : State) : State :=
  match s.me.events with
  | [] => s.hold (.evwait d)
  | e :: l => (((s.modMe (fun th => { th with events := l })).wx d e.d0).wx (regPlus d 1) e.d1).next

def execEvwait (d : Reg) (s : State) : Out := .next (s.taskOnly (evwait d s))

def evpost (a b c : Reg) (s : State) : State :=
  let t := s.myTask
  match eventTarget s t.lid t.role (s.rx a) with
  | none => s.next
  | some k =>
    if 16 ≤ (s.thr k).events.length + s.eventsTo k then s.hold (.evpost a b c)
    else
      State.next { s with nextId := s.nextId + 1, evFlight := s.evFlight ++
          [{ id := s.nextId, pkey := s.curKey, ev := ⟨word ((s.rx b).toNat % 2 ^ 60), s.rx c⟩, task := (s.thr k).task, slot := (s.thr k).slot,
             ptask := s.me.task, pslot := s.me.slot }] }

def execEvpost (a b c : Reg) (s : State) : Out := .next (s.taskOnly (s.reading [a, b, c] (evpost a b c s)))

/-- EVLOST of the array of a task is set when it posted the event that is lost (06 R198). -/
def State.loseEvent (s : State) (e : EvFlight) : State :=
  if e.pslot = 100 then
    s.modCore (s.taskOf e.ptask).core (fun c => { c with matrix := { c.matrix with evlost := true } })
  else s

/-- Event `id` is no longer on its way. -/
def State.landEvent (s : State) (id : Nat) : State := { s with evFlight := s.evFlight.filter (fun e => e.id != id) }

/-- Earlier events of the same poster and target that are still on their way. -/
def State.ahead (s : State) (e : EvFlight) : List EvFlight :=
  (s.evFlight.takeWhile (fun x => x.id != e.id)).filter (fun x =>
    x.ptask == e.ptask && x.pslot == e.pslot && x.task == e.task && x.slot == e.slot)

/-- An event waits for room; of an array's events at most 64 wait, and the 65th is lost (06 R198). -/
def State.holdEvent (s : State) (e : EvFlight) : State :=
  if e.waiting then s
  else if e.pslot = 100 ∧ 64 ≤ (s.evFlight.filter (fun x => x.ptask == e.ptask && x.pslot == 100 && x.waiting)).length then
    (s.landEvent e.id).loseEvent e
  else { s with evFlight := s.evFlight.map (fun x => if x.id = e.id then { x with waiting := true } else x) }

/-- Event `src` of those on their way reaches its target's queue, unless an earlier one of the same poster and target
is still on its way, the queue is full, or the target's task is saved (R237, 06 R198). -/
def execEventArrival (src : Nat) (s : State) : Out :=
  .next (match s.evFlight.find? (fun e => e.id == src) with
    | none => s
    | some e =>
      if s.ahead e != [] then (if (s.ahead e).any (·.waiting) then s.holdEvent e else s)
      else
        match s.keyOf e.task e.slot with
        | none =>
          if (s.taskOf e.task).life = .saved ∨ (s.taskOf e.task).life = .queued then s
          else (s.landEvent src).loseEvent e
        | some k =>
          if 16 ≤ (s.thr k).events.length then s.holdEvent e
          else (s.landEvent src).modThr k (fun th => { th with events := th.events ++ [e.ev] }))

end Sys2Proof.Machine
end

