-- ==== Sys2Proof/Machine/Copies.lean ====
section
/-! DEFINITION. The copy engine (08 R239 to R253): issue checks, chunks, flags, CRC, faults. -/

namespace Sys2Proof.Machine

def Thread.token (th : Thread) (k : Nat) : Token := Tab.get {} th.tokens k
def Thread.setToken (th : Thread) (k : Nat) (x : Token) : Thread := { th with tokens := Tab.put th.tokens k x }

/-! ## Geometry -/

def Copy.isSlot (c : Copy) : Bool := 2 ≤ c.func
/-- Rows and bytes per row of `copy` and `copy2` (R244). -/
def Copy.rows (c : Copy) : Nat := if c.func = 0 then 1 else c.c0.toNat % 2 ^ 32
def Copy.rowBytes (c : Copy) : Nat := if c.func = 0 then c.c0.toNat else c.c1.toNat % 2 ^ 32
def Copy.dstride (c : Copy) : Word := if c.func = 0 then 0 else c.c2
def Copy.sstride (c : Copy) : Word := if c.func = 0 then 0 else c.c3

/-- The tensor of `copyr` and `copyrg` (R247). -/
def Copy.tensorRows (c : Copy) : Int := (c.c1.toNat % 2 ^ 32 : Nat)
def Copy.wb (c : Copy) : Int := (c.c1.toNat / 2 ^ 32 : Nat)
def Copy.row0 (c : Copy) : Int := signedOf 32 c.c2.toNat
def Copy.b0 (c : Copy) : Int := signedOf 32 (c.c2.toNat / 2 ^ 32)

/-- The payload of the ring a slot copy fills. -/
def payloadOf (s : State) (c : Copy) : Nat := slotBytes ((s.core (s.taskOf c.task).core).ring c.ring).slot

/-- Bytes counted on the token (R244, R247). -/
def Copy.size (s : State) (c : Copy) : Nat :=
  if c.isSlot then payloadOf s c + 256 else c.rows * c.rowBytes

/-- Source and destination address of byte `off` of a `copy` or `copy2`. -/
def Copy.srcAddr (c : Copy) (off : Nat) : Word :=
  c.b + word (off / c.rowBytes) * c.sstride + word (off % c.rowBytes)
def Copy.dstAddr (c : Copy) (off : Nat) : Word :=
  c.a + word (off / c.rowBytes) * c.dstride + word (off % c.rowBytes)

/-- In-range columns [lo, hi) of a slot row of `rb` bytes (R247), as offsets into the row. -/
def Copy.cols (c : Copy) (rb : Nat) : Nat × Nat :=
  ((max 0 (-c.b0)).toNat, (max 0 (min (rb : Int) (c.wb - c.b0))).toNat)

def Copy.rowIn (c : Copy) (row : Int) : Bool := 0 ≤ row && row < c.tensorRows

/-- The address of tensor byte (row, col). -/
def Copy.tensorAddr (c : Copy) (base : Word) (row col : Int) : Word := base + wrap64 row * c.c0 + wrap64 col

/-- The spans R246 judges, in order: start and length. -/
def Copy.spans (s : State) (c : Copy) : List (Word × Nat) :=
  let scales := if c.c3 = 0 then [] else [(c.c3, 64)]
  if c.func ≤ 1 then
    if c.rowBytes = 0 then []
    else (List.range c.rows).flatMap (fun i =>
      [(c.dstAddr (i * c.rowBytes), c.rowBytes), (c.srcAddr (i * c.rowBytes), c.rowBytes)])
  else if c.func = 2 then
    let rb := payloadOf s c / 64
    let k := c.cols rb
    (List.range 64).flatMap (fun (i : Nat) =>
      let row : Int := c.row0 + (i : Int)
      if c.rowIn row && k.1 < k.2 then [(c.tensorAddr c.b row (c.b0 + k.1), k.2 - k.1)] else []) ++ scales
  else (c.b, 264) :: scales

/-- A span that is not canonical throughout, or that wraps (R246 step 3). -/
def spanBad (st : Word) (n : Nat) : Bool :=
  !(st.toNat + n ≤ 2 ^ 56 || (0xFF * 2 ^ 56 ≤ st.toNat && st.toNat + n ≤ 2 ^ 64))

/-- A span that touches the aperture where R30 refuses it (R246 step 4); refusals change at multiples of 64 KiB. -/
def spanRefused (s : State) (ag : Agent) (st : Word) (n : Nat) : Bool :=
  let lo := max st.toNat 0x00FFFFFFF0000000
  let hi := min (st.toNat + n) (2 ^ 56)
  if hi ≤ lo then false
  else ag.svc ||
    (lo :: (List.range (hi / 65536 - lo / 65536 + 1)).map (fun i => (lo / 65536 + i) * 65536)).any
      (fun a => lo ≤ a && a < hi && (windowLoc s ag a).isNone)

/-- The flag word must be a word of a window that R30 admits (R246 step 1). -/
def flagLoc (s : State) (ag : Agent) (a : Word) : Option Loc :=
  if ag.svc || a.toNat % 4 != 0 || !(inAperture a.toNat) then none else windowLoc s ag a.toNat

/-- The first failing check of R246. -/
def copyCheck (s : State) (ag : Agent) (c : Copy) : Option (Nat × Word) :=
  if c.flag && (flagLoc s ag c.d).isNone then some (0x15, c.d)
  else if c.func ≤ 1 ∧ 2 ^ 40 ≤ c.rows * c.rowBytes then some (0x15, word (c.rows * c.rowBytes))
  else
    match (c.spans s).find? (fun p => spanBad p.1 p.2) with
    | some p => some (0x15, p.1)
    | none =>
      match (c.spans s).find? (fun p => spanRefused s ag p.1 p.2) with
      | some p => some (0x06, p.1)
      | none =>
        if c.func = 2 ∧ c.a = 0 then some (0x15, 0)
        else if c.func = 3 ∧ c.b.toNat % 8 ≠ 0 then some (0x15, c.b)
        else none

/-! ## Issue -/

/-- Unfinished copies of a task, over all its threads (R243). -/
def State.unfinished (s : State) (task : Nat) : Nat :=
  (s.cores.map (fun e => (e.2.copies.filter (fun c => c.task == task && c.thr / 8 < 0x1000)).length)).sum

/-- A push must wait: the FIFO of 32, the 64-copy limit, or PEND (R239, R242, R243). -/
def copyWaits (s : State) (c : Copy) : Bool :=
  32 ≤ (s.myCore.copies.filter (fun x => !x.taken)).length ||
  (!s.me.svc && 64 ≤ s.unfinished c.task) ||
  2 ^ 48 ≤ (s.me.token c.token).pend + c.size s

/-- The push takes effect. -/
def pushCopy (s : State) (c : Copy) : State :=
  let tk := s.me.token c.token
  let n := c.size s
  let c := { c with id := s.nextId, seq := tk.issued, left := if n = 0 then [] else [(0, n)] }
  let s := s.modMe (fun th => th.setToken c.token { tk with pend := tk.pend + n, issued := tk.issued + 1 })
  State.next { s.modMyCore (fun k => { k with copies := k.copies ++ [c] }) with nextId := s.nextId + 1 }

/-- The command as the registers give it; past x63 the numbers begin again at x0 (DESIGN CHOICE, log 38: `copy` alone admits such a c, and
uses x[c] only). -/
def copyOf (s : State) (func : Nat) (d a b c : Reg) (ring : BitVec 3) (e : CopyMod) : Copy :=
  { id := 0, thr := s.curKey, task := s.me.task, func, a := s.rx a, b := s.rx b, d := s.rx d, c0 := s.rx c,
    c1 := s.rx (regPlus c 1), c2 := s.rx (regPlus c 2), c3 := s.rx (regPlus c 3), scope := e.scope, flag := e.flag, crc := e.crc,
    ring := ring.toNat, token := e.token.toNat, seq := 0, left := [], slot := s.me.slot }

def copyRegs (func : Nat) (d a b c : Reg) : List Reg :=
  if func = 0 then [d, a, b, c] else [d, a, b, c, regPlus c 1, regPlus c 2, regPlus c 3]

/-- Issue of a copy: R246, then the push (R244, R247). -/
def issueCopy (i : Instr) (func : Nat) (d a b c : Reg) (ring : BitVec 3) (e : CopyMod) (s : State) : State :=
  s.reading (copyRegs func d a b c)
    (let cp := copyOf s func d a b c ring e
     match copyCheck s s.agent cp with
     | some (cause, v) => s.trap cause v
     | none => if copyWaits s cp then s.hold i else pushCopy s cp)

def execCopy (d a b c : Reg) (e : CopyMod) (s : State) : Out :=
  .next (issueCopy (.copy d a b c e) 0 d a b c 0 e s)
def execCopy2 (d a b c : Reg) (e : CopyMod) (s : State) : Out :=
  .next (issueCopy (.copy2 d a b c e) 1 d a b c 0 e s)

/-- RING names a declared ring of the task (R247). -/
def State.withRing (s : State) (ring : BitVec 3) (k : State) : State :=
  if ((s.core s.myTask.core).ring ring.toNat).decl then k else s.trap ILLOP 0

def execCopyr (d a b c : Reg) (ring : BitVec 3) (e : CopyMod) (s : State) : Out :=
  .next (s.taskOnly (s.withRing ring (issueCopy (.copyr d a b c ring e) 2 d a b c ring e s)))
def execCopyrg (d a b c : Reg) (ring : BitVec 3) (e : CopyMod) (s : State) : Out :=
  .next (s.taskOnly (s.withRing ring (issueCopy (.copyrg d a b c ring e) 3 d a b c ring e s)))

/-- A held copy's push takes effect when there is room (R239, R242, R243). -/
def retryCopy (s : State) (func : Nat) (d a b c : Reg) (ring : BitVec 3) (e : CopyMod) : State :=
  let cp := copyOf s func d a b c ring e
  if copyWaits s cp then s else pushCopy s cp

/-! ## Tokens -/

def twait (k : BitVec 3) (s : State) : State :=
  if (s.me.token k.toNat).pend = 0 then s.next else s.hold (.twait k)
def execTwait (k : BitVec 3) (s : State) : Out := .next (twait k s)
def execTquery (d : Reg) (k : BitVec 3) (s : State) : Out :=
  .next (s.result d (word ((s.me.token k.toNat).pend % 2 ^ 48)))

/-- CRC-32C in reflected form, a byte at a time, without the final XOR (R250). -/
def crcBits (v : Word32) : Nat → Word32
  | 0 => v
  | n + 1 => crcBits (if bit v 0 then (v >>> 1) ^^^ 0x82F63B78#32 else v >>> 1) n
def crcByte (v : Word32) (b : Byte) : Word32 := crcBits (v ^^^ b.setWidth 32) 8
def crcBytes (v : Word32) (bs : List Byte) : Word32 := bs.foldl crcByte v

/-- The CRC of the CRC copies of a token, in issue order (R250). -/
def Token.crcValue (t : Token) : Word32 := ~~~(t.parts.foldl (fun v e => crcBytes v e.2) t.crc)

def execTqueryCrc (d : Reg) (k : BitVec 3) (s : State) : Out :=
  .next (let t := s.me.token k.toNat
    if t.pend ≠ 0 then s.result d (word (2 ^ 63))
    else
      (s.modMe (fun th => th.setToken k.toNat { t with crc := 0xFFFFFFFF#32, parts := [] })).result d
        (zext64 t.crcValue))

/-! ## Chunks (R245, R248) -/

/-- Who the engine accesses for (12 R377). -/
def copyAgent (s : State) (c : Copy) : Agent :=
  if 0x1000 ≤ c.thr / 8 then s.agentOf c.thr
  else
    let t := s.taskOf c.task
    { master := c.thr / 8, job := handleJob c.task, lid := t.lid, role := t.role, homeCore := t.window
      cache := .engine (c.thr / 8) 0 }

/-- The ring a slot copy fills is on the task's core; a copy that outlives its task has none (01 R20, R31). -/
def copyRing (s : State) (c : Copy) : Ring :=
  if (s.taskOf c.task).window < 0x1000 then (s.core (s.taskOf c.task).window).ring c.ring else {}

/-- The open slot of a core's `cpe` node, when it was opened before the push `id` into the ring (09 R297). -/
def cpeBefore (k : Core) (ring id : Nat) : Nat :=
  if k.graphs.any (fun g => g.2.units.any (fun u =>
      u.1 == 0x60 && !u.2.released && u.2.slotId != 0 && u.2.slotId < id && bits u.2.node.c 2 0 == ring)) then 1 else 0

/-- Slot copies of an engine into a ring, before `id`, that are not yet published. -/
def copiesBefore (k : Core) (task ring id : Nat) : Nat :=
  (k.copies.filter (fun x => x.isSlot && x.task == task && x.ring == ring && x.id < id && x.left != [])).length

/-- How many earlier slots of this engine in the ring are not yet published (R248). -/
def slotOrder (k : Core) (c : Copy) : Nat :=
  copiesBefore k c.task c.ring c.id + (if k.home = c.task then cpeBefore k c.ring c.id else 0)

/-- The tensor row of slot row `i`, as far as the engine knows it: its base and number. -/
def Copy.sourceOf (c : Copy) (i : Nat) : Option (Word × Int) :=
  if c.func = 2 then (if c.rowIn (c.row0 + i) then some (c.b, c.row0 + i) else none)
  else
    match Tab.find c.list i with
    | some l => if l ≠ 0xFFFFFFFF ∧ c.rowIn (l : Int) then some (c.a, (l : Int)) else none
    | none => none

/-- Where the source of slot row `i` enters another page: the first such byte of the row's in-range run, or the row's end. -/
def Copy.pageBreak (c : Copy) (rb i : Nat) : Nat :=
  match c.sourceOf i with
  | none => rb
  | some (base, row) =>
    let k := c.cols rb
    let at_ := k.1 + (4096 - (c.tensorAddr base row (c.b0 + k.1)).toNat % 4096)
    if at_ < k.2 then at_ else rb

/-- The boundaries of a header's chunks: its scales stand alone, cut where their source enters another page. -/
def Copy.headerCuts (c : Copy) (P : Nat) : List Nat :=
  let x := 4096 - c.c3.toNat % 4096
  P :: (if c.c3 = 0 then [] else [P + 64] ++ (if x < 64 then [P + 64 + x] else []) ++ [P + 128]) ++ [P + 256]

/-- The chunk around byte `p` of the interval [lo, hi): it crosses no row, no 512-byte boundary of the destination and
no 4 KiB page of either side. -/
def chunkAround (s : State) (c : Copy) (slotOff p lo hi : Nat) : Nat × Nat :=
  let P := payloadOf s c
  let rb := if c.isSlot then P / 64 else c.rowBytes
  if c.isSlot ∧ P ≤ p then
    ((c.headerCuts P).foldl (fun n x => if x ≤ p then max n x else n) lo,
     (c.headerCuts P).foldl (fun n x => if p < x then min n x else n) hi)
  else
    let dst := if c.isSlot then slotOff + 256 + p else (c.dstAddr p).toNat
    let rowLo := p / rb * rb
    let rowHi := rowLo + rb
    let up := 512 - dst % 512
    let down := dst % 512
    let src := (c.srcAddr p).toNat % 4096
    let brk := rowLo + c.pageBreak rb (p / rb)
    let srcLo := if c.isSlot then (if brk ≤ p then brk else rowLo) else p - src
    let srcHi := if c.isSlot then (if p < brk then brk else rowHi) else p + (4096 - src)
    (max lo (max rowLo (max (p - down) srcLo)), min hi (min rowHi (min (p + up) srcHi)))

def Core.copyById (k : Core) (id : Nat) : Option Copy := k.copies.find? (fun c => c.id == id)

/-- A chunk that fails is withheld: first failure kept, last cause recorded (R252). -/
def withhold (cyc off cause : Nat) (tval : Word) (c : Copy) : Copy :=
  let l := c.withheld.filter (fun w => w.off != off)
  let since := match c.withheld.find? (fun w => w.off == off) with
    | some w => w.since
    | none => cyc
  { c with withheld := l ++ [⟨since, cause, tval, off⟩], away := c.away.filter (fun a => a.1 != off)
           far := c.far.filter (fun f => f.lo != off) }

/-- Why a piece of a copy fails: an engine fault, a denial, or a read that has gone to another package. -/
inductive PieceFail where
  | fault (cause : Nat) (tval : Word)
  | denied (target unit : Nat) (wr : Bool)
  | far (acc : Access) (ea : Word) (wr : Bool)
deriving DecidableEq, Repr

/-- One side of a chunk: where its bytes lie. A register with RWS fields is closed to a task's engine (00 R6). -/
def piece (s : State) (ag : Agent) (ea : Word) (n : Nat) (need : Need) : Except PieceFail Access :=
  if n = 0 then .ok ⟨[], []⟩
  else
    match checkAccess s ag ea n need false with
    | .error (.trap c v) => .error (.fault c v)
    | .error (.denied t u) => .error (.denied t u need.wr)
    | .ok acc =>
      if rwsBreach ag.svc need acc then .error (.fault PRIV 0)
      else
        match acc.far with
        | some (pkg, _) => if s.routed pkg then .error (.far acc ea need.wr) else .error (.fault 0x14 ea)
        | none => .ok acc

/-- Bytes with their poison, as a read of this cycle finds them (10 R340). -/
def State.readP (s : State) (locs : List Loc) : List PByte := locs.map s.seen

/-- The bytes of a source piece of the chunk at `lo`: those that came back from another package, or those of this one. -/
def readPiece (s : State) (ag : Agent) (c : Copy) (lo : Nat) (ea : Word) (n : Nat) : Except PieceFail (Access × List PByte) :=
  match c.far.find? (fun e => e.lo == lo && e.ea == ea.toNat && e.bytes.length == n) with
  | some e => .ok (⟨[], []⟩, e.bytes)
  | none => (piece s ag ea n needRead).map (fun acc => (acc, s.readP acc.locs))

def pieceValue (bs : List PByte) : Nat := ofBytes (bs.map (·.1))

/-- The poison a chunk leaves: sectors written whole lose it, those of poisoned bytes get it (R252, 13 R430). -/
def State.chunkPoison (s : State) (locs : List (Loc × PByte)) : State :=
  let whole (f : Loc → Option Nat) (k : Nat) : Bool :=
    (locs.filter (fun e => match f e.1 with | some a => a / 32 == k | none => false)).length = 32
  let memOf : Loc → Option Nat := fun l => match l with | .mem pa => some pa | _ => none
  let s := { s with poison := s.poison.filter (fun k => !(whole memOf k)) }
  let s := locs.foldl (fun s e =>
    match e.1 with
    | .scr c _ =>
      s.modCore c (fun k => { k with spoison := k.spoison.filter (fun n =>
        !(whole (fun l => match l with | .scr c' o => if c' = c then some o else none | _ => none) n)) })
    | _ => s) s
  locs.foldl (fun s e =>
    if e.2.2 then
      match e.1 with
      | .mem pa => { s with poison := addSector s.poison (pa / 32) }
      | .scr c off => s.modCore c (fun k => { k with spoison := addSector k.spoison (off / 32) })
      | .far _ _ => s
    else s) s

/-- Bytes written by a chunk with their poison. -/
def State.writeP (s : State) (l : List (Loc × PByte)) : State :=
  (s.chunkPoison l).writeLocs (l.map (fun e => (e.1, e.2.1)))

/-- A destination address of a `copy` or `copy2` that is one of its source's. -/
def Copy.overlaps (c : Copy) (addr : Word) : Bool :=
  (List.range c.rows).any (fun i => (addr - (c.b + word i * c.sstride)).toNat < c.rowBytes)

/-- The spans a copy reads, as far as they are known: of a `copyrg`, the list and the rows it has named so far (DESIGN CHOICE, log 38). -/
def Copy.sources (s : State) (c : Copy) : List (Word × Nat) :=
  let k := c.cols (payloadOf s c / 64)
  if c.func ≤ 1 then (List.range c.rows).map (fun i => (c.b + word i * c.sstride, c.rowBytes))
  else
    (if c.func = 3 then [(c.b, 264)] else []) ++
    (if k.1 < k.2 then
      (List.range 64).filterMap (fun i =>
        (c.sourceOf i).map (fun e => (c.tensorAddr e.1 e.2 (c.b0 + k.1), k.2 - k.1)))
     else []) ++ (if c.c3 = 0 then [] else [(c.c3, 64)])

/-- A span cut where it enters another page. -/
def pageSpans (ea : Word) (n : Nat) : List (Word × Nat) :=
  let o := ea.toNat % 4096
  (List.range ((o + n + 4095) / 4096)).map (fun i =>
    let lo := max o (4096 * i)
    (ea - word o + word lo, min (o + n) (4096 * (i + 1)) - lo))

/-- Where a copy's source lies: the first byte of each run, and its length. A slot copy writes a scratchpad, of which only an address of
the aperture can name a byte. -/
def Copy.sourceRuns (s : State) (c : Copy) : List (Loc × Nat) :=
  ((c.sources s).flatMap (fun e => pageSpans e.1 e.2)).filterMap (fun e =>
    if c.isSlot && !(inAperture e.1.toNat) then none else (s.place (copyAgent s c) e.1).map (·, e.2))

def Loc.inRun (l : Loc) (r : Loc × Nat) : Bool :=
  match l, r.1 with
  | .mem a, .mem b => b ≤ a && a < b + r.2
  | .far p a, .far q b => p == q && b ≤ a && a < b + r.2
  | .scr c a, .scr d b => c == d && b ≤ a && a < b + r.2
  | _, _ => false

/-- Bytes of a chunk that its copy's own source lies on are undefined (R245): they are set once the source has been read. The others are
written; and the places that are left. -/
def State.writeApart (s : State) (runs : List (Loc × Nat)) (l : List (Loc × PByte)) : State × List Loc :=
  (s.writeP (l.filter (fun e => !(runs.any (e.1.inRun ·)))), (l.filter (fun e => runs.any (e.1.inRun ·))).map (·.1))

/-- The part a finished CRC copy adds to its token: of a slot copy, its payload (R250). -/
def Copy.part (s : State) (c : Copy) : List Byte :=
  (c.got.filter (fun e => !c.isSlot || e.1 < payloadOf s c)).map (·.2.1)

/-- The last byte has been delivered: undefined bytes are set, and the CRC joins its token. -/
def delivered (s : State) (m : Nat) (c : Copy) : State :=
  let s := (c.odd.zip (List.range c.odd.length)).foldl
    (fun s e => s.writeLocs [(e.1, Config.freeByte s.tick 7 e.2)]) s
  let part := c.part s
  let s := s.modCore m (fun k => k.modCopy c.id (fun x => { x with odd := [], got := [] }))
  if c.crc && !c.orphan then
    s.modThr c.thr (fun th =>
      let t := th.token c.token
      th.setToken c.token { t with parts := Tab.put t.parts c.seq part })
  else s

/-- The copy has finished and leaves the engine. -/
def removeCopy (s : State) (m id : Nat) : State :=
  s.modCore m (fun k => { k with copies := k.copies.filter (fun c => c.id != id) })

/-- The task of a copy whose thread has ended is no longer on a core: a chunk that fails is dropped. -/
def Copy.stranded (s : State) (c : Copy) : Bool := c.orphan && (s.taskOf c.task).window == 0x2000

/-- After the last byte: the flag word is incremented, and the copy is finished (R249); a refused window or a denial
withholds the add (01 R31). -/
def finishCopy (s : State) (m : Nat) (c : Copy) : State :=
  if c.flag then
    let ag := copyAgent s c
    match flagLoc s ag c.d with
    | none => if c.stranded s then removeCopy s m c.id else s.modCore m (fun k => k.modCopy c.id (withhold s.cyc 0 0x06 c.d))
    | some loc =>
      match denied s m true true loc, loc with
      | some (t, u), _ => s.deny m t u true true
      | none, .scr co off =>
        let locs := (List.range 4).map (fun i => Loc.scr co (off + i))
        removeCopy ((s.store locs ((s.valueAt locs + 1) % 2 ^ 32)).unheld c.task c.slot locs) m c.id
      | none, _ => s
  else removeCopy s m c.id

/-- A withheld chunk that is due to be reported, and that has not come back since from another package. -/
def Copy.ripe (c : Copy) (cyc : Nat) : Option Withheld :=
  c.withheld.find? (fun w => w.since + 8192 ≤ cyc && w.cause != 0x08 && !(c.far.any (fun f => f.lo == w.off)))

/-- Bytes [lo, hi) of copy `id` are delivered: PEND falls by their number (R242). With the last of them the copy is finished, its flag
written (R243, R249). -/
def chunkDone (s : State) (m id lo hi : Nat) (bytes : List PByte) (odd : List Loc) : State :=
  let s := s.modCore m (fun k => k.modCopy id (fun c =>
    let c := { c with
      left := cutInterval c.left lo hi
      withheld := c.withheld.filter (fun w => w.off != lo)
      away := c.away.filter (fun a => a.1 != lo)
      far := c.far.filter (fun f => f.lo != lo) }
    { c with
      drains := c.drains && (c.ripe s.cyc).isSome
      odd := c.odd ++ odd
      got := if c.crc || c.isSlot then (bytes.zip (List.range bytes.length)).foldl (fun g e => Tab.put g (lo + e.2) e.1) c.got
             else c.got }))
  match (s.core m).copyById id with
  | none => s
  | some c =>
    let s := if c.orphan then s else s.modThr c.thr (fun th =>
      let t := th.token c.token
      th.setToken c.token { t with pend := t.pend - (hi - lo) })
    if c.left = [] then finishCopy (delivered s m c) m c else s

/-- A piece that failed: withheld, its master frozen, or sent to the other package (R252, 12 R389). -/
def pieceFailed (s : State) (m : Nat) (c : Copy) (lo hi : Nat) (data : List PByte) : PieceFail → State
  | .fault cause v =>
    if c.stranded s then chunkDone s m c.id lo hi [] []
    else s.modCore m (fun k => k.modCopy c.id (withhold s.cyc lo cause v))
  | .denied t u wr =>
    (s.deny m t u (!wr) wr).modCore m (fun k => k.modCopy c.id (withhold s.cyc lo 0x08 (word (u * 4096))))
  | .far acc ea wr =>
    (s.modCore m (fun k => k.modCopy c.id (fun x => { x with away := (lo, hi) :: x.away }))).sendFar m (c.thr % 8) (copyAgent s c)
      (if wr then needWrite else needRead) acc ea (if wr then .write 0 data else .read 0 acc.locs.length)
      (if wr then .chunkWrite m c.id lo hi else .chunkRead m c.id lo hi)

/-- The write side of a chunk of `copy` or `copy2`, its source bytes in hand. -/
def writeChunk (s : State) (m : Nat) (c : Copy) (lo hi : Nat) (bs : List PByte) : State :=
  let ag := copyAgent s c
  match piece s ag (c.dstAddr lo) (hi - lo) needWrite with
  | .error f => pieceFailed s m c lo hi bs f
  | .ok acc =>
    let s := commitAccess s ag needWrite acc
    let same := (acc.locs.zip (List.range (hi - lo))).filter (fun e => c.overlaps (c.dstAddr (lo + e.2)))
    let r := s.writeApart (same.map (fun e => (e.1, 1)) ++ c.sourceRuns s) (acc.locs.zip bs)
    chunkDone (r.1.unheld c.task c.slot acc.locs) m c.id lo hi bs r.2

/-- The row index of slot row `i` of a `copyrg`, read once: L[i] (R247). The chunk that needs it is cut again with it. -/
def listRow (s : State) (m : Nat) (c : Copy) (i lo hi : Nat) : State :=
  let ag := copyAgent s c
  match readPiece s ag c lo (c.b + word (8 + 4 * i)) 4 with
  | .error f => pieceFailed s m c lo hi [] f
  | .ok (acc, bs) =>
    (commitAccess s ag needRead acc).modCore m (fun k => k.modCopy c.id (fun x =>
      { x with list := Tab.put x.list i (pieceValue bs), withheld := x.withheld.filter (fun w => w.off != lo)
               far := x.far.filter (fun f => f.lo != lo) }))

/-- Where byte `o` of a tile goes: the payload's first, then the header's (01 R26). -/
def tileLoc (home slotOff P o : Nat) : Loc := .scr home (if o < P then slotOff + 256 + o else slotOff + (o - P))

/-- Bytes of the tile of a slot copy are written. -/
def putTile (s : State) (c : Copy) (slotOff : Nat) (l : List (Nat × PByte)) : State × List Loc :=
  s.writeApart (c.sourceRuns s) (l.map (fun e => (tileLoc (s.taskOf c.task).core slotOff (payloadOf s c) e.1, e.2)))

/-- The tile of a copy is whole in the slot it publishes: when another party has taken the slot it was filling, the bytes delivered so far
are written to the one at the tail now (06 R179: DEDUCED, log 39). -/
def takeSlot (s : State) (m : Nat) (c : Copy) (slotOff : Nat) : State :=
  if c.fills = some slotOff then s
  else
    let r := putTile s c slotOff c.got
    r.1.modCore m (fun k => k.modCopy c.id (fun x => { x with fills := some slotOff, odd := r.2 }))

/-- A payload chunk of a slot copy (R247). -/
def payloadChunk (s : State) (m : Nat) (c : Copy) (slotOff lo hi : Nat) : State :=
  let ag := copyAgent s c
  let rb := payloadOf s c / 64
  let k := c.cols rb
  let j0 := max (lo % rb) k.1
  let j1 := min (lo % rb + (hi - lo)) k.2
  let put (s : State) (bs : List PByte) : State :=
    let l := (List.range (hi - lo)).map (fun i => (lo + i, bs[i]?.getD (0, false)))
    let r := putTile s c slotOff l
    chunkDone r.1 m c.id lo hi (l.map (·.2)) r.2
  if c.func = 3 ∧ (Tab.find c.list (lo / rb)).isNone then listRow s m c (lo / rb) lo hi
  else
    match c.sourceOf (lo / rb) with
    | none => put s []
    | some (base, row) =>
      if j1 ≤ j0 then put s []
      else
        let ea := c.tensorAddr base row (c.b0 + j0)
        if spanBad ea (j1 - j0) then
          pieceFailed s m c lo hi [] (.fault 0x03 (c.tensorAddr base row (c.b0 + k.1)))
        else
          match readPiece s ag c lo ea (j1 - j0) with
          | .error f => pieceFailed s m c lo hi [] f
          | .ok (acc, bs) => put (commitAccess s ag needRead acc) (List.replicate (j0 - lo % rb) (0, false) ++ bs)

/-- The last chunk of a slot, from byte P on: the rest of its header, then the descriptor, which publishes the slot (R247,
R248). -/
def headerChunk (s : State) (m : Nat) (c : Copy) (slotOff hi : Nat) : State :=
  let ag := copyAgent s c
  let P := payloadOf s c
  let home := (s.taskOf c.task).core
  let template : Except PieceFail (List Access × List PByte) :=
    if c.func = 2 then .ok ([], clean (toBytes 8 c.a.toNat))
    else
      match readPiece s ag c P c.b 8 with
      | .error f => .error f
      | .ok (acc, bs) =>
        if pieceValue bs = 0 then .error (.fault 0x15 c.b) else .ok ([acc], bs)
  match template with
  | .error f => pieceFailed s m c P hi [] f
  | .ok (accs, bs) =>
    let v := pieceValue bs
    let s := accs.foldl (fun s a => commitAccess s ag needRead a) s
    let bytes : List PByte := bs ++ clean (List.replicate (hi - P - 8) 0)
    let s := s.writeP ((bytes.zip (List.range (hi - P))).map (fun e => (Loc.scr home (slotOff + e.2), e.1)))
    let s := s.modCore home (fun k => k.handshake s.cyc slotOff v true)
    chunkDone s m c.id P hi [] []

/-- A chunk of the header after its first: SCALES at bytes 64 to 127, else zeros (R247). -/
def scalesChunk (s : State) (m : Nat) (c : Copy) (slotOff lo hi : Nat) : State :=
  let ag := copyAgent s c
  let o := lo - payloadOf s c
  let put (s : State) (bs : List PByte) : State :=
    let r := putTile s c slotOff ((bs.zip (List.range bs.length)).map (fun e => (lo + e.2, e.1)))
    chunkDone r.1 m c.id lo hi bs r.2
  if 64 ≤ o ∧ o < 128 then
    match readPiece s ag c lo (c.c3 + word (o - 64)) (hi - lo) with
    | .error f => pieceFailed s m c lo hi [] f
    | .ok (acc, bs) => put (commitAccess s ag needRead acc) bs
  else put s (List.replicate (hi - lo) (0, false))

/-- The ring of a slot copy has a slot that it may fill (R248). -/
def copyFits (s : State) (m : Nat) (c : Copy) : Bool :=
  !c.isSlot || (copyRing s c).count + slotOrder (s.core m) c < (copyRing s c).depth

/-- The engine starts no chunk of the copy, and finishes those in flight: while its master is frozen (12 R389), its task saves itself
(R277), or a fault of it is to be raised (R252). -/
def Copy.finishes (s : State) (m : Nat) (c : Copy) : Bool :=
  c.drains || s.frozen.contains m || (s.taskSaving c.task && !c.orphan)

/-- The chunk that is performed: one that came back from another package where none starts; else the one around byte `k` when that byte is
left, or the first left. -/
def Copy.chunkAt (s : State) (m : Nat) (c : Copy) (slotOff k : Nat) : Option (Nat × Nat) :=
  if c.finishes s m then c.far.head?.map (fun f => (f.lo, f.hi))
  else
    match c.left.find? (fun p => p.1 ≤ k && k < p.2) with
    | some p => some (chunkAround s c slotOff k p.1 p.2)
    | none => c.left.head?.map (fun p => chunkAround s c slotOff p.1 p.1 p.2)

/-- One chunk of a copy. -/
def performChunk (s : State) (m : Nat) (c : Copy) (k : Nat) : State :=
  let ring := copyRing s c
  let n := slotOrder (s.core m) c
  let slotOff := ring.slotAt ((ring.tail + n) % ring.depth)
  match c.chunkAt s m slotOff k with
  | none => s
  | some ch =>
    if c.away.any (fun a => a.1 == ch.1) || (c.stopped && c.withheld.any (fun w => w.off == ch.1)) then s
    else if c.isSlot then
      if !(copyFits s m c) then s
      else
        let s := takeSlot s m c slotOff
        if ch.1 = payloadOf s c then (if n = 0 ∧ c.left = [ch] then headerChunk s m c slotOff ch.2 else s)
        else if payloadOf s c ≤ ch.1 then scalesChunk s m c slotOff ch.1 ch.2
        else payloadChunk s m c slotOff ch.1 (min ch.2 (payloadOf s c))
    else
      let ag := copyAgent s c
      match readPiece s ag c ch.1 (c.srcAddr ch.1) (ch.2 - ch.1) with
      | .error f => pieceFailed s m c ch.1 ch.2 [] f
      | .ok (acc, bs) => writeChunk (commitAccess s ag needRead acc) m c ch.1 ch.2 bs

/-- COPY_CHUNK: the engine of master `m` performs one piece of copy `id`, or writes the flag of a copy with nothing left. -/
def execCopyChunk (m id k : Nat) (s : State) : Out :=
  .next (match (s.core m).copyById id with
    | none => s
    | some c =>
      if s.frozen.contains m && c.far == [] then s
      else
        let s := s.modCore m (fun x => x.modCopy id (fun c => { c with taken := true }))
        if c.left = [] then finishCopy s m c else performChunk s m { c with taken := true } k)

/-- A withheld piece that still fails 8,192 cycles after its first failure is reported to the issuing thread, once the copy's chunks in
flight are done (R252). Of several the record names the one whose last try lies furthest back: DESIGN CHOICE, log 38. -/
def execCopyFaultTimeout (m id : Nat) (s : State) : Out :=
  .next (match (s.core m).copyById id with
    | none => s
    | some c =>
      match c.ripe s.cyc with
      | none => s
      | some w =>
        if c.stopped || c.orphan then s
        else if c.away != [] || c.far != [] then s.modCore m (fun k => k.modCopy id (fun c => { c with drains := true }))
        else
          let f := { mkFault s c.thr w.cause 1 w.tval
                      (word (c.token * 2 ^ 61 + c.seq % 2 ^ 21 * 2 ^ 40 + w.off)) (.copy m id) with
                      task := c.task, job := handleJob c.task }
          (s.modCore m (fun k => k.modCopy id (fun c => { c with stopped := true, drains := false }))).raise c.thr f)

end Sys2Proof.Machine
end

