-- ==== Sys2Proof/Machine/Queues.lean ====
section
/-! DEFINITION. Word queues and the branch queue from the access side, and the counted queue events (01 R22 to R25,
07 R221 to R231, 11 R362). -/

namespace Sys2Proof.Machine

def Core.queue (c : Core) (q : Nat) : Queue := Tab.get {} c.queues q
def Core.setQueue (c : Core) (q : Nat) (x : Queue) : Core := { c with queues := Tab.put c.queues q x }

/-- Entries of an xa queue count once landed; of an ax queue, from their reservation (07 R225). -/
def Queue.landed (q : Queue) (cyc : Nat) : List QEntry := q.entries.takeWhile (fun e => e.ready ≤ cyc)
def Queue.occ (q : Queue) (cyc : Nat) : Nat := if q.xa then (q.landed cyc).length else q.entries.length
/-- Places that are taken. -/
def Queue.taken (q : Queue) : Nat := q.entries.length + q.lent.length
def Queue.isFull (q : Queue) : Bool := q.cap ≤ q.taken
/-- The head entry, when it can be popped. -/
def Queue.head (q : Queue) (cyc : Nat) : Option QEntry := (q.landed cyc).head?
def Queue.pop (q : Queue) : Queue := { q with entries := q.entries.tail }
def Queue.push (q : Queue) (e : QEntry) : Queue := { q with entries := q.entries ++ [e] }
/-- The head entry leaves for stream unit `u`, whose write of it is under way (08 R256). -/
def Queue.lend (q : Queue) (u : Nat) : Queue :=
  { q with entries := q.entries.tail, lent := q.lent ++ (q.entries.head?.map (fun e => (u, e))).toList }
/-- What unit `u` has of the queue has been written. -/
def Queue.repaid (q : Queue) (u : Nat) : Queue := { q with lent := q.lent.filter (fun e => e.1 != u) }
/-- What unit `u` has of the queue was not written: it is at the head again. -/
def Queue.giveBack (q : Queue) (u : Nat) : Queue :=
  { q.repaid u with entries := (q.lent.filter (fun e => e.1 == u)).map (·.2) ++ q.entries }
/-- A push of the execute array: in its issue order (05 R147). -/
def Queue.insert (q : Queue) (e : QEntry) : Queue :=
  { q with entries := q.entries.takeWhile (fun x => x.key ≤ e.key) ++ [e] ++ q.entries.dropWhile (fun x => x.key ≤ e.key) }

/-- A queue that a chain of this package drains admits no `qpop` or `qtry` (11 R366). -/
def State.chained (s : State) (task q : Nat) : Bool :=
  s.chains.any (fun e => e.2.slid == handleLid task && e.2.desc.srole == handleRole task && e.2.desc.sq == q && !e.2.dead)

/-- The head of a core's queue is on its way by a chain, which takes it from there when it has arrived (11 R366). -/
def State.headSent (s : State) (core q : Nat) : Bool :=
  s.chains.any (fun e => e.2.flight != [] && e.2.desc.sq == q && e.2.slid + e.2.desc.srole == (s.core core).home)

/-- The queue checks of R221 (R44 step 4): declared, and of the direction asked for. -/
def State.withQueue (s : State) (q : BitVec 4) (xa : Option Bool) (k : Queue → State) : State :=
  let x := s.myCore.queue q.toNat
  if !x.decl then s.trap ILLOP 0
  else
    match xa with
    | none => k x
    | some dir => if x.xa != dir then s.trap ILLOP 0 else k x

/-- The queue a `qpop` or `qtry` names: an xa queue that no chain drains (R221, 11 R366). -/
def State.popQueue (s : State) (q : BitVec 4) (k : Queue → State) : State :=
  s.withQueue q (some true) (fun x => if s.chained s.me.task q.toNat then s.trap ILLOP 0 else k x)

/-- TRAPEN as the events of cycle `cyc` see it: before a `setcw` of the same cycle (11 R368). -/
def Task.trapenAt (t : Task) (cyc : Nat) : Word := if t.trapenOld.1 = cyc + 1 then t.trapenOld.2 else t.trapen

/-- An event is armed (11 R362): its enable bit in `en`, a handler, and a counter at its limit. -/
def armed (t : Task) (en : Word) (enable : Nat) (limit : Nat) (counter : Word) : Bool :=
  bit en enable && t.trapvec != 0 && limit ≤ counter.toNat

/-- QFULL (R227): counted once; a trap at the push when armed, else the thread is held. -/
def qfullEvent (i : Instr) (q : BitVec 4) (s : State) : State :=
  let t := s.myTask
  let s' := s.modMe (fun th => { th with qfullcnt := th.qfullcnt + 1 })
  let en := t.trapenAt s.cyc
  if armed t en 0 (bits en 31 16) s.me.qfullcnt then s'.trap 0x0A (word q.toNat) else s'.hold i

/-- LOD (R228). -/
def lodEvent (i : Instr) (tval : Word) (s : State) : State :=
  let t := s.myTask
  let s' := s.modMe (fun th => { th with lodcnt := th.lodcnt + 1 })
  let en := t.trapenAt s.cyc
  if armed t en 1 (bits en 47 32) s.me.lodcnt then s'.trap 0x0B tval else s'.hold i

/-- The push takes effect (R222). -/
def pushEntry (q : BitVec 4) (kind : BitVec 4) (data : Word) (s : State) : State :=
  (s.modMyCore (fun c => c.setQueue q.toNat ((c.queue q.toNat).push { tok := ⟨kind, false, data⟩, ready := s.cyc + 1 }))).next

/-- A push of what the registers `rs` give: the queue is judged at decoding, before a register is read (02 R44). -/
def qpushWith (i : Instr) (rs : List Reg) (q kind : BitVec 4) (data : Word) (s : State) : State :=
  s.withQueue q (some false) (fun x =>
    s.reading rs (if x.isFull then qfullEvent i q s else pushEntry q kind data s))

def execQpush (a : Reg) (kind q : BitVec 4) (s : State) : Out :=
  .next (s.homeOnly (qpushWith (.qpush a kind q) [a] q kind (s.rx a) s))

def execQpushi (imm : BitVec 16) (kind q : BitVec 4) (s : State) : Out :=
  .next (s.homeOnly (qpushWith (.qpushi imm kind q) [] q kind (sext64 imm) s))

/-- The word of `tkind` (05 R163): the kind, and the poison bit above it. -/
def kindWord (e : Tok) : Word := word (e.kind.toNat + (if e.poison then 16 else 0))

/-- The head is removed, or POISON traps and it stays (R223). -/
def takeHead (d b : Reg) (q : BitVec 4) (e : QEntry) (after : State → State) (s : State) : State :=
  if e.tok.poison && b == 0 then s.trap 0x09 (word q.toNat)
  else
    after (((s.modMyCore (fun c => c.setQueue q.toNat (c.queue q.toNat).pop)).wx d e.tok.data).wx b (kindWord e.tok))

def qpop (d b : Reg) (q : BitVec 4) (s : State) : State :=
  s.popQueue q (fun x =>
    match x.head s.cyc with
    | none => lodEvent (.qpop d b q) (word q.toNat) s
    | some e => takeHead d b q e State.next s)

def execQpop (d b : Reg) (q : BitVec 4) (s : State) : Out := .next (s.homeOnly (qpop d b q s))

def execQtry (d b c : Reg) (q : BitVec 4) (s : State) : Out :=
  .next (s.homeOnly (s.popQueue q (fun x =>
    match x.head s.cyc with
    | none => (((s.wx d 0).wx b 0).wx c 0).next
    | some e => takeHead d b q e (fun s => (s.wx c 1).next) s)))

/-- The oldest value of `bq`, when it can be popped (R224, 03 R102). -/
def Core.bqHead (c : Core) (cyc : Nat) : Option (BitVec 16) :=
  match c.bq with
  | (r, v) :: _ => if r ≤ cyc then some v else none
  | [] => none

def takeBq (s : State) : State := s.modMyCore (fun c => { c with bq := c.bq.tail })

def bqpop (d : Reg) (s : State) : State :=
  match s.myCore.bqHead s.cyc with
  | none => lodEvent (.bqpop d) 0x10 s
  | some v => (takeBq s).result d (zext64 v)

def execBqpop (d : Reg) (s : State) : Out := .next (s.homeOnly (bqpop d s))

def execBqtry (d c : Reg) (s : State) : Out :=
  .next (s.homeOnly (match s.myCore.bqHead s.cyc with
    | none => ((s.wx d 0).wx c 0).next
    | some v => (((takeBq s).wx d (zext64 v)).wx c 1).next))

/-- The snapshot of R225. -/
def Queue.status (q : Queue) (cyc : Nat) : Word :=
  let h := match q.head cyc with
    | none => 0
    | some e => 2 ^ 23 + (if e.tok.poison then 2 ^ 22 else 0) + e.tok.kind.toNat * 2 ^ 18
  word (h + (if q.xa then 2 ^ 17 else 0) + (if q.decl then 2 ^ 16 else 0) + q.cap * 2 ^ 8 + q.occ cyc)

/-- The snapshot of queue `q` of core `m` that reads of this cycle see: from before the cycle's pushes and pops (04 R122). -/
def State.queueSeen (s : State) (m q : Nat) : Word :=
  match Tab.find s.prior m with
  | some p => if p.cyc = s.cyc then p.queues[q]?.getD 0 else ((s.core m).queue q).status s.cyc
  | none => ((s.core m).queue q).status s.cyc

def execQstat (d : Reg) (q : BitVec 4) (s : State) : Out :=
  .next (s.homeOnly (s.withQueue q none (fun _ => s.result d (s.queueSeen s.cur.m q.toNat))))

/-- A slot is free: the held push takes effect, counting nothing again (R227). -/
def execBlockedPushTakesEffect (s : State) : Out :=
  .next (match s.me.held with
    | some (.qpush a kind q) =>
      if (s.myCore.queue q.toNat).isFull then s else s.reading [a] (pushEntry q kind (s.rx a) s)
    | some (.qpushi imm kind q) => if (s.myCore.queue q.toNat).isFull then s else pushEntry q kind (sext64 imm) s
    | _ => s)

/-- LODCYC counts the cycles from the first blocked one to the one before the pop takes effect (R228). -/
def countBlocked (s : State) : State :=
  s.modMe (fun th => { th with lodcyc := th.lodcyc + word (s.cyc - th.heldFrom) })

/-- An entry is present: the held pop takes effect (R228). -/
def execBlockedPopTakesEffect (s : State) : Out :=
  .next (match s.me.held with
    | some (.qpop d b q) =>
      match (s.myCore.queue q.toNat).head s.cyc with
      | none => s
      | some e =>
        let s := countBlocked s
        takeHead d b q e State.next (s.modMe (fun th => { th with held := none }))
    | some (.bqpop d) =>
      match s.myCore.bqHead s.cyc with
      | none => s
      | some v => (takeBq (countBlocked s)).result d (zext64 v)
    | _ => s)

end Sys2Proof.Machine
end

