-- ==== Sys2Proof/Machine/Streams.lean ====
section
/-! DEFINITION. Stream units (08 R254 to R260), and the low-water records of the paging service (12 R392, R393). -/

namespace Sys2Proof.Machine

def streamReset : Stream := { counts := [(0, 1), (1, 1), (2, 1), (3, 1)] }
def Core.stream (c : Core) (u : Nat) : Stream := Tab.get streamReset c.streams u
def Core.setStream (c : Core) (u : Nat) (x : Stream) : Core := { c with streams := Tab.put c.streams u x }
def Stream.count (x : Stream) (k : Nat) : Nat := Tab.get 1 x.counts k
def Stream.stride (x : Stream) (k : Nat) : Word := Tab.get 0 x.strides k
/-- E of R256. -/
def Stream.total (x : Stream) : Nat := x.count 0 * x.count 1 * x.count 2 * x.count 3

/-- The address of element n (R256). -/
def Stream.addr (x : Stream) (n : Nat) : Word :=
  x.base + word (n % x.count 0) * x.stride 0 + word (n / x.count 0 % x.count 1) * x.stride 1 +
    word (n / (x.count 0 * x.count 1) % x.count 2) * x.stride 2 +
    word (n / (x.count 0 * x.count 1 * x.count 2) % x.count 3) * x.stride 3

/-! ## Low-water records -/

/-- A record of the low-water table (12 R392), stored by the core's unit: the access tables judge the store as any of the core's (12 R370,
R386). One that a freeze keeps back, or a denial, is stored after the thaw, and those after it with it (12 R389, R393). -/
def State.lowWater (s : State) (core : Nat) (r : LowMark) : State :=
  let at_ := s.sup.lwmtab * 2 ^ 22 + 32 * (32 * core + r.slot)
  let record := toBytes 8 r.lo.toNat ++ toBytes 8 r.hi.toNat ++ toBytes 8 ((if r.opened then 2 ^ 63 else 0) + r.job) ++ toBytes 8 0
  let later (s : State) : State := s.modCore core (fun c => { c with lows := c.lows ++ [r] })
  if s.frozen.contains core || (s.core core).lows != [] then later s
  else
    match denied s core false true (.mem at_) with
    | some (t, u) => later (s.deny core t u false true)
    | none => s.writeLocs ((List.range 32).zip record |>.map (fun e => (.mem (at_ + e.1), e.2)))

/-- A core that has been thawed stores the records that were kept back. -/
def State.storeLows (s : State) (core : Nat) : State :=
  if s.frozen.contains core then s
  else (s.core core).lows.foldl (fun s r => s.lowWater core r) (s.modCore core (fun c => { c with lows := [] }))

/-- The reach of dimension k from its first element to its last. -/
def Stream.reach (x : Stream) (k : Nat) : Int := ((x.count k : Int) - 1) * (x.stride k).toInt

/-- Addresses never fall from one element to the next (12 R393). -/
def Stream.rising (x : Stream) : Bool :=
  0 ≤ (x.stride 0).toInt && x.reach 0 ≤ (x.stride 1).toInt && x.reach 0 + x.reach 1 ≤ (x.stride 2).toInt &&
    x.reach 0 + x.reach 1 + x.reach 2 ≤ (x.stride 3).toInt

def Stream.highest (x : Stream) : Word :=
  x.base + wrap64 (((List.range 4).map (fun k => max 0 (x.reach k))).sum + (sizeBytes x.esize : Int) - 1)
def Stream.lowest (x : Stream) : Word := x.base + wrap64 (((List.range 4).map (fun k => min 0 (x.reach k))).sum)
def Stream.low (x : Stream) : Word := if x.rising then x.addr x.next else x.lowest

def State.streamWindow (s : State) (core u : Nat) (x : Stream) (opened : Bool) : State :=
  (s.lowWater core ⟨u, x.low, x.highest, opened, handleJob (s.core core).home⟩).modCore core (fun c =>
    c.setStream u { c.stream u with win := opened })

/-- The record of a unit that keeps one open is closed. -/
def State.shutWindow (s : State) (core u : Nat) : State :=
  let x := (s.core core).stream u
  if x.win then s.streamWindow core u x false else s

/-! ## Instructions -/

def Stream.busy (x : Stream) : Bool := x.state == .running || x.state == .withholding

/-- `sbase` and `sdim` on a unit that is not busy; a stopped one becomes idle (R255). -/
def setStream (i : Instr) (st : BitVec 3) (f : Stream → Stream) (s : State) : State :=
  let x := s.myCore.stream st.toNat
  if x.busy then s.hold i
  else
    let s := s.shutWindow s.cur.m st.toNat
    (s.modMyCore (fun c => c.setStream st.toNat { f (c.stream st.toNat) with state := .idle })).next

def sbase (st : BitVec 3) (a : Reg) (s : State) : State :=
  setStream (.sbase st a) st (fun x => { x with base := s.rx a }) s
def execSbase (st : BitVec 3) (a : Reg) (s : State) : Out := .next (s.homeOnly (s.reading [a] (sbase st a s)))

def sdim (st : BitVec 3) (dim : BitVec 2) (a b : Reg) (s : State) : State :=
  setStream (.sdim st dim a b) st
    (fun x => { x with counts := Tab.put x.counts dim.toNat ((s.rx a).toNat % 2 ^ 32)
                       strides := Tab.put x.strides dim.toNat (s.rx b) }) s
def execSdim (st : BitVec 3) (dim : BitVec 2) (a b : Reg) (s : State) : Out :=
  .next (s.homeOnly (s.reading [a, b] (sdim st dim a b s)))

/-- `sgo` takes effect (R256). -/
def startStream (st : BitVec 3) (q : BitVec 4) (sz : Size) (sc : Scope) (store : Bool) (s : State) : State :=
  let x := { s.myCore.stream st.toNat with q := q.toNat, esize := sz, store, scope := sc, next := 0, owner := s.cur.t,
                                            away := none, got := none }
  let x := { x with state := if x.total = 0 then .idle else .running }
  ((s.modMyCore (fun c => c.setStream st.toNat x)).streamWindow s.cur.m st.toNat x (x.total != 0)).next

def sgo (i : Instr) (st : BitVec 3) (q : BitVec 4) (sz : Size) (sc : Scope) (store : Bool) (s : State) : State :=
  s.withQueue q (some store) (fun _ =>
    if (s.myCore.stream st.toNat).busy then s.hold i else startStream st q sz sc store s)

def execSgoLd (st : BitVec 3) (q : BitVec 4) (sz : Size) (sc : Scope) (s : State) : Out :=
  .next (s.homeOnly (sgo (.sgoLd st q sz sc) st q sz sc false s))
def execSgoSt (st : BitVec 3) (q : BitVec 4) (sz : Size) (sc : Scope) (s : State) : Out :=
  .next (s.homeOnly (sgo (.sgoSt st q sz sc) st q sz sc true s))

/-- A unit takes STATE 2, or is discarded, and its window closes (R258, 11 R355, 12 R393). -/
def haltStream (s : State) (core u : Nat) : State :=
  (s.modCore core (fun c => c.setStream u
    { c.stream u with state := if (c.stream u).discard then .idle else .stopped, away := none, got := none, stopping := false
                      discard := false })).shutWindow core u

/-- A busy unit stops at its element boundary: a write that is under way is finished first, a read ahead is discarded. -/
def stopStream (s : State) (core u : Nat) : State :=
  let x := (s.core core).stream u
  if !x.busy then s
  else if x.store && x.away.isSome then s.modCore core (fun c => c.setStream u { x with stopping := true })
  else haltStream s core u

/-- The unit stops as by `sstop`, and is idle then (11 R355). -/
def discardStream (s : State) (core u : Nat) : State :=
  (stopStream s core u).modCore core (fun c =>
    let x := c.stream u
    c.setStream u (if x.stopping then { x with discard := true } else { x with state := .idle }))

def execSstop (st : BitVec 3) (s : State) : Out := .next (s.homeOnly (stopStream s s.cur.m st.toNat).next)

/-- A stopped unit runs again from NEXT (R258). -/
def resumeStream (s : State) (core u : Nat) : State :=
  let x := (s.core core).stream u
  if x.state = .stopped then
    (s.modCore core (fun c => c.setStream u { x with state := .running })).streamWindow core u x true
  else s

def execSresume (st : BitVec 3) (s : State) : Out := .next (s.homeOnly (resumeStream s s.cur.m st.toNat).next)

def sbar (mask : BitVec 8) (s : State) : State :=
  if (List.range 8).any (fun u => bit mask u && (s.myCore.stream u).busy) then s.hold (.sbar mask) else s.next
def execSbar (mask : BitVec 8) (s : State) : Out := .next (s.homeOnly (sbar mask s))

/-! ## Elements -/

/-- Who a stream unit or fibre unit of a core accesses for; `gid` 0 for a stream (12 R377, R378); `cache` numbers the unit's
translation cache (R380). -/
def unitAgent (s : State) (core gid cache : Nat) : Agent :=
  let t := s.taskOf (s.core core).home
  { master := core, job := handleJob (s.core core).home, lid := t.lid, role := t.role, homeCore := t.window,
    restricted := true, gid, cache := .engine core cache }

/-- Element NEXT is withheld: its first failure stands, its last cause is recorded, and its entry is at the head of the queue (R256, R260).
A unit that is stopping stops there (R278). -/
def withholdElement (s : State) (core u cause : Nat) (tval : Word) : State :=
  let s := s.modCore core (fun c => c.setQueue (c.stream u).q ((c.queue (c.stream u).q).giveBack u))
  if ((s.core core).stream u).stopping then haltStream s core u
  else
    s.modCore core (fun c =>
      let x := c.stream u
      c.setStream u { x with state := .withholding, cause, tval, away := none, got := none,
                             fail := if x.state = .withholding then x.fail else s.cyc })

/-- Element NEXT has been performed. -/
def elementDone (s : State) (core u : Nat) : State :=
  let x := (s.core core).stream u
  let y := { x with next := x.next + 1, away := none, got := none, state := if x.next + 1 < x.total then .running else .idle }
  let s := s.modCore core (fun c => c.setStream u y)
  if y.state = .idle then
    (s.streamWindow core u x false).modCore core (fun c => c.setStream u { c.stream u with stopping := false, discard := false })
  else if x.stopping then haltStream s core u
  else if y.low.toNat / 4096 ≠ x.low.toNat / 4096 then s.streamWindow core u y true else s

/-- The value read is pushed (R256). -/
def pushElement (s : State) (core u v : Nat) (poison : Bool) : State :=
  let x := (s.core core).stream u
  elementDone (s.modCore core (fun c => c.setQueue x.q ((c.queue x.q).push { tok := ⟨0, poison, word v⟩, ready := s.cyc + 1 }))) core u

/-- The entry `e` is written (R256): a poisoned one poisons its sector. Slots that the owner does not hold are left undefined (06
R177). -/
def writeElement (s : State) (core u : Nat) (locs : List Loc) (e : QEntry) : State :=
  let x := (s.core core).stream u
  let bytes := toBytes locs.length e.tok.data.toNat
  let s := (s.writeLocs (locs.zip bytes)).unheld (s.core core).home x.owner locs
  let s := if e.tok.poison then
      locs.foldl (fun s l => match l with
        | .mem pa => { s with poison := addSector s.poison (pa / 32) }
        | .scr c off => s.modCore c (fun k => { k with spoison := addSector k.spoison (off / 32) })
        | .far _ _ => s) s
    else s
  elementDone s core u

/-- The head of the queue is popped and written. -/
def popElement (s : State) (core u : Nat) (locs : List Loc) (e : QEntry) : State :=
  let q := ((s.core core).stream u).q
  writeElement (s.modCore core (fun c => c.setQueue q (c.queue q).pop)) core u locs e

/-- An element of another package: its request travels over Pertor, and a written entry with it, or it fails with no route (R256, R260). -/
def sendElement (s : State) (core u : Nat) (ag : Agent) (need : Need) (acc : Access) (ea : Word) (req : PhysReq) : State :=
  if (farRuns 0 acc.locs).any (fun r => !(s.routed r.1)) then withholdElement s core u 0x14 ea
  else
    (s.modCore core (fun c =>
      let x := c.stream u
      let c := c.setStream u { x with away := some s.nextId }
      if x.store then c.setQueue x.q ((c.queue x.q).lend u) else c)).sendFar core ((s.core core).stream u).owner
      ag need acc ea req (.element core u)

/-- What came back of an element is pushed, when its queue has room (R227, R256). -/
def landElement (s : State) (core u : Nat) : State :=
  let x := (s.core core).stream u
  match x.got with
  | none => s
  | some l =>
    if ((s.core core).queue x.q).isFull then s else pushElement s core u (ofBytes (l.map (·.1))) (l.any (·.2))

/-- The element passes its checks: a unit that withheld it runs again. -/
def elementPasses (s : State) (core u : Nat) : State :=
  s.modCore core (fun c => c.setStream u { c.stream u with state := .running })

/-- STREAM_ELEMENT: the unit checks and performs element NEXT, or tries a withheld one again. A register with RWS fields is closed to
it (00 R6). -/
def execStreamElement (core u : Nat) (s : State) : Out :=
  .next (let x := (s.core core).stream u
    if s.frozen.contains core || (s.core core).lows != [] || !x.busy then s
    else if x.got.isSome then landElement s core u
    else if x.away.isSome then s
    else
      let ea := x.addr x.next
      let w := sizeBytes x.esize
      let ag := unitAgent s core 0 (1 + u)
      let need := if x.store then needWrite else needRead
      match checkAccess s ag ea w need true with
      | .error (.trap c v) => withholdElement s core u c v
      | .error (.denied t un) => s.deny core t un need.rd need.wr
      | .ok acc =>
        if rwsBreach false need acc then withholdElement s core u PRIV 0
        else
          let qu := (s.core core).queue x.q
          if x.store then
            match if s.headSent core x.q then none else qu.head s.cyc with
            | none => elementPasses s core u
            | some e =>
              if e.tok.kind ≠ 0 then withholdElement s core u 0x0D ea
              else
                if acc.far.isSome then
                  sendElement s core u ag need acc ea (.write 0 ((toBytes w e.tok.data.toNat).map (·, e.tok.poison)))
                else popElement (commitAccess s ag need acc) core u acc.locs e
          else if qu.isFull then elementPasses s core u
          else
            if acc.far.isSome then sendElement s core u ag need acc ea (.read 0 w)
            else
              let s := commitAccess s ag need acc
              pushElement s core u (s.valueSeen acc.locs) (acc.poisoned s false))

/-- STREAM_FAULT_TIMEOUT: an element that still fails after 8,192 cycles stops its unit and traps the owner (R260). -/
def execStreamFaultTimeout (core u : Nat) (s : State) : Out :=
  .next (let x := (s.core core).stream u
    if x.state = .withholding ∧ x.fail + 8192 ≤ s.cyc ∧ x.away.isNone then
      let k := thrKey core x.owner
      let s := s.modCore core (fun c => c.setStream u { x with state := .stopped })
      s.raise k (mkFault s k x.cause 2 x.tval (word (u * 2 ^ 61 + x.next % 2 ^ 61)) (.stream core u))
    else s)

end Sys2Proof.Machine
end

