-- ==== Sys2Proof/Machine/Fibres.lean ====
section
/-! DEFINITION. The fibre block (09): stagings and their checks, graphs, edges with forks and spill, the decisions of
every unit, `cpe` slots, faults. A node is named by its key, 16 × UTYPE + UNIT. -/

namespace Sys2Proof.Machine

def stop0 : Nat := 4
def doneKind : Nat := 0xB
def absentRef : Nat := 0xFFFFFFFF
def cpeKey : Nat := 0x60

def nodeKey (utype unit : BitVec 4) : Nat := 16 * utype.toNat + unit.toNat
def srcOf (e : FEdgeF) : Nat := nodeKey e.srcType e.srcIdx
def dstOf (e : FEdgeF) : Nat := nodeKey e.dstType e.dstIdx

def emptyUnit : FUnit := { node := ⟨0, 0, 0, 0, 0, 0⟩ }
def Core.graph (c : Core) (gid : Nat) : FGraph := Tab.get {} c.graphs gid
def State.graph (s : State) (core gid : Nat) : FGraph := (s.core core).graph gid
def State.modGraph (s : State) (core gid : Nat) (f : FGraph → FGraph) : State :=
  s.modCore core (fun c =>
    match Tab.find c.graphs gid with
    | none => c
    | some g => { c with graphs := Tab.put c.graphs gid (f g) })
def FGraph.unit (g : FGraph) (key : Nat) : FUnit := Tab.get emptyUnit g.units key
def FGraph.modUnit (g : FGraph) (key : Nat) (f : FUnit → FUnit) : FGraph :=
  { g with units := Tab.put g.units key (f (g.unit key)) }
def State.unit (s : State) (core gid key : Nat) : FUnit := (s.graph core gid).unit key
def State.modUnit (s : State) (core gid key : Nat) (f : FUnit → FUnit) : State :=
  s.modGraph core gid (fun g => g.modUnit key f)

/-- The live graph that holds a node (R290). -/
def Core.holder (c : Core) (key : Nat) : Option Nat :=
  (c.graphs.find? (fun g => g.2.units.any (fun u => u.1 == key && !u.2.released))).map (·.1)

/-! ## Stagings (R285 to R288) -/

def Core.staging (c : Core) (t : Nat) : Staging := Tab.get {} c.stagings t
def State.modStaging (s : State) (core t : Nat) (f : Staging → Staging) : State :=
  s.modCore core (fun c => { c with stagings := Tab.put c.stagings t (f (c.staging t)) })

/-- A live graph or another thread's staging holds the node. -/
def Core.nodeBusy (c : Core) (t key : Nat) : Bool :=
  (c.holder key).isSome || c.stagings.any (fun e => e.1 != t && (Tab.find e.2.nodes key).isSome)

/-- The `fnode` of thread `t` takes the unit. -/
def enterNode (s : State) (core t : Nat) (n : FNode) : State :=
  s.modStaging core t (fun x => { x with nodes := Tab.put x.nodes (16 * n.utype + n.unit) n })

def fnodeOf (s : State) (d a b c : Reg) (utype unit : BitVec 4) : FNode :=
  ⟨utype.toNat, unit.toNat, s.rx d, s.rx a, s.rx b, s.rx c⟩

/-- Each `fnode` that holds is counted once. -/
def fnode (d a b c : Reg) (utype unit : BitVec 4) (s : State) : State :=
  let i : Instr := .fnode d a b c utype unit
  if s.myCore.nodeBusy s.cur.t (nodeKey utype unit) then
    let s := if s.me.held = some i then s else s.modStaging s.cur.m s.cur.t (fun x => { x with busy := x.busy + 1 })
    s.hold i
  else (enterNode s s.cur.m s.cur.t (fnodeOf s d a b c utype unit)).next

/-- A queue node names a declared queue, of direction `xa` where that is asked. -/
def State.queueNode (s : State) (utype unit : BitVec 4) (xa : Option Bool) (k : State) : State :=
  if utype = 5 then s.withQueue unit xa (fun _ => k) else k

/-- The parameter registers that `fnode` reads: the rank word only for an xa queue (R285). -/
def nodeReads (c : Core) (rs : List Reg) (utype unit : BitVec 4) : List Reg :=
  if utype = 5 ∧ !(c.queue unit.toNat).xa then [] else rs

def execFnode (d a b c : Reg) (utype unit : BitVec 4) (s : State) : Out :=
  .next (s.homeOnly (s.queueNode utype unit none
    (s.reading (nodeReads s.myCore [d, a, b, c] utype unit) (fnode d a b c utype unit s))))

def fedge (e : FEdgeF) (s : State) : State :=
  (s.modStaging s.cur.m s.cur.t (fun x =>
    if 48 ≤ x.edges.length then { x with overflow := true } else { x with edges := x.edges ++ [e] })).next

/-- The direction of a queue node is one of its own: a source is an xa queue, a sink an ax queue. -/
def State.edgeQueue (s : State) (utype unit : BitVec 4) (xa : Bool) (k : State) : State :=
  if utype = 5 then
    let q := s.myCore.queue unit.toNat
    if q.decl && q.xa == xa then k else s.trap ILLOP 0
  else k

def execFedge (e : FEdgeF) (s : State) : Out :=
  .next (s.homeOnly (s.edgeQueue e.srcType e.srcIdx true (s.edgeQueue e.dstType e.dstIdx false (fedge e s))))

/-! ### The checks of `fgo` -/

def Core.isSource (c : Core) (key : Nat) : Bool := key / 16 == 5 && (c.queue (key % 16)).xa

def rowsMode (n : FNode) : Bool := bit n.c 7
/-- The kinds a node emits (R283): 4 stands for rows. -/
def outKinds (n : FNode) : List Nat :=
  match n.utype with
  | 0 | 1 | 2 => [3]
  | 3 => [2]
  | 4 => if rowsMode n then [4] else [0]
  | _ => [0, 1, 2, 3]
/-- The element kinds an input port accepts (R283, R296). -/
def inKinds (n : FNode) (port : Nat) : List Nat :=
  match n.utype with
  | 0 => [2, 3]
  | 1 | 2 => [3]
  | 3 => if port = 0 then [2, 3] else [0, 1, 2, 3]
  | 4 => if bit n.c 3 then [1, 3] else [2, 3]
  | 6 => [4]
  | _ => [0, 1, 2, 3]

def stagedNode (x : Staging) (key : Nat) : FNode := Tab.get ⟨0, 0, 0, 0, 0, 0⟩ x.nodes key

/-- Input ports of a node: how many it has, and whether each must be fed. -/
def portsOf (c : Core) (key : Nat) : Nat :=
  if c.isSource key then 0 else if key / 16 = 1 ∨ key / 16 = 2 ∨ key / 16 = 3 then 2 else 1

def edgesInto (x : Staging) (key port : Nat) : List FEdgeF :=
  x.edges.filter (fun e => (dstOf e) == key && e.dstPort.toNat == port)
def edgesFrom (l : List FEdgeF) (key port : Nat) : List FEdgeF :=
  l.filter (fun e => (srcOf e) == key && e.srcPort.toNat == port)

/-- Nodes all of whose sources are in order already follow. -/
def orderRound (x : Staging) (done : List Nat) : List Nat :=
  done ++ (x.nodes.map (·.1)).filter (fun k =>
    !(done.contains k) && (x.edges.filter (fun e => (dstOf e) == k)).all (fun e => done.contains (srcOf e)))
def orderRounds (x : Staging) : Nat → List Nat
  | 0 => []
  | n + 1 => orderRound x (orderRounds x n)
def nodeOrder (x : Staging) : List Nat := orderRounds x x.nodes.length

/-- The output rank of a node from the ranks of its inputs; none where R283 and R284 refuse it. -/
def rankOut (c : Core) (n : FNode) (r0 r1 : Option Nat) : Option Nat :=
  let small (r : Nat) : Option Nat := if r < 8 then some r else none
  match n.utype with
  | 0 => small (r0.getD 0 + 1)
  | 1 | 2 => if r0 = r1 ∧ 1 ≤ r0.getD 0 then r0 else none
  | 3 => if r1 = some (r0.getD 0 + 1) then r1 else none
  | 5 => if (c.queue n.unit).xa then some (bits n.a 2 0) else some 0
  | 6 => if 1 ≤ r0.getD 0 then some 0 else none
  | _ => r0

/-- Ranks of input ports, keyed by 4 × node + port, in the order of the edges; none where one is refused (R284). -/
def rankAll (c : Core) (x : Staging) : List Nat → Tab Nat → Option (Tab Nat)
  | [], t => some t
  | k :: l, t =>
    match rankOut c (stagedNode x k) (Tab.find t (4 * k)) (Tab.find t (4 * k + 1)) with
    | none => none
    | some r =>
      rankAll c x l ((x.edges.filter (fun e => (srcOf e) == k)).foldl
        (fun t e => Tab.put t (4 * (dstOf e) + e.dstPort.toNat) r) t)

/-- The parameters keep R286. -/
def paramsOk (c : Core) (n : FNode) : Bool :=
  match n.utype with
  | 0 => bits n.d 63 40 == 0 && bits n.c 63 7 == 0 && bits n.c 6 4 != 7 && bits n.c 3 1 == 0 &&
      (!(bit n.c 0) || (bits n.a 63 32 == 0 && n.b == 0))
  | 4 => bits n.c 63 8 == 0 && bits n.c 6 4 != 7 && (!(rowsMode n) || bits n.c 2 0 == 0)
  | 5 => !((c.queue n.unit).xa) || bits n.a 63 3 == 0
  | 6 => bits n.c 63 11 == 0 && bits n.c 7 3 == 0 && (c.ring (bits n.c 2 0)).decl
  | _ => true

/-- The reason for which `fgo` refuses a staging, or the ranks (R288). -/
def stagingCheck (c : Core) (x : Staging) : Except Nat (Tab Nat) :=
  let keys := x.nodes.map (·.1)
  let staged (k : Nat) : Bool := keys.contains k
  if x.overflow then .error 8
  else if !(x.edges.all (fun e => staged (srcOf e) && staged (dstOf e))) then .error 1
  else if keys.any (fun k => (List.range (portsOf c k)).any (fun p =>
      let n := (edgesInto x k p).length
      1 < n || (n == 0 && k / 16 != 0))) then .error 2
  else if x.edges.any (fun e => 4 < (edgesFrom x.edges (srcOf e) e.srcPort.toNat).length) then .error 3
  else if x.edges.any (fun e =>
      !((outKinds (stagedNode x (srcOf e))).any (fun k => (inKinds (stagedNode x (dstOf e)) e.dstPort.toNat).contains k))) ||
      x.nodes.any (fun n => n.2.utype == 4 && rowsMode n.2 && !(x.edges.any (fun e => (srcOf e) == n.1))) then .error 4
  else if (nodeOrder x).length < keys.length then .error 6
  else
    match rankAll c x (nodeOrder x) [] with
    | none => .error 5
    | some t => if x.nodes.any (fun n => !(paramsOk c n.2)) then .error 7 else .ok t

/-- The staging becomes live graph `gid`. -/
def commitGraph (s : State) (core t gid : Nat) (x : Staging) (ranks : Tab Nat) : State :=
  let unit (k : Nat) (n : FNode) : FUnit :=
    { node := n, rank := [(0, Tab.get 0 ranks (4 * k)), (1, Tab.get 0 ranks (4 * k + 1))] }
  let g : FGraph :=
    { owner := t, units := x.nodes.map (fun e => (e.1, unit e.1 e.2)),
      edges := x.edges.map (fun e => { e := e, moved := s.cyc }), busy := x.busy, moved := s.cyc }
  s.modCore core (fun c => { c with graphs := Tab.put c.graphs gid g, stagings := Tab.del c.stagings t })

def fgo (d : Reg) (gid : BitVec 8) (s : State) : State :=
  let c := s.myCore
  let x := c.staging s.cur.t
  if (Tab.find c.graphs gid.toNat).isSome then s.result d 1
  else if x.nodes == [] && x.edges == [] && !x.overflow then s.result d 3
  else
    match stagingCheck c x with
    | .error r => s.result d (word (2 + 256 * r))
    | .ok t =>
      if 16 ≤ c.graphs.length then s.hold (.fgo d gid)
      else (commitGraph s s.cur.m s.cur.t gid.toNat x t).result d 0

def execFgo (d : Reg) (gid : BitVec 8) (s : State) : Out := .next (s.homeOnly (fgo d gid s))

/-! ## Status, end and kill (R289 to R292) -/

def FGraph.status (g : FGraph) (state : Nat) : Word := word (state * 2 ^ 62 + g.named + min g.busy 0xFFF)

/-- The fault that stopped a graph has been delivered to its owner. -/
def State.graphTold (s : State) (core gid : Nat) (g : FGraph) : Bool :=
  g.stopped && !g.dying && !((s.thr (thrKey core g.owner)).waiting.any (fun f => f.retry == .graph core gid))

/-- A graph stopped by a fault has STATE 2 once the fault is delivered; until then the thread waits. -/
def fwait (d : Reg) (gid : BitVec 8) (s : State) : State :=
  match Tab.find s.myCore.graphs gid.toNat with
  | none => s.result d (Tab.get (word (3 * 2 ^ 62)) s.myCore.fstatus gid.toNat)
  | some g => if s.graphTold s.cur.m gid.toNat g then s.result d (g.status 2) else s.hold (.fwait d gid)

def execFwait (d : Reg) (gid : BitVec 8) (s : State) : Out := .next (s.homeOnly (fwait d gid s))

/-- The low-water slot of a scanner or gather (12 R392). -/
def windowSlot (key : Nat) : Option Nat :=
  if key / 16 = 0 then some (8 + key % 16) else if key / 16 = 4 then some (16 + key % 16) else none

/-- A unit's window is rewritten when LO enters a new page, or when it would not cover what is still read (12 R393). -/
def openWindow (s : State) (core gid key : Nat) (lo hi : Word) : State :=
  let fresh := match (s.unit core gid key).win with
    | none => true
    | some (l, h) => l.toNat / 4096 != lo.toNat / 4096 || lo.toNat < l.toNat || h != hi
  match windowSlot key, fresh with
  | some u, true =>
    (s.lowWater core ⟨u, lo, hi, true, handleJob (s.core core).home⟩).modUnit core gid key (fun x => { x with win := some (lo, hi) })
  | _, _ => s

def closeWindow (s : State) (core gid key : Nat) : State :=
  match windowSlot key, (s.unit core gid key).win with
  | some u, some (lo, hi) =>
    (s.lowWater core ⟨u, lo, hi, false, handleJob (s.core core).home⟩).modUnit core gid key (fun x => { x with win := none })
  | _, _ => s

/-- The graph is no longer live, with STATE `state`. -/
def endGraph (s : State) (core gid state : Nat) : State :=
  s.modCore core (fun c =>
    { c with fstatus := Tab.put c.fstatus gid ((c.graph gid).status state), graphs := Tab.del c.graphs gid })

/-- An `fnode` that held on the unit in this very cycle takes it, with no hold counted (R311). Where an older one holds on it, they all try
again in the next cycle, and the lowest-numbered thread takes it: DESIGN CHOICE, log 38. -/
def takeFreed (s : State) (core key : Nat) : State :=
  let wants (t : Nat) : Option FNode :=
    let th := s.thr (thrKey core t)
    match th.held with
    | some (.fnode d a b c ut un) =>
      if nodeKey ut un = key then some ⟨ut.toNat, un.toNat, th.reg d, th.reg a, th.reg b, th.reg c⟩ else none
    | _ => none
  let waiting := (List.range 4).filter (fun t => (wants t).isSome)
  if waiting.any (fun t => (s.thr (thrKey core t)).heldFrom != s.cyc) then s
  else
    match waiting with
    | [] => s
    | t :: _ =>
      match wants t with
      | none => s
      | some n =>
        ((enterNode s core t n).modStaging core t (fun x => { x with busy := x.busy - 1 })).modThr (thrKey core t)
          (fun th => { th with held := none, pc := th.pc + 8 })

/-- A node is released; with the last one the graph is complete (R290). -/
def releaseNode (s : State) (core gid key : Nat) : State :=
  let s := (closeWindow s core gid key).modUnit core gid key (fun u => { u with released := true })
  let s := if (s.graph core gid).units.all (fun u => u.2.released) then endGraph s core gid 0 else s
  takeFreed s core key

/-- Bytes of the open slot of `cpe` that have not been delivered. -/
def FUnit.owed (u : FUnit) (payload : Nat) : Nat :=
  if u.slotId = 0 then 0 else 256 + (64 - u.rows) * (payload / 64)

/-- PEND of the owner's token (R297). -/
def addPend (s : State) (core gid : Nat) (u : FUnit) (n : Int) : State :=
  s.modThr (thrKey core (s.graph core gid).owner) (fun th =>
    let k := bits u.node.c 10 8
    let t := th.token k
    th.setToken k { t with pend := ((t.pend : Int) + n).toNat })

def cpePayload (c : Core) (u : FUnit) : Nat := slotBytes (c.ring (bits u.node.c 2 0)).slot

/-- The offset of the open slot of `cpe`, or of the one it would open with order `id` (R248). -/
def cpeSlot (c : Core) (u : FUnit) (id : Nat) : Nat × Nat :=
  let r := c.ring (bits u.node.c 2 0)
  let n := copiesBefore c c.home (bits u.node.c 2 0) id
  (n, r.slotAt ((r.tail + n) % r.depth))

/-- The ring has the slot that `cpe` fills, with order `id` (R297). -/
def cpeFits (c : Core) (u : FUnit) (id : Nat) : Bool :=
  let r := c.ring (bits u.node.c 2 0)
  r.count + (cpeSlot c u id).1 < r.depth

/-- The slot that `cpe` has open stays unpublished: PEND falls by its bytes, and its contents are undefined. -/
def dropSlot (s : State) (core gid : Nat) (u : FUnit) : State :=
  if u.released ∨ u.slotId = 0 then s
  else
    let P := cpePayload (s.core core) u
    let lo := u.tileAt.getD (cpeSlot (s.core core) u u.slotId).2
    (addPend s core gid u (-(u.owed P : Int))).modCore core (fun c =>
      { c with sundef := (lo, lo + 256 + P) :: cutInterval c.sundef lo (lo + 256 + P) })

/-- A killed graph, no read of which is outstanding, releases its nodes (R291). -/
def buryGraph (s : State) (core gid : Nat) : State :=
  match Tab.find (s.core core).graphs gid with
  | none => s
  | some g =>
    let s := match Tab.find g.units cpeKey with
      | some u => dropSlot s core gid u
      | none => s
    let s := g.units.foldl (fun s e => closeWindow s core gid e.1) s
    let s := endGraph s core gid 1
    g.units.foldl (fun s e => if e.2.released then s else takeFreed s core e.1) s

/-- A live graph is killed (R291): its tokens and its undelivered fault are discarded, and its nodes are released once no read is
outstanding. -/
def killGraph (s : State) (core gid : Nat) : State :=
  match Tab.find (s.core core).graphs gid with
  | none => s
  | some g =>
    let s := s.modThr (thrKey core g.owner) (fun th =>
      { th with waiting := th.waiting.filter (fun f => f.retry != .graph core gid) })
    if g.units.any (fun e => e.2.away.isSome) then
      s.modGraph core gid (fun g =>
        { g with stopped := true, dying := true, edges := g.edges.map (fun e => { e with fifo := [] }) })
    else buryGraph s core gid

def execFkill (gid : BitVec 8) (s : State) : Out := .next (s.homeOnly (killGraph s s.cur.m gid.toNat).next)

/-- The graph continues from its checkpoint (R292, 13 R414). -/
def resumeGraph (s : State) (core gid : Nat) : State :=
  match Tab.find (s.core core).graphs gid with
  | none => s
  | some g =>
    if g.stopped ∧ !g.dying then
      s.modGraph core gid (fun g =>
        { g with stopped := false, moved := s.cyc, units := g.units.map (fun e => (e.1, { e.2 with fault := none, stuck := 0 })) })
    else s

def execFresume (gid : BitVec 8) (s : State) : Out := .next (s.homeOnly (resumeGraph s s.cur.m gid.toNat).next)

/-! ## Edges (R299, R300) -/

def FEdge.spilled (e : FEdge) : Nat := e.fifo.length - 8
def FGraph.reserve (g : FGraph) : Nat := (g.edges.map FEdge.spilled).sum
/-- The edges that a port feeds. -/
def FGraph.fed (g : FGraph) (key port : Nat) : List FEdge :=
  g.edges.filter (fun e => (srcOf e.e) == key && e.e.srcPort.toNat == port)
/-- Every edge of the port accepts a token, as a spill where R300 admits it. -/
def FGraph.accepts (g : FGraph) (key port : Nat) : Bool :=
  let l := g.fed key port
  let full := (l.filter (fun e => 8 ≤ e.fifo.length)).length
  full == 0 || (g.reserve + full ≤ 120 && l.any (fun e => e.fifo == []))
/-- A full edge of the port holds back the producer while another is empty (R301). -/
def FGraph.skewed (g : FGraph) (key port : Nat) : Bool :=
  !(g.accepts key port) && (g.fed key port).any (fun e => e.fifo == [])

/-- A token emitted: one on every edge of the port (R299). -/
def emitToken (s : State) (core gid key port : Nat) (t : Tok) : State :=
  s.modGraph core gid (fun g =>
    { g with moved := s.cyc, edges := g.edges.map (fun e =>
        if (srcOf e.e) = key ∧ e.e.srcPort.toNat = port then { e with fifo := e.fifo ++ [{ tok := t, ready := s.cyc + 1 }] } else e) })

/-- A decision is taken when every port it emits on accepts; otherwise the unit holds. -/
def withRoom (s : State) (core gid key : Nat) (ports : List Nat) (k : State) : State :=
  let g := s.graph core gid
  if ports.all (g.accepts key) then k.modGraph core gid (fun g => g.modUnit key (fun u => { u with stuck := 0 }))
  else
    s.modUnit core gid key (fun u =>
      { u with stuck := if ports.any (g.skewed key) then (if u.stuck = 0 then s.cyc + 1 else u.stuck) else 0 })

/-- The edge into an input port. -/
def FGraph.into (g : FGraph) (key port : Nat) : Option FEdge :=
  g.edges.find? (fun e => (dstOf e.e) == key && e.e.dstPort.toNat == port)

/-- The head token of an input port; an unconnected scanner has the root stream (R293). -/
def headToken (s : State) (core gid key port : Nat) : Option Tok :=
  let g := s.graph core gid
  match g.into key port with
  | some e => (e.fifo.head?).bind (fun x => if x.ready ≤ s.cyc then some x.tok else none)
  | none =>
    let u := g.unit key
    if Tab.get 0 u.idx port = 0 then some ⟨2, false, word (bits u.node.d 39 0)⟩
    else some ⟨BitVec.ofNat 4 doneKind, false, 0⟩

/-- The head of an input port is popped. -/
def popToken (s : State) (core gid key port : Nat) (t : Tok) : State :=
  s.modGraph core gid (fun g =>
    let g := g.modUnit key (fun u =>
      let k := t.kind.toNat
      { u with idx := Tab.put u.idx port (Tab.get 0 u.idx port + 1)
               prev := Tab.put u.prev port k
               kinds := if k < 4 then Tab.put u.kinds port (k + 1) else u.kinds
               got := [] })
    { g with moved := s.cyc, edges := g.edges.map (fun e =>
        if (dstOf e.e) = key ∧ e.e.dstPort.toNat = port then { e with fifo := e.fifo.tail, moved := s.cyc } else e) })

/-! ## Checks and faults (R306 to R308) -/

/-- The word of R308. -/
def fibreWord (gid key port index : Nat) : Word :=
  word (gid * 2 ^ 56 + key * 2 ^ 48 + port * 2 ^ 46 + index % 2 ^ 40)

/-- A unit withholds the token it serves. A cause that names no address has the word of R308 in TVAL. -/
def failUnit (s : State) (core gid key port cause : Nat) (tval : Option Word) (retry : Bool) (ea : Word := 0) : State :=
  s.modUnit core gid key (fun u =>
    { u with stuck := 0, away := none,
             fault := some { since := s.cyc, cause, port, retry, ea,
                             tval := tval.getD (fibreWord gid key port (Tab.get 0 u.idx port)) } })

/-- A token breaks the grammar of R282 or the kinds of R283 at its port. -/
def malformedToken (u : FUnit) (port : Nat) (t : Tok) : Bool :=
  let k := t.kind.toNat
  let rank := Tab.get 0 u.rank port
  let prev := Tab.get 15 u.prev port
  let n := Tab.get 0 u.idx port
  if k < 4 then
    !((inKinds u.node port).contains k) || (Tab.get 0 u.kinds port != 0 && Tab.get 0 u.kinds port != k + 1) ||
      (rank == 0 && n != 0)
  else if k < doneKind then rank ≤ k - 4
  else if k = doneKind then (if rank = 0 then n != 1 || 4 ≤ prev else prev != 3 + rank)
  else true

/-- What is wrong with a head before any decision: a poisoned stop or DONE, or a malformed token. -/
def headFault (u : FUnit) (port : Nat) (t : Tok) : Option Nat :=
  if 4 ≤ t.kind.toNat ∧ t.poison then some 0x09 else if malformedToken u port t then some 0x0D else none

/-- The head of a port, once it has passed the checks made before any decision. -/
def withHead (s : State) (core gid key port : Nat) (k : Tok → State) : State :=
  match headToken s core gid key port with
  | none => s
  | some t =>
    match headFault (s.unit core gid key) port t with
    | some c => failUnit s core gid key port c none false
    | none => k t

/-- Who a fibre unit reads for (12 R377): a scanner or gather carries its graph's GID; `cpe` has the rights of the copy engine. -/
def fibreAgent (s : State) (core gid key : Nat) : Agent :=
  if key = cpeKey then { unitAgent s core 0 0 with restricted := false }
  else unitAgent s core gid (if key / 16 = 0 then 16 + key % 16 else 32 + key % 16)

/-- Bytes that a unit has read are kept until its token is done (R304). -/
def keepRead (s : State) (core gid key : Nat) (ea : Word) (d : List PByte) : State :=
  s.modUnit core gid key (fun u => { u with got := (ea.toNat, d) :: u.got.filter (fun e => e.1 != ea.toNat) })

/-- A read by a unit (R304, R305): what has been read already, or the bytes of this package with their poison. A core that the store of a
low-water record has frozen makes none (12 R389). -/
def unitRead (s : State) (core gid key : Nat) (ea : Word) (n : Nat) (align : Bool) (k : State → List PByte → State) :
    State :=
  if s.frozen.contains core then s
  else
  match (s.unit core gid key).got.find? (fun e => e.1 == ea.toNat) with
  | some e => k s e.2
  | none =>
    let ag := fibreAgent s core gid key
    match checkAccess s ag ea n needRead align with
    | .error (.trap c v) => failUnit s core gid key 0 c (some v) true ea
    | .error (.denied t u) => s.deny core t u true false
    | .ok acc =>
      if acc.far.isSome then
        if (farRuns 0 acc.locs).any (fun r => !(s.routed r.1)) then failUnit s core gid key 0 0x14 (some ea) false
        else
          (s.modUnit core gid key (fun u => { u with away := some s.nextId })).sendFar core (s.graph core gid).owner ag needRead acc ea
            (.read 0 n) (.token core gid key)
      else k (commitAccess s ag needRead acc) (s.readP acc.locs)

def bytesOf (l : List PByte) : Nat := ofBytes (l.map (·.1))
def anyBad (l : List PByte) : Bool := l.any (·.2)

/-- The bits [61:12] of the status word for a unit's fault (R289). -/
def faultName (key : Nat) (u : FUnit) (f : UFault) : Nat :=
  key / 16 * 2 ^ 58 + key % 16 * 2 ^ 54 + f.port * 2 ^ 52 + Tab.get 0 u.idx f.port % 2 ^ 40 * 2 ^ 12

/-- At a checkpoint read-ahead is discarded, what is under way as well (R292, R307); `cpe` keeps the chunk it reads. -/
def FGraph.halt (g : FGraph) : FGraph :=
  { g with stopped := true
           units := g.units.map (fun e => (e.1, if e.1 = cpeKey then e.2 else { e.2 with away := none, got := [] })) }

/-- The graph stops at its checkpoint, and its owner's trap waits for the next boundary (R307). -/
def stopGraph (s : State) (core gid cause : Nat) (tval detail : Word) (named : Nat) : State :=
  let k := thrKey core (s.graph core gid).owner
  let s := s.modGraph core gid (fun g => { g.halt with named := named })
  s.raise k (mkFault s k cause 3 tval detail (.graph core gid))

/-- A fault that has reached its end: at once, or after 8,192 cycles. -/
def UFault.ripe (f : UFault) (cyc : Nat) : Bool := !f.retry || f.since + 8192 ≤ cyc

/-- The lowest unit with such a fault is the one reported. -/
def checkpoint (s : State) (core gid : Nat) : State :=
  let g := s.graph core gid
  match g.units.find? (fun e => !e.2.released && e.2.fault.any (fun f => f.ripe s.cyc)) with
  | none => s
  | some (key, u) =>
    match u.fault with
    | none => s
    | some f =>
      stopGraph s core gid f.cause f.tval (fibreWord gid key f.port (Tab.get 0 u.idx f.port)) (faultName key u f)

/-- GRAPH_SKEW: a fork held back for 4,096 cycles, in which no token left the full edge (R301). -/
def FGraph.skewAt (g : FGraph) (cyc key : Nat) : Bool :=
  let u := g.unit key
  u.stuck != 0 && u.fault.isNone && u.stuck + 4096 ≤ cyc + 1 &&
    (List.range 2).any (fun p => g.skewed key p &&
      (g.fed key p).any (fun e => 8 ≤ e.fifo.length && e.moved + 4096 ≤ cyc))

/-- The units whose forks are held back have their faults, and the graph comes to its checkpoint when one is due: of several in one cycle
the lowest unit's is reported (R307). -/
def judgeGraph (s : State) (core gid : Nat) : State :=
  match Tab.find (s.core core).graphs gid with
  | none => s
  | some g =>
    if g.stopped then s
    else
      checkpoint (g.units.foldl (fun s e =>
        if !e.2.released && g.skewAt s.cyc e.1 then failUnit s core gid e.1 0 0x0E none false else s) s) core gid

/-- FIBRE_FAULT_TIMEOUT: a withheld fault brings its graph to the checkpoint. -/
def execFibreFaultTimeout (core gid : Nat) (s : State) : Out := .next (judgeGraph s core gid)

def execGraphSkew (core gid : Nat) (s : State) : Out := .next (judgeGraph s core gid)

/-- The conditions under which a graph without movement is stalled (R303). -/
def graphQuiet (s : State) (core gid : Nat) : Bool :=
  let c := s.core core
  (s.graph core gid).units.all (fun e =>
    e.2.released ||
    (e.2.fault.isNone &&
      (if e.1 / 16 = 5 then
        (if (c.queue (e.1 % 16)).xa then ((c.queue (e.1 % 16)).head s.cyc).isSome else !((c.queue (e.1 % 16)).isFull))
       else if e.1 = cpeKey then
         cpeFits c e.2 (if e.2.slotId = 0 then s.nextId else e.2.slotId)
       else true)))

def execGraphStall (core gid : Nat) (s : State) : Out :=
  .next (match Tab.find (s.core core).graphs gid with
    | none => s
    | some g =>
      if g.stopped ∨ s.cyc < g.moved + 1048576 then s
      else stopGraph s core gid 0x0F (fibreWord gid 0 0 0) (fibreWord gid 0 0 0) 0)

/-! ## Decisions -/

/-- The unit has neither moved on nor sent a read since it was `u`. -/
def FUnit.holdsAs (x u : FUnit) : Bool := { x with stuck := 0, win := none } == { u with fault := none, stuck := 0, win := none }

/-- A unit of type `utype` that can decide: in a running graph of a core that is not frozen, with no fault that ends
retries. `serves`: the decision concerns this unit. The first failure of a read that fails again stands, and a fault stays while the unit
holds (R307). -/
def takeDecision (s : State) (core key : Nat) (serves : FUnit → Bool) (body : State → Nat → FUnit → State) : State :=
  match (s.core core).holder key with
  | none => s
  | some gid =>
    let u := s.unit core gid key
    if (s.graph core gid).stopped || s.frozen.contains core || (s.core core).lows != [] || u.away.isSome || !(serves u) || u.fault.any (fun f => !f.retry) then s
    else
      let s' := body (s.modUnit core gid key (fun u => { u with fault := none })) gid { u with fault := none }
      match u.fault, (s'.unit core gid key).fault with
      | some old, some f =>
        if f.retry ∧ f.ea = old.ea then s'.modUnit core gid key (fun u => { u with fault := some { f with since := old.since } })
        else s'
      | some old, none =>
        if (s'.unit core gid key).holdsAs u then s'.modUnit core gid key (fun u => { u with fault := some old }) else s'
      | _, _ => s'

def stopTok (k : Nat) : Tok := ⟨BitVec.ofNat 4 (stop0 + k), false, 0⟩
def doneTok : Tok := ⟨BitVec.ofNat 4 doneKind, false, 0⟩
/-- A stop or DONE as a unit writes it (R281). -/
def Tok.bare (t : Tok) : Tok := { t with data := 0 }
/-- PAIR of a coordinate and a reference (R281). -/
def pairTok (c r : Nat) (poison : Bool) : Tok := ⟨3, poison, word (r * 2 ^ 32 + c % 2 ^ 32)⟩
/-- The reference of a REF or PAIR. -/
def Tok.ref (t : Tok) : Nat := if t.kind = 3 then bits t.data 63 32 else bits t.data 39 0
def Tok.crd (t : Tok) : Nat := bits t.data 31 0

/-! ### Scanners (R293) -/

/-- One emission of the current fibre, or its end. -/
def scanFibre (s : State) (core gid key : Nat) (h : Tok) (u : FUnit) : State :=
  let dense := bit u.node.c 0
  let fin (s : State) (p : Nat) : State :=
    if u.hi ≤ p then
      (popToken s core gid key 0 h).modUnit core gid key (fun u => { u with active := false, pending := true })
    else s.modUnit core gid key (fun u => { u with p := p, got := [] })
  if u.hi ≤ u.p then fin s u.p
  else
    let give (s : State) (c q : Nat) (psn : Bool) : State :=
      if absentRef ≤ q then failUnit s core gid key 0 0x0D none false
      else fin (emitToken s core gid key 0 (pairTok c q psn)) (u.p + 1)
    withRoom s core gid key [0]
      (if dense then give s u.p (u.r * u.hi + u.p) false
       else
         let ea := u.node.b + word (4 * u.p)
         unitRead (openWindow s core gid key ea (u.node.b + word (4 * u.hi) - 1)) core gid key ea 4 true
           (fun s d => give s (bytesOf d) u.p (anyBad d)))

/-- The fibre [lo, hi) of a reference begins. -/
def beginFibre (s : State) (core gid key : Nat) (h : Tok) (r lo hi : Nat) : State :=
  if hi < lo then failUnit s core gid key 0 0x0D none false
  else
    let f (u : FUnit) : FUnit := { u with active := true, r := r, p := lo, hi := hi, got := [] }
    let s := s.modUnit core gid key f
    scanFibre s core gid key h (s.unit core gid key)

/-- The fibre of an element at the head. A poisoned ptr read counts among the causes that name no address (R308): DESIGN CHOICE, log 38. -/
def scanElement (s : State) (core gid key : Nat) (h : Tok) (u : FUnit) : State :=
  if h.poison then failUnit s core gid key 0 0x09 none false
  else
    let r := h.ref
    if h.kind = 3 ∧ r = absentRef then beginFibre s core gid key h r 0 0
    else if bit u.node.c 0 then beginFibre s core gid key h r 0 (bits u.node.a 31 0)
    else
      let at_ (i : Nat) : Word := u.node.a + word (4 * i)
      unitRead s core gid key (at_ r) 4 true (fun s d =>
        if anyBad d then failUnit s core gid key 0 0x09 none false
        else
          unitRead (keepRead s core gid key (at_ r) d) core gid key (at_ (r + 1)) 4 true (fun s e =>
            if anyBad e then failUnit s core gid key 0 0x09 none false
            else beginFibre s core gid key h r (bytesOf d) (bytesOf e)))

def execScannerDecision (core u : Nat) (s : State) : Out :=
  .next (takeDecision s core u (fun _ => true) (fun s gid x =>
    let key := u
    withHead s core gid key 0 (fun h =>
      let k := h.kind.toNat
      if x.active then scanFibre s core gid key h x
      else if x.pending ∧ (k < 4 ∨ k = doneKind) then
        withRoom s core gid key [0]
          ((emitToken s core gid key 0 (stopTok 0)).modUnit core gid key (fun u => { u with pending := false }))
      else if k < 4 then scanElement s core gid key h x
      else
        withRoom s core gid key [0]
          (let s := emitToken (popToken s core gid key 0 h) core gid key 0 (if k = doneKind then doneTok else stopTok (k - 3))
           let s := s.modUnit core gid key (fun u => { u with pending := false })
           if k = doneKind then releaseNode s core gid key else s))))

/-! ### Sieves and whisks (R294) -/

/-- An element at the head of port `p`: POISON, then the order of coordinates. -/
def badElement (u : FUnit) (p : Nat) (h : Tok) : Option Nat :=
  if 4 ≤ h.kind.toNat then none
  else if h.poison then some 0x09
  else if h.crd + 1 ≤ Tab.get 0 u.last p then some 0x0D
  else none

def setLast (s : State) (core gid key p : Nat) (c : Nat) : State :=
  s.modUnit core gid key (fun u => { u with last := Tab.put u.last p (c + 1) })

/-- One side lacks the coordinate: the other is popped; a whisk emits it beside an absent reference. -/
def oneSide (s : State) (core gid key : Nat) (whisk : Bool) (p : Nat) (h : Tok) : State :=
  let take (s : State) : State := setLast (popToken s core gid key p h) core gid key p h.crd
  if whisk then
    withRoom s core gid key [0, 1]
      (take (emitToken (emitToken s core gid key p h) core gid key (1 - p) (pairTok h.crd absentRef false)))
  else take s

def mergeDecision (whisk : Bool) (s : State) (core gid key : Nat) (x : FUnit) : State :=
  withHead s core gid key 0 (fun h0 =>
    match headToken s core gid key 1, badElement x 0 h0 with
    | none, _ => s
    | _, some c => failUnit s core gid key 0 c none false
    | _, none => withHead s core gid key 1 (fun h1 =>
    match badElement x 1 h1 with
    | some c => failUnit s core gid key 1 c none false
    | none =>
      let e0 := h0.kind.toNat < 4
      let e1 := h1.kind.toNat < 4
      let done (h : Tok) : Bool := h.kind.toNat == doneKind
      let both (s : State) (o0 o1 : Tok) : State :=
        popToken (popToken (emitToken (emitToken s core gid key 0 o0) core gid key 1 o1) core gid key 0 h0) core gid key 1 h1
      if (done h0 || done h1) && h0.kind != h1.kind then failUnit s core gid key 1 0x0D none false
      else if e0 ∧ e1 ∧ h0.crd = h1.crd then
        withRoom s core gid key [0, 1] (setLast (setLast (both s h0 h1) core gid key 0 h0.crd) core gid key 1 h1.crd)
      else if e0 ∧ (!e1 ∨ h0.crd < h1.crd) then oneSide s core gid key whisk 0 h0
      else if e1 then oneSide s core gid key whisk 1 h1
      else if h0.kind ≠ h1.kind then failUnit s core gid key 1 0x0D none false
      else
        withRoom s core gid key [0, 1]
          (let s := (both s h0.bare h1.bare).modUnit core gid key (fun u => { u with last := [] })
           if done h0 then releaseNode s core gid key else s)))

def execSieveDecision (core u : Nat) (s : State) : Out :=
  .next (takeDecision s core (0x10 + u) (fun _ => true) (fun s gid x => mergeDecision false s core gid (0x10 + u) x))
def execWhiskDecision (core u : Nat) (s : State) : Out :=
  .next (takeDecision s core (0x20 + u) (fun _ => true) (fun s gid x => mergeDecision true s core gid (0x20 + u) x))

/-! ### Repeaters (R295) -/

def setHave (s : State) (core gid key : Nat) (have_ : Bool) (r : Nat) : State :=
  s.modUnit core gid key (fun u => { u with have_ := have_, r := r })

/-- HAVE = 0. -/
def repeaterTake (s : State) (core gid key : Nat) : State :=
  withHead s core gid key 0 (fun h0 =>
    if h0.kind.toNat < 4 then
      if h0.poison then failUnit s core gid key 0 0x09 none false
      else setHave (popToken s core gid key 0 h0) core gid key true h0.ref
    else
      withHead s core gid key 1 (fun h1 =>
        if h0.kind.toNat = doneKind ∧ h1.kind.toNat = doneKind then
          withRoom s core gid key [0]
            (releaseNode (emitToken (popToken (popToken s core gid key 0 h0) core gid key 1 h1) core gid key 0 doneTok)
              core gid key)
        else failUnit s core gid key 1 0x0D none false))

/-- HAVE = 1. -/
def repeaterGive (s : State) (core gid key : Nat) (x : FUnit) : State :=
  withHead s core gid key 1 (fun h1 =>
    let k := h1.kind.toNat
    if k < 4 then
      withRoom s core gid key [0]
        (emitToken (popToken s core gid key 1 h1) core gid key 0 ⟨2, h1.poison, word (x.r % 2 ^ 40)⟩)
    else if k = stop0 then
      withRoom s core gid key [0]
        (setHave (emitToken (popToken s core gid key 1 h1) core gid key 0 (stopTok 0)) core gid key false 0)
    else if k = doneKind then failUnit s core gid key 1 0x0D none false
    else
      withHead s core gid key 0 (fun h0 =>
        if h0.kind.toNat + 1 = k then
          withRoom s core gid key [0]
            (setHave (emitToken (popToken (popToken s core gid key 0 h0) core gid key 1 h1) core gid key 0
              (stopTok (k - stop0))) core gid key false 0)
        else failUnit s core gid key 1 0x0D none false))

def execRepeaterDecision (core u : Nat) (s : State) : Out :=
  .next (takeDecision s core (0x30 + u) (fun _ => true) (fun s gid x =>
    if x.have_ then repeaterGive s core gid (0x30 + u) x else repeaterTake s core gid (0x30 + u)))

/-! ### Gathers (R296, R297) -/

/-- The key of an element, the address it selects, and whether the element is an absent reference. -/
def gatherKey (u : FUnit) (h : Tok) : Nat := if bit u.node.c 3 then h.crd else h.ref
def gatherAddr (u : FUnit) (h : Tok) : Word := u.node.a + word (gatherKey u h) * u.node.b
def gatherAbsent (u : FUnit) (h : Tok) : Bool := h.kind == 3 && !(bit u.node.c 3) && gatherKey u h == absentRef

def gatherWidth (u : FUnit) : Nat := 2 ^ bits u.node.c 1 0

def execGatherDecision (core u : Nat) (s : State) : Out :=
  .next (let key := 0x40 + u
    takeDecision s core key (fun x => !(rowsMode x.node)) (fun s gid x =>
        withHead s core gid key 0 (fun h =>
          if 4 ≤ h.kind.toNat then
            withRoom s core gid key [0]
              (let s := emitToken (popToken s core gid key 0 h) core gid key 0 h.bare
               if h.kind.toNat = doneKind then releaseNode s core gid key else s)
          else if h.poison then failUnit s core gid key 0 0x09 none false
          else
            let give (s : State) (v : Word) (psn : Bool) : State :=
              emitToken (popToken s core gid key 0 h) core gid key 0 ⟨0, psn, v⟩
            withRoom s core gid key [0]
              (if gatherAbsent x h then give s 0 false
               else
                 let ea := gatherAddr x h
                 let w := gatherWidth x
                 unitRead (openWindow s core gid key ea ea) core gid key ea w true
                   (fun s d => give s (loadValue (bit x.node.c 2) w (bytesOf d)) (anyBad d))))))

/-- The open slot of `cpe`, opened when there is none; the node holds while the ring has none to fill. -/
def withSlot (s : State) (core gid : Nat) (k : State → FUnit → State) : State :=
  let u := s.unit core gid cpeKey
  let c := s.core core
  if u.full || !(cpeFits c u (if u.slotId = 0 then s.nextId else u.slotId)) then s
  else if u.slotId ≠ 0 then k s u
  else
      let s := addPend s core gid u (cpePayload c u + 256 : Nat)
      let f (u : FUnit) : FUnit := { u with slotId := s.nextId, rows := 0, tile := [], tileAt := none }
      let s := { s.modUnit core gid cpeKey f with nextId := s.nextId + 1 }
      k s (s.unit core gid cpeKey)

/-- Bytes enter the open slot after its rows; where another party has taken the slot that held these, they are written to the one at the
tail now with them (06 R179: DEDUCED, log 39). -/
def writeRows (s : State) (core : Nat) (u : FUnit) (d : List PByte) : State :=
  let off := (cpeSlot (s.core core) u u.slotId).2
  let l := if u.tileAt = some off then d else u.tile ++ d
  let at_ := off + 256 + (if u.tileAt = some off then u.tile.length else 0)
  s.writeP ((l.zip (List.range l.length)).map (fun e => (Loc.scr core (at_ + e.2), e.1)))

/-- `cpe` is done with the token it serves. -/
def cpeTakes (s : State) (core gid : Nat) : State :=
  s.modUnit core gid cpeKey (fun u => { u with idx := Tab.put u.idx 0 (Tab.get 0 u.idx 0 + 1) })

/-- One row enters the open slot; the token of the last one is served until the slot is published (R306). -/
def putRow (s : State) (core gid : Nat) (u : FUnit) (d : List PByte) : State :=
  let s := writeRows s core u d
  let s := addPend s core gid u (-(d.length : Int))
  let s := if u.rows + 1 = 64 then s else cpeTakes s core gid
  s.modUnit core gid cpeKey (fun u =>
    { u with rows := u.rows + 1, tile := u.tile ++ d, tileAt := some (cpeSlot (s.core core) u u.slotId).2, elem := true
             full := u.rows + 1 == 64 })

/-- A stop or DONE reaches `cpe`: an open slot is complete, and an empty level-0 fibre completes one of zero rows. -/
def rowsEnd (s : State) (core gid key : Nat) (h : Tok) : State :=
  let u := s.unit core gid cpeKey
  let pop (s : State) : State :=
    let s := (popToken s core gid key 0 h).modUnit core gid cpeKey (fun u => { u with elem := false })
    if h.kind.toNat = doneKind then
      let s := s.modUnit core gid cpeKey (fun u => { u with ended := true })
      let s := if (s.unit core gid cpeKey).slotId = 0 then releaseNode s core gid cpeKey else s
      releaseNode s core gid key
    else s
  if u.full then s
  else if u.slotId = 0 ∧ (u.elem ∨ h.kind.toNat = doneKind) then pop (cpeTakes s core gid)
  else withSlot s core gid (fun s _ => pop (s.modUnit core gid cpeKey (fun u => { u with full := true })))

def execGatherRow (core u : Nat) (s : State) : Out :=
  .next (let key := 0x40 + u
    takeDecision s core key (fun x => rowsMode x.node) (fun s gid x =>
        withHead s core gid key 0 (fun h =>
          if 4 ≤ h.kind.toNat then rowsEnd s core gid key h
          else if h.poison then failUnit s core gid key 0 0x09 none false
          else
            withSlot s core gid (fun s y =>
              let rb := cpePayload (s.core core) y / 64
              let give (s : State) (d : List PByte) : State := putRow (popToken s core gid key 0 h) core gid y d
              if gatherAbsent x h then give s (List.replicate rb (0, false))
              else
                let ea := gatherAddr x h
                unitRead (openWindow s core gid key ea ea) core gid key ea rb false give))))

/-- CPE_SLOT_PUBLISH: the completed slot of core `cur.m` gets its zero rows and header, the descriptor last (R297). -/
def execCpeSlotPublish (s : State) : Out :=
  .next (let core := s.cur.m
    takeDecision s core cpeKey (fun u => u.full) (fun s gid u =>
      let c := s.core core
      let at_ := cpeSlot c u u.slotId
      if at_.1 ≠ 0 || !(cpeFits c u u.slotId) then s
      else
        let put (s : State) (scales : List PByte) : State :=
          let zero (n : Nat) : List PByte := List.replicate n (0, false)
          let P := cpePayload c u
          let owed := u.owed P
          let bytes := (toBytes 8 u.node.a.toNat).map (·, false) ++ zero 56 ++ scales ++ zero 128
          let s := writeRows s core u (zero (owed - 256))
          let s := s.writeP ((bytes.zip (List.range 256)).map (fun e => (Loc.scr core (at_.2 + e.2), e.1)))
          let s := s.modCore core (fun k => k.handshake s.cyc at_.2 u.node.a.toNat true)
          let s := addPend s core gid u (-(owed : Int))
          let f (u : FUnit) : FUnit := { u with slotId := 0, rows := 0, tile := [], tileAt := none, full := false, got := [] }
          let s := (cpeTakes (s.modUnit core gid cpeKey f) core gid).modGraph core gid (fun g => { g with moved := s.cyc })
          if u.ended then releaseNode s core gid cpeKey else s
        if u.node.b = 0 then put s (List.replicate 64 (0, false))
        else unitRead s core gid cpeKey u.node.b 64 false put))

/-! ## Queue nodes (R298) -/

/-- A consumer's next decision requires a token at an input port: a repeater with HAVE = 1 looks at port 0 only beside a higher stop, one
with HAVE = 0 at port 1 only beside a stop or DONE (R295). -/
def State.requires (s : State) (core gid key port : Nat) : Bool :=
  if key / 16 = 3 then
    let other := (headToken s core gid key (1 - port)).map (fun h => h.kind.toNat)
    if port = 0 then !(s.unit core gid key).have_ || other.any (fun k => stop0 < k && k != doneKind)
    else (s.unit core gid key).have_ || other.any (4 ≤ ·)
  else true

/-- A source pops as its consumer's decisions require (R298): when the decision of a consumer requires a token that its edge does not hold. -/
def State.sourceAsked (s : State) (core gid key : Nat) : Bool :=
  let l := (s.graph core gid).fed key 0
  l == [] || l.any (fun e => e.fifo == [] && s.requires core gid (dstOf e.e) e.e.dstPort.toNat)

/-- A source pops its queue onto its edges; a sink pushes what it receives. -/
def queueNodeMoves (s : State) (core key : Nat) : State :=
  takeDecision s core key (fun _ => true) (fun s gid _ =>
    let q := key % 16
    let x := (s.core core).queue q
    if x.xa then
      match if s.headSent core q then none else x.head s.cyc with
      | none => s
      | some e =>
        if !(s.sourceAsked core gid key) then s
        else withRoom s core gid key [0]
          (let s := s.modCore core (fun c => c.setQueue q (c.queue q).pop)
           let s := (emitToken s core gid key 0 e.tok).modUnit core gid key
             (fun u => { u with idx := Tab.put u.idx 0 (Tab.get 0 u.idx 0 + 1) })
           if e.tok.kind.toNat = doneKind then releaseNode s core gid key else s)
    else
      match headToken s core gid key 0 with
      | none => s
      | some h =>
        if malformedToken (s.unit core gid key) 0 h then failUnit s core gid key 0 0x0D none false
        else if x.isFull then s
        else
          let s := (popToken s core gid key 0 h).modCore core (fun c =>
            c.setQueue q ((c.queue q).push { tok := h, ready := s.cyc + 1 }))
          if h.kind.toNat = doneKind then releaseNode s core gid key else s)

/-- Every queue node of a core moves; a graph that is not merely stalled has its count restarted (R303). -/
def nodesMove (s : State) (core : Nat) : State :=
  let s := (List.range 16).foldl (fun s q => queueNodeMoves s core (0x50 + q)) s
  (s.core core).graphs.foldl (fun s g =>
    if graphQuiet s core g.1 then s else s.modGraph core g.1 (fun g => { g with moved := s.cyc })) s

end Sys2Proof.Machine
end

