-- ==== Sys2Proof/Machine/Hub.lean ====
section
/-! DEFINITION. Accesses made for a job by units of the hub (13 R472), and the allocation units (08 R261 to R264). -/

namespace Sys2Proof.Machine

/-! ## Accesses for a job -/

/-- A unit that accesses for a job: the scratchpad aperture is closed to it. -/
def hubAgent (master job : Nat) : Agent := { master, job, svc := true }

/-- The bytes of a location carry poison, as a read, or an RMW, finds it; of another package that is an input from outside (assumption log
7). -/
def State.poisonAt (s : State) (rmw : Bool) : Loc → Bool
  | .far _ pa => Config.freeNat s.tick 19 (pa / 32) % 2 = 1
  | l => if rmw then s.locPoison l else (s.seen l).2

/-- The lowest address whose sector is poisoned. -/
def firstPoisoned (s : State) (rmw : Bool) (ea : Word) : List Loc → Nat → Option Word
  | [], _ => none
  | l :: t, i => if s.poisonAt rmw l then some (ea + word i) else firstPoisoned s rmw ea t (i + 1)

/-- The first address of an access that is not canonical. -/
def firstWild (ea : Word) (n : Nat) : Option Word :=
  ((touched ea.toNat n).find? (fun a => !(canonical (word a)))).map word

/-- The first address of an access that no place admits (01 R29, R30): in a hole, in a window that the agent cannot reach there, or
in another place than the first. -/
def firstMisplaced (s : State) (ag : Agent) (ea : Word) (n : Nat) : Option Word :=
  if ag.phys then none
  else
    ((touched ea.toNat n).find? (fun a =>
      placeOf a != placeOf ea.toNat || (placeOf a != 0 && (ag.svc || (windowLoc s ag a).isNone)))).map word

/-- The first byte of an access that lies in a package that no route reaches, or that does not perform it in time: which ones do not is an
input from outside (07 R213; assumption log 7). -/
def firstLost (s : State) (ea : Word) : List Loc → Nat → Option Word
  | [], _ => none
  | .far p _ :: t, i =>
    if !(s.routed p) || Config.freeNat s.tick 20 p % 2 = 1 then some (ea + word i) else firstLost s ea t (i + 1)
  | _ :: t, i => firstLost s ea t (i + 1)

/-- A service core's units write in supervisor state (00 R6: DEDUCED, log 28). -/
def svcMaster (m : Nat) : Bool := 0x1000 ≤ m && m < 0x1020

/-- The checks of an access by a unit: address, translation, access table, registers with RWS fields, route. TVAL is the lowest failing
address. -/
def agentReach (s : State) (ag : Agent) (ea : Word) (n : Nat) (need : Need) : Except Fail Access :=
  match checkAccess s ag ea n need false with
  | .error (.trap c v) =>
    .error (.trap c ((if c = 0x03 then firstWild ea n else if c = 0x06 ∧ v = ea then firstMisplaced s ag ea n else none).getD v))
  | .error f => .error f
  | .ok acc =>
    if rwsBreach (svcMaster ag.master) need acc then .error (.trap PRIV 0)
    else
      match firstLost s ea acc.locs 0 with
      | some a => .error (.trap 0x14 a)
      | none => .ok acc

/-- The checks of an access whose data may be poisoned, which a read traps on (R431). -/
def agentCheck (s : State) (ag : Agent) (ea : Word) (n : Nat) (need : Need) : Except Fail Access :=
  match agentReach s ag ea n need with
  | .error f => .error f
  | .ok acc =>
    match if need.rd then firstPoisoned s need.wr ea acc.locs 0 else none with
    | some a => .error (.trap 0x09 a)
    | none => .ok acc

def hubCheck (s : State) (master job : Nat) (ea : Word) (n : Nat) (need : Need) : Except Fail Access :=
  agentCheck s (hubAgent master job) ea n need

/-- The accesses of the allocation units: no fault of poisoned data is among theirs (R262, R263, 13 R431). -/
def hubReach (s : State) (master job : Nat) (ea : Word) (n : Nat) (need : Need) : Except Fail Access :=
  agentReach s (hubAgent master job) ea n need

/-- The bytes of an access, as `f` gives those of this package; those of another one are an input from outside (assumption log 7). -/
def hubBytes (s : State) (acc : Access) (f : Loc → Byte) : List Byte :=
  (acc.locs.zip (List.range acc.locs.length)).map (fun e =>
    match e.1 with
    | .far _ _ => Config.freeByte s.tick 2 e.2
    | l => f l)

/-- The bytes a hub access reads: as they were when the cycle began (10 R340, 08 R278). -/
def hubRead (s : State) (acc : Access) : List Byte := hubBytes s acc (fun l => (s.seen l).1)
def hubValue (s : State) (acc : Access) : Nat := ofBytes (hubRead s acc)
/-- The value that a read and write in one finds. -/
def hubNow (s : State) (acc : Access) : Nat := ofBytes (hubBytes s acc s.locByte)

/-- The bytes a hub access writes, those of another package over Pertor. -/
def hubWrite (s : State) (acc : Access) (data : List Byte) : State :=
  (s.writeLocs ((acc.locs.zip data).filter (fun e => match e.1 with | .far _ _ => false | _ => true))).requests acc.locs
    (.write 0 (clean data))

/-- Sectors written whole by a placement lose their poison (13 R430). -/
def State.clearWritten (s : State) (locs : List Loc) : State :=
  { s with poison := s.poison.filter (fun k =>
      (locs.filter (fun l => match l with | .mem pa => pa / 32 == k | _ => false)).length < 32) }

def hubCommit (s : State) (master job : Nat) (need : Need) (acc : Access) : State :=
  commitAccess s (hubAgent master job) need acc

/-- An access a hub unit makes as part of an instruction, by the checks `found`: a fault traps precisely, a denial freezes the master. -/
def State.unitGoes (s : State) (master job : Nat) (need : Need) (found : Except Fail Access) (k : State → Access → State) : State :=
  match found with
  | .error (.trap c v) => s.trap c v
  | .error (.denied t u) => s.deny master t u need.rd need.wr
  | .ok acc => k (hubCommit s master job need acc) acc

def State.unitAccess (s : State) (master job : Nat) (ea : Word) (n : Nat) (need : Need)
    (k : State → Access → State) : State :=
  s.unitGoes master job need (hubCheck s master job ea n need) k

/-- The same for an allocation unit. -/
def State.allocAccess (s : State) (master job : Nat) (ea : Word) (n : Nat) (need : Need)
    (k : State → Access → State) : State :=
  s.unitGoes master job need (hubReach s master job ea n need) k

/-- A dword of the job's entry, for an instruction; the address of such a fault is not stated (log 8). -/
def State.unitJobWord (s : State) (job i : Nat) (k : State → Word → State) : State :=
  match jobWord s job i with
  | .error c => s.trap c ((Config.freeVec s.tick 1 0).setWidth 64)
  | .ok w => k (s.keepJob job i w) w

/-! ## Allocation (R261 to R264) -/

/-- The placement x[b] selects (R262). -/
def placementOf (s : State) (v : Word) : Option Nat :=
  if v = 0 then (if s.me.svc then none else some (s.cur.m / 512))
  else if v = 1 then some 8
  else if 2 ≤ v.toNat ∧ v.toNat ≤ 9 then some (v.toNat - 2)
  else none

/-- The least class whose blocks hold `n` bytes. -/
def classFor (n : Nat) : Nat := ((List.range 16).find? (fun k => n ≤ 64 * 2 ^ k)).getD 15

/-- A pool table entry: STACK, TOP, CAP. -/
def poolTop (v : Nat) : Nat := v / 2 ^ 64 % 2 ^ 32
def poolCap (v : Nat) : Nat := v / 2 ^ 96
def poolStack (v : Nat) : Word := word (v % 2 ^ 64)
def poolEntry (pool : Word) (p k : Nat) : Word := pool + word ((16 * p + k) * 16)

/-- TOP written back. -/
def setTop (s : State) (acc : Access) (v top : Nat) : State :=
  hubWrite s acc (toBytes 16 (setBits v 95 64 top))

/-- The placement of a physical address: its die, or 8 for LPDDR. -/
def placementAt (pa : Nat) : Option Nat :=
  if pa < 2 ^ 40 then some (pa / 2 ^ 37) else if pa < serviceBase then some 8 else none

/-- Where a byte of the job's memory lies. -/
def placeAt (s : State) (m job : Nat) (ea : Word) : Option Loc := s.place (hubAgent m job) ea

/-- The contents of a new block are undefined (R262). -/
def newBlock (s : State) (m job : Nat) (ea : Word) (size : Nat) : State :=
  let n := min size 4096
  (List.range (size / n)).foldl (fun t i =>
    match placeAt s m job (ea + word (n * i)) with
    | some (.mem pa) => t.forget pa n
    | _ => t) s

/-- R262. Where the read of the address stack fails, TOP stays as it was: DESIGN CHOICE, log 38. -/
def allocBlock (d : Reg) (p k : Nat) (s : State) : State :=
  let job := s.agent.job
  let m := s.agent.master
  s.unitJobWord job 1 (fun s pool =>
    s.allocAccess m job (poolEntry pool p k) 16 needBoth (fun s' e =>
      let v := hubNow s' e
      if poolTop v = 0 then s'.trap 0x16 (word (16 * p + k))
      else
        let top := poolTop v - 1
        if d = 0 then (setTop s' e v top).next
        else
          match hubReach s' m job (poolStack v + word (8 * top)) 8 needBoth with
          | .error (.trap c a) => s'.trap c a
          | .error (.denied t u) => s'.deny m t u true true
          | .ok acc =>
            let s' := hubCommit s' m job needBoth acc
            let b := word (hubNow s' acc)
            (newBlock (setTop s' e v top) m job b (64 * 2 ^ k)).result d b))

def execAlloc (d a b : Reg) (s : State) : Out :=
  .next (s.reading [a, b]
    (let n := (s.rx a).toNat
     match placementOf s (s.rx b) with
     | none => s.result d 0
     | some p => if n = 0 ∨ 2 ^ 21 < n then s.result d 0 else allocBlock d p (classFor n) s))

/-- The frames of a 2 MiB block, page by page. -/
def framesOf (s : State) (m job : Nat) (ea : Word) : List Nat :=
  (List.range 512).filterMap (fun i =>
    match placeAt s m job (ea + word (4096 * i)) with
    | some (.mem pa) => some (pa / 4096)
    | _ => none)

/-- MarkDead (R263, R264): the granule that holds the block, or the frames it lies in where they make up no granule. -/
def markBlockDead (s : State) (m job : Nat) (ea : Word) : State :=
  let l := framesOf s m job ea
  let g := l.headD 0 / 512
  if l = (List.range 512).map (512 * g + ·) then s.markDead g else s.markFrames l

/-- The block goes back to its class (R263). -/
def freeTo (ea : Word) (cls p : Nat) (dead : Bool) (s : State) : State :=
  let job := s.agent.job
  let m := s.agent.master
  s.unitJobWord job 1 (fun s pool =>
    s.allocAccess m job (poolEntry pool p cls) 16 needBoth (fun s' e =>
      let v := hubNow s' e
      if poolTop v = poolCap v then s'.trap 0x06 ea
      else
        match hubReach s' m job (poolStack v + word (8 * poolTop v)) 8 needBoth with
        | .error (.trap c a) => s'.trap c a
        | .error (.denied t u) => s'.deny m t u true true
        | .ok acc =>
          let s' := hubWrite (hubCommit s' m job needBoth acc) acc (toBytes 8 ea.toNat)
          let s' := setTop s' e v (poolTop v + 1)
          State.next (if dead && cls == 15 then markBlockDead s' m job ea else s')))

/-- R263. A block whose own page is absent takes that fault, and one that lies in no placement of this package PAGE_PROT: DESIGN CHOICE,
log 38. -/
def freeBlock (a : Reg) (dead : Bool) (s : State) : State :=
  s.reading [a]
    (let ea := s.rx a
     let job := s.agent.job
     let m := s.agent.master
     s.unitJobWord job 2 (fun s gmap => s.unitJobWord job 3 (fun s heap => s.unitJobWord job 4 (fun s len =>
       if (ea - heap).toNat < len.toNat then
         s.allocAccess m job (gmap + word ((ea - heap).toNat / 2 ^ 21)) 1 needRead (fun s' g =>
           let v := hubValue s' g
           if v < 128 ∨ ea.toNat % (64 * 2 ^ (v % 16)) ≠ 0 then s'.trap 0x06 ea
           else
             match checkVirtual s' (hubAgent m job) ea 1 {} false with
             | .error (c, x) => s'.trap c x
             | .ok acc =>
               match acc.locs with
               | .mem pa :: _ =>
                 (match placementAt pa with
                  | some p => freeTo ea (v % 16) p dead s'
                  | none => s'.trap 0x06 ea)
               | _ => s'.trap 0x06 ea)
       else s.trap 0x06 ea))))

def execFree (a : Reg) (s : State) : Out := .next (freeBlock a false s)
def execFreeD (a : Reg) (s : State) : Out := .next (freeBlock a true s)

/-! ## Withheld hub work (13 R472) -/

/-- A failed hub access waits: its first failure stands, its last cause is kept. A denial, of the rights that were asked for, freezes the
master. -/
def withholdHub (s : State) (master kind job handle : Nat) (need : Need) (act : HubAct) (since : Option Nat)
    (id : Option Nat) (f : Fail) : State :=
  let k := id.getD s.nextId
  let kept (s : State) (cause : Nat) (tval : Word) : State :=
    { s with hub := Tab.put s.hub k { master, kind, job, handle, act, since := since.getD s.cyc, cause, tval
                                      reported := (Tab.find s.hub k).any (·.reported) }
             nextId := if id.isSome then s.nextId else s.nextId + 1 }
  match f with
  | .trap c v => kept s c v
  | .denied t u => kept (s.deny master t u need.rd need.wr) 0x08 (word (u * 4096))

def dropHub (s : State) (id : Option Nat) : State :=
  match id with
  | some k => { s with hub := Tab.del s.hub k }
  | none => s

/-- HUB_WORK_TIMEOUT: an access that still fails 8,192 cycles after its first failure makes an entry (R472). -/
def execHubWorkTimeout (id : Nat) (s : State) : Out :=
  .next (match Tab.find s.hub id with
    | none => s
    | some w =>
      if w.reported ∨ s.cyc < w.since + 8192 ∨ w.cause = 0x08 then s
      else
        State.reportFault { s with hub := Tab.put s.hub id { w with reported := true } }
          { cause := w.cause, source := 9, tval := w.tval, detail := word w.kind, task := w.handle, slot := 0, thread := 0,
            core := 0, job := w.job, retry := .hub id })

end Sys2Proof.Machine
end

