-- ==== Sys2Proof/Machine/Image.lean ====
section
/-! DEFINITION. Launch images and launch records: their reads (11 R346, 02 R78 to R80) and their validation (11 R343 to
R347, R349). -/

namespace Sys2Proof.Machine

/-- Bytes read as a load reads them, by an agent; of another package they come from outside (assumption log 7). -/
def loadSpan (s : State) (ag : Agent) (ea : Word) (n : Nat) : Except Fail (State × List Byte) :=
  if n = 0 then .ok (s, [])
  else
    match agentCheck s ag ea n needRead with
    | .error f => .error f
    | .ok acc => .ok (commitAccess s ag needRead acc, hubRead s acc)

/-- Several spans in order. -/
def loadSpans (s : State) (ag : Agent) : List (Word × Nat) → Except Fail (State × List (List Byte))
  | [] => .ok (s, [])
  | (ea, n) :: l =>
    match loadSpan s ag ea n with
    | .error f => .error f
    | .ok (s, b) =>
      match loadSpans s ag l with
      | .error f => .error f
      | .ok (s, bs) => .ok (s, b :: bs)

/-! ## The header and its tables (02 R78, R79) -/

/-- The bytes of an image's header, scratch table and role data table. -/
structure RawImage where
  hdr : List Byte
  scr : List Byte
  rdt : List Byte
deriving DecidableEq, Repr

def RawImage.h (r : RawImage) (off n : Nat) : Nat := bytesAt r.hdr off n
def RawImage.scratches (r : RawImage) : Nat := r.h 10 1
def RawImage.roleEntries (r : RawImage) : Nat := r.h 11 1
def RawImage.helpers (r : RawImage) : Nat := r.h 9 1
def RawImage.rowLen (r : RawImage) (i : Nat) : Nat := r.h (36 + 2 * i) 2
def RawImage.rowOff (r : RawImage) (i : Nat) : Nat := r.h (20 + 4 * i) 4
def RawImage.queueWord (r : RawImage) (i : Nat) : Nat := r.h (48 + 4 * i) 4
def RawImage.ringWord (r : RawImage) (i : Nat) : Nat := r.h (112 + 8 * i) 8
def RawImage.helperWord (r : RawImage) (i : Nat) : Nat := r.h (176 + 8 * i) 8
def RawImage.scrWord (r : RawImage) (i : Nat) : Nat := bytesAt r.scr (8 * i) 8
def RawImage.roleWord (r : RawImage) (i : Nat) : Nat := bytesAt r.rdt (16 * i) 16

/-- Header and tables, with all the entries that the header counts. -/
def readTables (s : State) (ag : Agent) (base : Word) : Except Fail (State × RawImage) :=
  match loadSpan s ag base 256 with
  | .error f => .error f
  | .ok (s, h) =>
    let r : RawImage := { hdr := h, scr := [], rdt := [] }
    match loadSpans s ag [(base + word (r.h 240 4), 8 * r.scratches), (base + word (r.h 244 4), 16 * r.roleEntries)] with
    | .error f => .error f
    | .ok (s, l) => .ok (s, { r with scr := l.headD [], rdt := (l.drop 1).headD [] })

def nbits (v hi lo : Nat) : Nat := v / 2 ^ lo % 2 ^ (hi + 1 - lo)

/-- The descriptors as data (02 R79). -/
def RawImage.image (r : RawImage) : Image :=
  { threads := r.h 8 1, groupsz := r.h 6 2, accessOff := r.h 12 4, accessLen := r.h 16 4
    rowOff := (List.range 4).map r.rowOff, rowLen := (List.range 4).map r.rowLen
    queues := (List.range 16).map (fun i =>
      let w := r.queueWord i
      ⟨w.testBit 31, w.testBit 30, nbits w 29 23⟩)
    rings := (List.range 8).map (fun i =>
      let w := r.ringWord i
      ⟨w.testBit 63, nbits w 62 61, nbits w 60 55, nbits w 19 0⟩)
    helpers := (List.range (min 8 r.helpers)).map (fun i =>
      let w := r.helperWord i
      ⟨signedOf 8 (nbits w 39 32), nbits w 31 0⟩)
    scratch := (List.range r.scratches).map (fun i =>
      let w := r.scrWord i
      ⟨w.testBit 40, nbits w 39 20, nbits w 19 0⟩)
    roleData := (List.range r.roleEntries).map (fun i =>
      let w := r.roleWord i
      ⟨nbits w 115 96, nbits w 95 64, nbits w 55 36, w.testBit 35, nbits w 34 32, nbits w 31 16, nbits w 15 0⟩) }

/-- The spans of the row sections and role data sources (02 R80). -/
def Image.bodySpans (i : Image) (base : Word) : List (Word × Nat) :=
  ((i.rowOff.zip i.rowLen).map (fun e => (base + word e.1, 32 * e.2))) ++
    i.roleData.map (fun e => (base + word e.src, e.len))

/-! ## Validation (11 R347) -/

/-- A launch record (R343, R344). -/
abbrev Record := List Byte
def recWord (r : Record) (i : Nat) : Word := word (bytesAt r (8 * i) 8)
def recCtl (r : Record) : Word := recWord r 3
def recClass (r : Record) : Nat := bits (recCtl r) 1 0
def recGnew (r : Record) : Bool := bit (recCtl r) 2
def recSeal (r : Record) : Bool := bit (recCtl r) 3
def recNpred (r : Record) : Nat := bits (recCtl r) 6 4
def recNchain (r : Record) : Nat := bits (recCtl r) 9 8
def recPreds (r : Record) : List Nat := (List.range (min 4 (recNpred r))).map (fun i => (recWord r (5 + i)).toNat)
def recChains (r : Record) : List ChainDesc :=
  (List.range (min 2 (recNchain r))).map (fun i =>
    let a := recWord r (10 + 2 * i)
    ⟨bits a 63 56, bits a 47 36, bits a 35 24, bits a 15 12, bits a 11 8, (recWord r (11 + 2 * i)).toNat⟩)

/-- Rows 0x01 and 0x02. -/
def magicBad (r : RawImage) : Bool := r.h 0 4 != 0x0A4E4B41 || r.h 4 2 != 1
def reservedBad (q : Record) (r : RawImage) : Bool :=
  recWord q 14 != 0 || recWord q 15 != 0 || bits (recCtl q) 63 10 != 0 || bit (recCtl q) 7 ||
  r.h 44 4 != 0 || r.h 248 8 != 0 ||
  (List.range 16).any (fun i => nbits (r.queueWord i) 22 0 != 0) ||
  (List.range 8).any (fun i => nbits (r.ringWord i) 54 20 != 0) ||
  (List.range 8).any (fun i => nbits (r.helperWord i) 63 40 != 0) ||
  (List.range r.scratches).any (fun i => nbits (r.scrWord i) 63 41 != 0) ||
  (List.range r.roleEntries).any (fun i => nbits (r.roleWord i) 127 116 != 0 || nbits (r.roleWord i) 63 56 != 0) ||
  (List.range (min 2 (recNchain q))).any (fun i =>
    let a := recWord q (10 + 2 * i)
    bits a 55 48 != 0 || bits a 23 16 != 0 || bits a 7 0 != 0)

/-- Row 0x03. -/
def rangeBad (q : Record) (r : RawImage) : Bool :=
  let i := r.image
  i.threads == 0 || 4 < i.threads || i.groupsz == 0 || 4096 < i.groupsz || 8 < r.helpers || 16 < r.scratches ||
  32 < r.roleEntries || i.rowLen.any (fun n => 512 < n) || 4 < recNpred q || 2 < recNchain q

/-- Row 0x04; a role data entry with LO above HI is refused here: DESIGN CHOICE, log 38. -/
def offsetBad (q : Record) (r : RawImage) : Bool :=
  let i := r.image
  (recWord q 0).toNat % 4096 != 0 || i.accessOff % 8 != 0 || i.accessLen == 0 || i.accessLen % 8 != 0 ||
  i.rowOff.any (fun o => o % 32 != 0) || r.h 240 4 % 8 != 0 || r.h 244 4 % 8 != 0 ||
  i.helpers.any (fun h =>
    h.entry % 8 != 0 || h.entry < i.accessOff || i.accessOff + i.accessLen ≤ h.entry || h.roff == 0 ||
      h.roff < -63 || 63 < h.roff) ||
  i.roleData.any (fun e =>
    e.hi < e.lo || !(i.scratch.any (fun x => x.base ≤ e.dest && e.dest + e.len ≤ x.base + x.size)))

/-- Row 0x05. -/
def queuesBad (i : Image) : Bool :=
  let d := i.queues.filter (·.decl)
  d.any (fun q => q.cap < 4 || 64 < q.cap) || 512 < (d.map (·.cap)).sum

/-- Row 0x06. -/
def regionsBad (i : Image) : Bool :=
  let d := i.rings.filter (·.decl)
  let spans := d.map (fun r => (r.base, r.depth * (256 + slotBytes r.slot))) ++ i.scratch.map (fun x => (x.base, x.size))
  d.any (fun r => r.slot == 3 || r.depth < 2 || 32 < r.depth || r.base % 256 != 0) ||
  i.scratch.any (fun x => x.size == 0 || x.size % 64 != 0 || x.base % 256 != 0) ||
  spans.any (fun a => 0xB0000 < a.1 + a.2) ||
  (List.range spans.length).any (fun j => (List.range j).any (fun k =>
    match spans[j]?, spans[k]? with
    | some a, some b => a.1 < b.1 + b.2 && b.1 < a.1 + a.2
    | _, _ => false))

/-- The dies asked for by role data entries for block `b` (R349). -/
def Image.dies (i : Image) (b : Nat) : List Nat :=
  (i.roleData.filter (fun e => e.diev && e.lo / 64 ≤ b && b ≤ e.hi / 64)).map (·.die)

def Image.blocks (i : Image) : Nat := (i.groupsz + 63) / 64
def Image.blockSize (i : Image) (b : Nat) : Nat := min 64 (i.groupsz - 64 * b)

/-- The role on whose core role `ρ`'s helper of offset `off` runs, when it has one (R349). -/
def Image.hostRole (i : Image) (ρ : Nat) (off : Int) : Option Nat :=
  let t := (ρ : Int) + off
  if 0 ≤ t ∧ t < i.groupsz ∧ t.toNat / 64 = ρ / 64 then some t.toNat else none

/-- Row 0x07; a helper whose offset leads out of the group from every role is refused here too (02 R80): DESIGN CHOICE, log 38. -/
def rolesBad (i : Image) : Bool :=
  i.roleData.any (fun e => i.groupsz ≤ e.hi) ||
  i.helpers.any (fun h => !((List.range i.groupsz).any (fun ρ => (i.hostRole ρ h.roff).isSome))) ||
  (List.range i.blocks).any (fun b => (i.dies b).any (fun d => (i.dies b).any (· != d))) ||
  (List.range i.groupsz).any (fun t =>
    4 < (i.helpers.filter (fun h => (i.hostRole t (-h.roff)).isSome)).length)

/-- The working cores of a cluster (01 R13). -/
def State.clusterCores (s : State) (c : Nat) : List Nat :=
  ((List.range 64).map (fun i => 64 * c + i)).filter (fun p => !(s.pkg.mappedOut.contains p))

/-! ## Choosing clusters (R349) -/

/-- A core that can take a home task: it has none, self-test has passed it, and it is not frozen (12 R389). -/
def State.coreFree (s : State) (c : Nat) : Bool :=
  (s.core c).home == 0 && !(s.pkg.mappedOut.contains c) && !(s.frozen.contains c)

/-- What a round has given a launch: cores by role, and thread keys by role and helper. -/
structure Plan where
  roles : List (Nat × Nat) := []
  helpers : List (Nat × Nat × Nat) := []
deriving DecidableEq, Repr

def Plan.hasCore (p : Plan) (c : Nat) : Bool := p.roles.any (fun e => e.2 == c)

/-- The lowest free thread of 4 to 7 of a core, which a frozen core does not give (12 R389). -/
def freeHelper (s : State) (p : Plan) (core : Nat) : Option Nat :=
  if s.frozen.contains core then none
  else (([4, 5, 6, 7].map (thrKey core)).find? (fun k => (s.thr k).life == .idle && !(p.helpers.any (fun e => e.2.2 == k))))

/-- The helpers of the roles of a block, in role order and then descriptor order. -/
def placeHelpers (s : State) (i : Image) : List (Nat × Nat × Int) → Plan → Option Plan
  | [], p => some p
  | (role, n, off) :: l, p =>
    match (i.hostRole role off).bind (fun h => p.roles.find? (fun e => e.1 == h)) with
    | none => placeHelpers s i l p
    | some (_, core) =>
      match freeHelper s p core with
      | none => none
      | some k => placeHelpers s i l { p with helpers := p.helpers ++ [(role, n, k)] }

/-- A block bound in a cluster, with its helpers, when it fits. -/
def placeIn_ (s : State) (i : Image) (b c : Nat) (p : Plan) : Option (Nat × Plan) :=
  let free := (s.clusterCores c).filter (fun k => s.coreFree k && !(p.hasCore k))
  let n := i.blockSize b
  if free.length < n || (i.dies b).any (fun d => d != c / 8) then none
  else
    let p := { p with roles := p.roles ++ (List.range n).zipWith (fun j k => (64 * b + j, k)) free }
    let wanted := (List.range n).flatMap (fun j =>
      (i.helpers.zip (List.range 8)).map (fun h => (64 * b + j, h.2, h.1.roff)))
    (placeHelpers s i wanted p).map (fun p => (free.length, p))

/-- The cluster with the fewest free cores that still suffice; the lowest of equals. -/
def bestFit : List (Nat × Plan) → Option (Nat × Plan)
  | [] => none
  | x :: l => match bestFit l with
    | some y => if y.1 < x.1 then some y else some x
    | none => some x

def placeBlocks (s : State) (i : Image) : List Nat → Plan → Option Plan
  | [], p => some p
  | b :: l, p =>
    match bestFit ((List.range 64).filterMap (fun c => placeIn_ s i b c p)) with
    | none => none
    | some (_, p) => placeBlocks s i l p

/-- The package with no task on it. -/
def State.emptied (s : State) : State := { s with cores := [], threads := [], frozen := [] }

/-- Row 0x08: the order of R349 finds no cluster for some block even on the working cores of an empty package (R341: DEDUCED, log 24). -/
def neverPlaced (s : State) (i : Image) : Bool := (placeBlocks s.emptied i (List.range i.blocks) {}).isNone

/-- Row 0x09. A cancelled graph is no open one (DEDUCED, log 24). -/
def graphBad (s : State) (job : Nat) (q : Record) : Bool :=
  let g := (recWord q 4).toNat
  (recPreds q).any (fun p => handleJob p != job) ||
  (!(recGnew q) && g != 0 &&
    (match Tab.find s.wgraphs g with
     | none => true
     | some x => x.job != job || x.sealed || x.cancelled)) ||
  (recGnew q && recSeal q && recNpred q != 0)

/-- Row 0x0A. -/
def counterBad (a : Word) : Bool := a != 0 && (a.toNat % 8 != 0 || !(ordinaryWord a))
where ordinaryWord (a : Word) : Bool := canonical a && !(inAperture a.toNat)

/-- Launches and continued tasks that wait in the package launch queue. -/
def State.waiting (s : State) : Nat :=
  (s.launches.filter (fun e => e.2.waiting)).length + (s.tasks.filter (fun e => e.2.life == .queued && e.2.area != 0)).length

/-- A chain against its own image and its destination (R345); a destination of another package answers from outside
(assumption log 7). -/
def chainBad (s : State) (job lid : Nat) (i : Image) (c : ChainDesc) : Bool :=
  let ax (g : Image) : Bool :=
    c.drole < g.groupsz && (match g.queues[c.dq]? with | some q => q.decl && !q.xa | none => false)
  !((c.dpkg < 192 || c.dpkg == 0xFF) && c.srole < i.groupsz &&
    (match i.queues[c.sq]? with | some q => q.decl && q.xa | none => false) &&
    (if c.dpkg = 0xFF then
       c.dlid % 4096 == 0 && handleJob c.dlid == job &&
       (if c.dlid = lid then ax i
        else match Tab.find s.launches c.dlid with
          | some l => ax l.img
          | none => false)
     else c.dlid != lid && Config.freeNat s.tick 8 c.dlid % 3 == 0))

/-- No check of row 0x0D goes to a package that no route reaches, or that does not answer in time (R213). -/
def chainRoute (s : State) (q : Record) : Bool :=
  (recChains q).all (fun c => 192 ≤ c.dpkg || (s.routed c.dpkg && Config.freeNat s.tick 8 c.dlid % 3 != 2))

/-- Validate: the status of the first failing row, 0 for none. -/
def validate (s : State) (job lid : Nat) (q : Record) (r : RawImage) : Nat :=
  let i := r.image
  if magicBad r then 0x01
  else if reservedBad q r then 0x02
  else if rangeBad q r then 0x03
  else if offsetBad q r then 0x04
  else if queuesBad i then 0x05
  else if regionsBad i then 0x06
  else if rolesBad i then 0x07
  else if neverPlaced s i then 0x08
  else if graphBad s job q then 0x09
  else if counterBad (recWord q 2) || (recGnew q && counterBad (recWord q 4)) then 0x0A
  else if 4096 ≤ s.waiting then 0x0B
  else if (recChains q).any (chainBad s job lid i) then 0x0D
  else 0

/-! ## Joining the launch queue (R342, R346, R350) -/

/-- The LID the next accepted launch of a job takes. -/
def State.nextLid (s : State) (job : Nat) : Nat := job % 2 ^ 16 * 2 ^ 48 + s.seq * 2 ^ 12
def nextSeq (n : Nat) : Nat := if n = 2 ^ 36 - 1 then 1 else n + 1

/-- EnqueueLaunch: the launch waits, and opens or joins its graph. -/
def State.enqueue (s : State) (job : Nat) (q : Record) (r : RawImage) : State :=
  let lid := s.nextLid job
  let g := if recGnew q then lid else (recWord q 4).toNat
  let l : Launch :=
    { job := job % 2 ^ 16, image := recWord q 0, arg := recWord q 1, lctr := recWord q 2, cls := recClass q,
      eff := recClass q, graph := g, preds := recPreds q, chains := recChains q, img := r.image, joined := s.cyc,
      ord := s.nextId, left := r.image.groupsz }
  let wg : WorkGraph :=
    if recGnew q then { job := job % 2 ^ 16, ctr := recWord q 4, sealed := recSeal q, left := 1 }
    else
      let x := Tab.get {} s.wgraphs g
      { x with sealed := x.sealed || recSeal q, left := x.left + 1 }
  { s with
    launches := Tab.put s.launches lid l
    wgraphs := if g = 0 then s.wgraphs else Tab.put s.wgraphs g wg
    seq := nextSeq s.seq, nextId := s.nextId + 1, dirty := true }

/-- A record and its image read and judged, and the launch queued when its status is 0. -/
def tryLaunch (s : State) (ag : Agent) (job : Nat) (q : Record) : Except Fail (State × Nat) :=
  match readTables s ag (recWord q 0) with
  | .error f => .error f
  | .ok (s1, r) =>
    match loadSpans s1 ag (r.image.bodySpans (recWord q 0)) with
    | .error f => .error f
    | .ok (s2, _) =>
      let n := validate s2 job (s2.nextLid job) q r
      if (n = 0 ∨ n = 0x0D) ∧ !(chainRoute s q) then .error (.trap 0x14 ((Config.freeVec s.tick 2 0).setWidth 64))
      else if n = 0 then .ok (s2.enqueue job q r, 0)
      else .ok (s2, n)

end Sys2Proof.Machine
end

