-- ==== Sys2Proof/WellFormed.lean ====
section
/-! DEFINITION. Which instructions are well formed: the limits the encoding puts on their operands (02 R43, R47 to
R69; 04 R127; 05 R161 to R163, R167; 09 R283, R285, R287). A step without an encoding has no limit. -/

namespace Sys2Proof

/-- R47: `ld` admits plain, acq and sc, and SIGN with byte, half and word only. -/
def MemMod.wfLoad (m : MemMod) : Bool :=
  (m.order == .plain || m.order == .acq || m.order == .sc) && !(m.sign && m.size == .d)

/-- R47: `st` admits plain, rel and sc, and SIGN 0. -/
def MemMod.wfStore (m : MemMod) : Bool :=
  (m.order == .plain || m.order == .rel || m.order == .sc) && !m.sign

/-- R43: a field form's immediate leaves bits [31:14] and [7:6] zero. -/
def fieldImm (imm : Word32) : Bool := imm.extractLsb' 14 18 == 0 && imm.extractLsb' 6 2 == 0

/-- Registers a function writes that are not x0 are distinct (07 R221). -/
def distinctWrites (l : List Reg) : Bool := decide ((l.filter (fun r => r != 0)).Nodup)

/-- FLAG = 0 leaves d zero (R53). -/
def CopyMod.wfFlag (e : CopyMod) (d : Reg) : Bool := e.flag || d == 0

/-- Units of each type (01 R17, 02 R55): 16 queues, one copy engine. -/
def unitCount (utype : BitVec 4) : Nat :=
  match utype.toNat with
  | 0 => 8 | 1 => 4 | 2 => 2 | 3 => 4 | 4 => 4 | 5 => 16 | 6 => 1 | _ => 0

def inPorts (utype : BitVec 4) : Nat :=
  match utype.toNat with
  | 0 => 1 | 1 => 2 | 2 => 2 | 3 => 2 | 4 => 1 | 5 => 1 | 6 => 1 | _ => 0

def outPorts (utype : BitVec 4) : Nat :=
  match utype.toNat with
  | 0 => 1 | 1 => 2 | 2 => 2 | 3 => 1 | 4 => 1 | 5 => 1 | _ => 0

/-- 09 R285: which register fields a node type uses. -/
def wfNode (d a b c : Reg) (utype unit : BitVec 4) : Bool :=
  unit.toNat < unitCount utype &&
  match utype.toNat with
  | 0 => true
  | 4 => d == 0
  | 5 => d == 0 && b == 0 && c == 0
  | 6 => d == 0
  | _ => d == 0 && a == 0 && b == 0 && c == 0

/-- 09 R283, R287. -/
def FEdgeF.wf (e : FEdgeF) : Bool :=
  e.srcIdx.toNat < unitCount e.srcType && e.dstIdx.toNat < unitCount e.dstType &&
  e.srcPort.toNat < outPorts e.srcType && e.dstPort.toNat < inPorts e.dstType

/-- FMT classes of 02 R67. -/
inductive FmtClass where
  | f | i | any | fOrI | f32 | zero
deriving DecidableEq, Repr

def isF (fmt : BitVec 3) : Bool := fmt.toNat < 4

def FmtClass.admits (k : FmtClass) (fmt : BitVec 3) : Bool :=
  match k with
  | .f => isF fmt
  | .i => !isF fmt
  | .any => true
  | .fOrI => true
  | .f32 => fmt == 0
  | .zero => fmt == 0

/-- Whether an operation rounds: never, always, or for F formats only (02 R65). -/
inductive Rounding where
  | no | yes | onF
deriving DecidableEq, Repr

/-- Rounding of 02 R67, a format class, the sources read among A, B, C, and whether it is of class S. -/
structure PeInfo where
  fmt : FmtClass
  rounding : Rounding
  readsB : Bool
  readsC : Bool
  isS : Bool
deriving DecidableEq, Repr

/-- A source code that names a source (02 R64). -/
def srcOk (c : BitVec 6) : Bool := c.toNat < 0x1D || 0x20 ≤ c.toNat
def isVSrc (c : BitVec 6) : Bool := c.toNat < 0x10
def isPop (c : BitVec 6) : Bool := 0x20 ≤ c.toNat && c.toNat < 0x30
def isPeek (c : BitVec 6) : Bool := 0x30 ≤ c.toNat

/-- The limits of 02 R63 to R65 and 05 R167 that hold for every PE operation but `nop`, `cvt`, `qdrop`. -/
def PeF.wf (f : PeF) (k : PeInfo) : Bool :=
  k.fmt.admits f.fmt &&
  (match k.rounding with
    | .yes => true
    | .no => f.rnd == 0 && !f.fi && !f.fo
    | .onF => isF f.fmt || (f.rnd == 0 && !f.fi && !f.fo)) &&
  srcOk f.a &&
  (if k.readsB then srcOk f.b else f.b == 0) &&
  (if k.readsC then srcOk f.c else f.c == 0) &&
  f.step != 3 &&
  (f.step != 2 || isVSrc f.a || (k.readsB && isVSrc f.b) || (k.readsC && isVSrc f.c)) &&
  !(f.step == 1 && f.push != 0) &&
  f.push.toNat < 0xD &&
  !(k.isS && f.push == 0 && 8 ≤ f.dst.toNat)

def infoF2 : PeInfo := ⟨.f, .yes, true, false, false⟩
def infoF3 : PeInfo := ⟨.f, .yes, true, true, false⟩
def infoF1 : PeInfo := ⟨.f, .yes, false, false, false⟩
def infoFn2 : PeInfo := ⟨.f, .no, true, false, false⟩
def infoFn1 : PeInfo := ⟨.f, .no, false, false, false⟩
def infoI2 : PeInfo := ⟨.i, .no, true, false, false⟩
def infoI1 : PeInfo := ⟨.i, .no, false, false, false⟩
def infoByte : PeInfo := ⟨.f32, .yes, true, false, false⟩
def infoMov : PeInfo := ⟨.any, .no, false, false, false⟩
def infoLane : PeInfo := ⟨.any, .no, true, false, false⟩
def infoRed : PeInfo := ⟨.fOrI, .onF, false, false, true⟩
def infoSel : PeInfo := ⟨.any, .no, true, true, false⟩
def infoAccs : PeInfo := ⟨.fOrI, .onF, true, false, false⟩
def infoTok : PeInfo := ⟨.zero, .no, false, false, true⟩
def infoCvt : PeInfo := ⟨.any, .yes, false, false, false⟩

/-- `cvt` and `cvt.sat`: SRCC holds the source format in [2:0] (02 R63). -/
def PeF.wfCvt (f : PeF) : Bool :=
  ({ f with c := 0 }).wf infoCvt && f.c.toNat < 8

/-- 05 R161. -/
def PeF.wfAccs (f : PeF) : Bool :=
  f.wf infoAccs && isPop f.a && f.b == 0x1C && f.rep == 0 && f.step == 0 && f.push.toNat < 2

/-- 05 R162: DST holds the kind code. -/
def PeF.wfQdrop (f : PeF) : Bool :=
  f.fmt == 0 && f.rnd == 0 && !f.fi && !f.fo && isPop f.a && f.b == 0 && f.c == 0 && f.rep == 0 && f.step == 0 &&
  f.push == 0 && f.dst.toNat < 0xC

/-- A matrix command with every field zero. -/
def matNone : MatF := ⟨0, 0, 0, 0, 0, false, false, false, false, 0, 0, 0, 0, 0, 0, 0⟩

/-- An odd accumulator with f64 raises XILLOP (02 R68). -/
def MatF.wfAcc (f : MatF) : Bool := f.mfmt.toNat < 6 && !(f.mfmt == 4 && f.acc.toNat % 2 == 1)

/-- 02 R68, R69: the fields each command may use. -/
def MatF.wfMma (f : MatF) : Bool :=
  f == { matNone with ra := f.ra, rb := f.rb, acc := f.acc, mfmt := f.mfmt, accum := f.accum, timed := f.timed,
                      stamp := f.stamp, count := f.count } && f.wfAcc && f.count != 0
def MatF.wfMzero (f : MatF) : Bool := f == { matNone with acc := f.acc }
def MatF.wfMload (f : MatF) : Bool :=
  f == { matNone with ra := f.ra, acc := f.acc, mfmt := f.mfmt } && f.wfAcc && 3 ≤ f.mfmt.toNat
def MatF.wfMdrain (f : MatF) : Bool := f == { matNone with rd := f.rd, acc := f.acc, zero := f.zero }
def MatF.wfSimmer (f : MatF) : Bool :=
  f == { f with accum := false, zero := false } && f.wfAcc && f.dper != 0 && f.la != 0 && f.lb != 0

/-- The limits the encoding puts on an instruction's operands. -/
def Instr.wf : Instr → Bool
  | .slli _ _ imm | .srli _ _ imm | .srai _ _ imm => imm.toNat < 64
  | .bfxi _ _ imm | .bfxui _ _ imm | .bfii _ _ imm => fieldImm imm
  | .ld _ _ m _ => m.wfLoad
  | .st _ _ m _ => m.wfStore
  | .fence ord _ => ord != .plain
  | .qpush _ kind _ | .qpushi _ kind _ => kind.toNat < 0xC
  | .qpop d b _ => distinctWrites [d, b]
  | .qtry d b c _ => distinctWrites [d, b, c]
  | .bqtry d c => distinctWrites [d, c]
  | .waita .. => true
  | .evwait d => 1 ≤ d.toNat && d.toNat ≤ 62
  | .copy d _ _ _ e => e.wfFlag d
  | .copy2 d _ _ c e => e.wfFlag d && c.toNat ≤ 60
  | .copyr d _ _ c _ e | .copyrg d _ _ c _ e => e.wfFlag d && c.toNat ≤ 60
  | .nsend _ a _ => a.toNat ≤ 56
  | .nrecv _ a => a.toNat ≤ 60
  | .fnode d a b c utype unit => wfNode d a b c utype unit
  | .fedge e => e.wf
  | .fadd f | .fsub f | .fmul f => f.wf infoF2
  | .ffma f | .ffms f | .fnfma f => f.wf infoF3
  | .fmin f | .fmax f | .fceq f | .fclt f | .fcle f => f.wf infoFn2
  | .fabs f | .fneg f => f.wf infoFn1
  | .frcp f | .frsq f | .fexp2 f | .flog2 f => f.wf infoF1
  | .iadd f | .isub f | .imul f | .imulh f | .iand f | .ior f | .ixor f | .ishl f | .ishr f | .isra f
  | .imin f | .imax f | .iceq f | .iclt f | .iaddsat f => f.wf infoI2
  | .iabs f => f.wf infoI1
  | .cvt f | .cvtSat f => f.wfCvt
  | .pk8 f | .upk8 f => f.wf infoByte && f.push == 0
  | .bscale f => f.wf infoByte
  | .mov f => f.wf infoMov
  | .lshuf f | .lbcast f | .lrot f => f.wf infoLane
  | .redadd f | .redmax f | .redmin f => f.wf infoRed
  | .peSel f => f.wf infoSel
  | .accs f => f.wfAccs
  | .qdrop f => f.wfQdrop
  | .tkind f => f.wf infoTok && (isPop f.a || isPeek f.a)
  | .brTok _ kind _ => kind.toNat < 0xC
  | .loopRow _ count => count != 0
  | .mma f => f.wfMma
  | .mzero f => f.wfMzero
  | .mload f => f.wfMload
  | .mdrain f => f.wfMdrain
  | .simmer f => f.wfSimmer
  | _ => true

end Sys2Proof
end

