-- ==== Sys2Proof/Decode.lean ====
section
/-! DEFINITION. The decoders of 02 R40 to R69, total on any bits and rejecting by name, and after them the
encoders of the same tables. Which queue or ring an image declares is no matter of decoding here: the meanings
check it (R44 step 4, R62). -/

namespace Sys2Proof

/-- Why a pattern is no instruction (R44 steps 1, 3 and 4; R62). -/
inductive Reject where
  /-- step 1 of R44: the major opcode, or the KIND, RCOP, OPC or MOP of an X-ISA pattern, is unassigned -/
  | opcode
  /-- step 3 of R44: the FUNC8 value is unassigned in its family -/
  | function
  /-- step 4 of R44: a field breaks its limits -/
  | field
deriving DecidableEq, Repr

def Size.code : Size → BitVec 2
  | .b => 0 | .h => 1 | .w => 2 | .d => 3

def Size.decode (v : BitVec 2) : Size :=
  if v = 0 then .b else if v = 1 then .h else if v = 2 then .w else .d

def Order.code : Order → BitVec 3
  | .plain => 0 | .acq => 1 | .rel => 2 | .acqRel => 3 | .sc => 4

def Order.decode (v : BitVec 3) : Option Order :=
  if v = 0 then some .plain else if v = 1 then some .acq else if v = 2 then some .rel
  else if v = 3 then some .acqRel else if v = 4 then some .sc else none

def Scope.code : Scope → BitVec 3
  | .core => 0 | .cluster => 1 | .group => 2 | .die => 3 | .package => 4 | .domain => 5 | .system => 6

def Scope.decode (v : BitVec 3) : Option Scope :=
  if v = 0 then some .core else if v = 1 then some .cluster else if v = 2 then some .group
  else if v = 3 then some .die else if v = 4 then some .package else if v = 5 then some .domain
  else if v = 6 then some .system else none

def Hint.code : Hint → BitVec 3
  | .none => 0 | .nt => 1 | .keep => 2

def Hint.decode (v : BitVec 3) : Option Hint :=
  if v = 0 then some .none else if v = 1 then some .nt else if v = 2 then some .keep else Option.none

/-- `i` when it is well formed and the bits it does not use are zero. -/
def allow (reserved : Bool) (i : Instr) : Except Reject Instr :=
  if reserved && i.wf then .ok i else .error .field

/-- A register field of an A-ISA instruction (R41): d, a, b, c at bits 50, 44, 38, 32. -/
def fd (w : Word) : Reg := w.extractLsb' 50 6
def fa (w : Word) : Reg := w.extractLsb' 44 6
def fb (w : Word) : Reg := w.extractLsb' 38 6
def fc (w : Word) : Reg := w.extractLsb' 32 6
/-- Bits [31:0]: IMM32, DISP32, OFF32, or a function's fields. -/
def lo32 (w : Word) : Word32 := w.extractLsb' 0 32
def majorOf (w : Word) : Nat := (w.extractLsb' 56 8).toNat
def func8 (w : Word) : Nat := (w.extractLsb' 0 8).toNat

/-- Opcode 0x01 (R48). -/
def decodeInteger (w : Word) : Except Reject Instr :=
  let z := w.extractLsb' 8 24 == 0
  match func8 w with
  | 0x0 => allow (z && fc w == 0) (.add (fd w) (fa w) (fb w))
  | 0x1 => allow (z && fc w == 0) (.sub (fd w) (fa w) (fb w))
  | 0x2 => allow (z && fc w == 0) (.addw (fd w) (fa w) (fb w))
  | 0x3 => allow (z && fc w == 0) (.subw (fd w) (fa w) (fb w))
  | 0x4 => allow (z && fc w == 0) (.and (fd w) (fa w) (fb w))
  | 0x5 => allow (z && fc w == 0) (.or (fd w) (fa w) (fb w))
  | 0x6 => allow (z && fc w == 0) (.xor (fd w) (fa w) (fb w))
  | 0x7 => allow (z && fc w == 0) (.andn (fd w) (fa w) (fb w))
  | 0x8 => allow (z && fc w == 0) (.orn (fd w) (fa w) (fb w))
  | 0x9 => allow (z && fc w == 0) (.xnor (fd w) (fa w) (fb w))
  | 0xa => allow (z && fc w == 0) (.sll (fd w) (fa w) (fb w))
  | 0xb => allow (z && fc w == 0) (.srl (fd w) (fa w) (fb w))
  | 0xc => allow (z && fc w == 0) (.sra (fd w) (fa w) (fb w))
  | 0xd => allow (z && fc w == 0) (.rol (fd w) (fa w) (fb w))
  | 0xe => allow (z && fc w == 0) (.ror (fd w) (fa w) (fb w))
  | 0x10 => allow (z && fc w == 0) (.mul (fd w) (fa w) (fb w))
  | 0x11 => allow (z && fc w == 0) (.mulh (fd w) (fa w) (fb w))
  | 0x12 => allow (z && fc w == 0) (.mulhu (fd w) (fa w) (fb w))
  | 0x13 => allow (z && fc w == 0) (.mulhsu (fd w) (fa w) (fb w))
  | 0x14 => allow (z && fc w == 0) (.mulw (fd w) (fa w) (fb w))
  | 0x15 => allow z (.madd (fd w) (fa w) (fb w) (fc w))
  | 0x16 => allow (z && fc w == 0) (.div (fd w) (fa w) (fb w))
  | 0x17 => allow (z && fc w == 0) (.divu (fd w) (fa w) (fb w))
  | 0x18 => allow (z && fc w == 0) (.rem (fd w) (fa w) (fb w))
  | 0x19 => allow (z && fc w == 0) (.remu (fd w) (fa w) (fb w))
  | 0x1a => allow (z && fc w == 0) (.min (fd w) (fa w) (fb w))
  | 0x1b => allow (z && fc w == 0) (.max (fd w) (fa w) (fb w))
  | 0x1c => allow (z && fc w == 0) (.minu (fd w) (fa w) (fb w))
  | 0x1d => allow (z && fc w == 0) (.maxu (fd w) (fa w) (fb w))
  | 0x1e => allow (z && fc w == 0) (.slt (fd w) (fa w) (fb w))
  | 0x1f => allow (z && fc w == 0) (.sltu (fd w) (fa w) (fb w))
  | 0x20 => allow (z && fc w == 0) (.seq (fd w) (fa w) (fb w))
  | 0x21 => allow (z && fc w == 0) (.sne (fd w) (fa w) (fb w))
  | 0x22 => allow z (.sel (fd w) (fa w) (fb w) (fc w))
  | 0x23 => allow (z && fb w == 0 && fc w == 0) (.clz (fd w) (fa w))
  | 0x24 => allow (z && fb w == 0 && fc w == 0) (.ctz (fd w) (fa w))
  | 0x25 => allow (z && fb w == 0 && fc w == 0) (.popc (fd w) (fa w))
  | 0x26 => allow (z && fb w == 0 && fc w == 0) (.brev (fd w) (fa w))
  | 0x27 => allow (z && fb w == 0 && fc w == 0) (.bswap (fd w) (fa w))
  | 0x28 => allow z (.bfx (fd w) (fa w) (fb w) (fc w))
  | 0x29 => allow z (.bfxu (fd w) (fa w) (fb w) (fc w))
  | 0x2a => allow z (.bfi (fd w) (fa w) (fb w) (fc w))
  | _ => .error .function

/-- Opcodes 0x10 to 0x1F (R50, R127). -/
def decodeImmediate (w : Word) : Except Reject Instr :=
  let z := w.extractLsb' 32 12 == 0
  match majorOf w with
  | 0x10 => allow z (.addi (fd w) (fa w) (lo32 w))
  | 0x11 => allow z (.addiw (fd w) (fa w) (lo32 w))
  | 0x12 => allow z (.andi (fd w) (fa w) (lo32 w))
  | 0x13 => allow z (.ori (fd w) (fa w) (lo32 w))
  | 0x14 => allow z (.xori (fd w) (fa w) (lo32 w))
  | 0x15 => allow z (.slli (fd w) (fa w) (lo32 w))
  | 0x16 => allow z (.srli (fd w) (fa w) (lo32 w))
  | 0x17 => allow z (.srai (fd w) (fa w) (lo32 w))
  | 0x18 => allow z (.slti (fd w) (fa w) (lo32 w))
  | 0x19 => allow z (.sltiu (fd w) (fa w) (lo32 w))
  | 0x1a => allow (z && fa w == 0) (.li (fd w) (lo32 w))
  | 0x1b => allow z (.lih (fd w) (fa w) (lo32 w))
  | 0x1c => allow z (.muli (fd w) (fa w) (lo32 w))
  | 0x1d => allow z (.bfxi (fd w) (fa w) (lo32 w))
  | 0x1e => allow z (.bfxui (fd w) (fa w) (lo32 w))
  | 0x1f => allow z (.bfii (fd w) (fa w) (lo32 w))
  | _ => .error .opcode

/-- Opcodes 0x20 to 0x24 (R50, R129 to R132). -/
def decodeControl (w : Word) : Except Reject Instr :=
  let z := w.extractLsb' 36 8 == 0
  let cond := w.extractLsb' 32 4
  let one := z && cond == 0 && fa w == 0
  match majorOf w with
  | 0x20 =>
    match cond.toNat with
    | 0 => allow z (.beq (fd w) (fa w) (lo32 w))
    | 1 => allow z (.bne (fd w) (fa w) (lo32 w))
    | 2 => allow z (.blt (fd w) (fa w) (lo32 w))
    | 3 => allow z (.bge (fd w) (fa w) (lo32 w))
    | 4 => allow z (.bltu (fd w) (fa w) (lo32 w))
    | 5 => allow z (.bgeu (fd w) (fa w) (lo32 w))
    | _ => .error .field
  | 0x21 => allow (one && fd w == 0) (.j (lo32 w))
  | 0x22 => allow one (.jal (fd w) (lo32 w))
  | 0x23 => allow (w.extractLsb' 32 12 == 0) (.jalr (fd w) (fa w) (lo32 w))
  | 0x24 => allow one (.loop (fd w) (lo32 w))
  | _ => .error .opcode

/-- Opcodes 0x30 to 0x35 (R41, R42, R47). -/
def decodeMemory (w : Word) : Except Reject Instr :=
  match Order.decode (w.extractLsb' 39 3), Scope.decode (w.extractLsb' 36 3), Hint.decode (w.extractLsb' 32 3) with
  | some ord, some sc, some hint =>
    let sz := w.extractLsb' 42 2
    let sign := w.extractLsb' 35 1 == 1
    let plain := sz == 0 && !sign
    let m : MemMod := ⟨Size.decode sz, ord, sc, sign, hint⟩
    match majorOf w with
    | 0x30 => allow true (.ld (fd w) (fa w) m (lo32 w))
    | 0x31 => allow true (.st (fd w) (fa w) m (lo32 w))
    | 0x32 => allow (plain && ord == .plain && fd w == 0) (.pf (fa w) sc hint (lo32 w))
    | 0x33 => allow (plain && ord == .plain && hint == .none && fd w == 0) (.cwb (fa w) sc (lo32 w))
    | 0x34 => allow (plain && ord == .plain && hint == .none && fd w == 0) (.cinv (fa w) sc (lo32 w))
    | 0x35 => allow (plain && hint == .none && fd w == 0 && fa w == 0 && lo32 w == 0) (.fence ord sc)
    | _ => .error .opcode
  | _, _, _ => .error .field

/-- Opcodes 0x40 to 0x4A (R51). -/
def decodeAtomic (w : Word) : Except Reject Instr :=
  match Order.decode (w.extractLsb' 39 3), Scope.decode (w.extractLsb' 36 3) with
  | some ord, some sc =>
    let z := w.extractLsb' 43 1 == 1 && w.extractLsb' 32 4 == 0
    let m : AtomMod := ⟨w.extractLsb' 42 1 == 1, ord, sc⟩
    let b : Reg := w.extractLsb' 26 6
    let c : Reg := w.extractLsb' 20 6
    let off := w.extractLsb' 0 20
    match majorOf w with
    | 0x40 => allow (z && c == 0) (.aadd (fd w) (fa w) b m off)
    | 0x41 => allow (z && c == 0) (.aand (fd w) (fa w) b m off)
    | 0x42 => allow (z && c == 0) (.aor (fd w) (fa w) b m off)
    | 0x43 => allow (z && c == 0) (.axor (fd w) (fa w) b m off)
    | 0x44 => allow (z && c == 0) (.amin (fd w) (fa w) b m off)
    | 0x45 => allow (z && c == 0) (.amax (fd w) (fa w) b m off)
    | 0x46 => allow (z && c == 0) (.aminu (fd w) (fa w) b m off)
    | 0x47 => allow (z && c == 0) (.amaxu (fd w) (fa w) b m off)
    | 0x48 => allow (z && c == 0) (.aswap (fd w) (fa w) b m off)
    | 0x49 => allow z (.acas (fd w) (fa w) b c m off)
    | 0x4a => allow (z && c == 0) (.afadd (fd w) (fa w) b m off)
    | _ => .error .opcode
  | _, _ => .error .field

/-- Opcode 0x50 (R52). -/
def decodeQueue (w : Word) : Except Reject Instr :=
  let imm := w.extractLsb' 16 16
  let kind := w.extractLsb' 12 4
  let q := w.extractLsb' 8 4
  let zi := imm == 0
  let zk := kind == 0
  match func8 w with
  | 0 => allow (zi && fd w == 0 && fb w == 0 && fc w == 0) (.qpush (fa w) kind q)
  | 1 => allow (fd w == 0 && fa w == 0 && fb w == 0 && fc w == 0) (.qpushi imm kind q)
  | 2 => allow (zi && zk && fa w == 0 && fc w == 0) (.qpop (fd w) (fb w) q)
  | 3 => allow (zi && zk && fa w == 0) (.qtry (fd w) (fb w) (fc w) q)
  | 4 => allow (zi && zk && q == 0 && fa w == 0 && fb w == 0 && fc w == 0) (.bqpop (fd w))
  | 5 => allow (zi && zk && q == 0 && fa w == 0 && fb w == 0) (.bqtry (fd w) (fc w))
  | 6 => allow (zi && zk && fa w == 0 && fb w == 0 && fc w == 0) (.qstat (fd w) q)
  | _ => .error .function

/-- Opcode 0x58 (R53). -/
def decodeCopy (w : Word) : Except Reject Instr :=
  let z := w.extractLsb' 24 3 == 0 && w.extractLsb' 11 10 == 0
  let ring := w.extractLsb' 21 3
  let flag := w.extractLsb' 28 1 == 1
  let crc := w.extractLsb' 27 1 == 1
  let token := w.extractLsb' 8 3
  let zr := z && ring == 0
  let zreg := fa w == 0 && fb w == 0 && fc w == 0
  match Scope.decode (w.extractLsb' 29 3) with
  | none => if func8 w < 6 then .error .field else .error .function
  | some sc =>
    let e : CopyMod := ⟨sc, flag, crc, token⟩
    let zf := flag || fd w == 0
    match func8 w with
    | 0 => allow (zr && zf) (.copy (fd w) (fa w) (fb w) (fc w) e)
    | 1 => allow (zr && zf) (.copy2 (fd w) (fa w) (fb w) (fc w) e)
    | 2 => allow (z && zf) (.copyr (fd w) (fa w) (fb w) (fc w) ring e)
    | 3 => allow (z && zf) (.copyrg (fd w) (fa w) (fb w) (fc w) ring e)
    | 4 => allow (zr && zreg && fd w == 0 && !flag && !crc && sc == .core) (.twait token)
    | 5 => allow (zr && zreg && !flag && sc == .core)
        (if crc then .tqueryCrc (fd w) token else .tquery (fd w) token)
    | _ => .error .function

/-- Opcode 0x60 (R54). -/
def decodeStream (w : Word) : Except Reject Instr :=
  let zc := fc w == 0
  let zs := w.extractLsb' 11 1 == 0 && w.extractLsb' 14 3 == 0 && w.extractLsb' 24 5 == 0
  let zgo := w.extractLsb' 17 15 == 0
  let only := zs && zgo && w.extractLsb' 12 2 == 0
  let st := w.extractLsb' 8 3
  let zreg := fd w == 0 && fb w == 0
  match func8 w with
  | 0 => allow (zc && only && zreg) (.sbase st (fa w))
  | 1 => allow (zc && zs && zgo && fd w == 0) (.sdim st (w.extractLsb' 12 2) (fa w) (fb w))
  | 2 =>
    match Scope.decode (w.extractLsb' 29 3) with
    | none => .error .field
    | some sc =>
      let q := w.extractLsb' 20 4
      let sz := Size.decode (w.extractLsb' 18 2)
      allow (zc && zs && w.extractLsb' 12 2 == 0 && zreg && fa w == 0)
        (if w.extractLsb' 17 1 == 1 then .sgoSt st q sz sc else .sgoLd st q sz sc)
  | 3 => allow (zc && only && zreg && fa w == 0) (.sstop st)
  | 4 => allow (zc && only && zreg && fa w == 0) (.sresume st)
  | 5 => allow (zc && zreg && fa w == 0 && w.extractLsb' 16 16 == 0) (.sbar (w.extractLsb' 8 8))
  | _ => .error .function

/-- Opcode 0x68 (R55). -/
def decodeFibre (w : Word) : Except Reject Instr :=
  let gid := w.extractLsb' 24 8
  let zg := w.extractLsb' 8 16 == 0
  let zr := fa w == 0 && fb w == 0 && fc w == 0
  match func8 w with
  | 0 => allow (gid == 0 && w.extractLsb' 8 8 == 0)
      (.fnode (fd w) (fa w) (fb w) (fc w) (w.extractLsb' 20 4) (w.extractLsb' 16 4))
  | 1 => allow (zr && fd w == 0 && w.extractLsb' 8 4 == 0)
      (.fedge ⟨w.extractLsb' 28 4, w.extractLsb' 24 4, w.extractLsb' 22 2, w.extractLsb' 18 4,
        w.extractLsb' 14 4, w.extractLsb' 12 2⟩)
  | 2 => allow (zg && zr) (.fgo (fd w) gid)
  | 3 => allow (zg && zr) (.fwait (fd w) gid)
  | 4 => allow (zg && zr && fd w == 0) (.fkill gid)
  | 5 => allow (zg && zr && fd w == 0) (.fresume gid)
  | _ => .error .function

/-- Opcode 0x70 (R56). -/
def decodeSync (w : Word) : Except Reject Instr :=
  match func8 w with
  | 0 => allow (fc w == 0 && w.extractLsb' 14 18 == 0 && w.extractLsb' 13 1 == 1 && w.extractLsb' 10 2 == 0)
      (.waita (fd w) (fa w) (fb w) (w.extractLsb' 12 1 == 1) (w.extractLsb' 8 2))
  | 1 =>
    match Scope.decode (w.extractLsb' 29 3) with
    | none => .error .field
    | some sc => allow (fd w == 0 && fc w == 0 && w.extractLsb' 8 21 == 0) (.bar (fa w) (fb w) sc)
  | 2 => allow (fa w == 0 && fb w == 0 && fc w == 0 && w.extractLsb' 8 24 == 0) (.evwait (fd w))
  | 3 => allow (fd w == 0 && w.extractLsb' 8 24 == 0) (.evpost (fa w) (fb w) (fc w))
  | _ => .error .function

/-- Opcodes 0x78 and 0x7C (R57). -/
def decodeAlloc (w : Word) : Except Reject Instr :=
  let z := w.extractLsb' 8 24 == 0 && fc w == 0
  match func8 w with
  | 0 => allow z (.alloc (fd w) (fa w) (fb w))
  | 1 => allow (z && fd w == 0 && fb w == 0) (.free (fa w))
  | 2 => allow (z && fd w == 0 && fb w == 0) (.freeD (fa w))
  | _ => .error .function

def decodeNet (w : Word) : Except Reject Instr :=
  let z := w.extractLsb' 8 21 == 0 && fc w == 0
  match func8 w with
  | 1 => allow (z && fb w == 0 && w.extractLsb' 29 3 == 0) (.nrecv (fd w) (fa w))
  | f =>
    match Scope.decode (w.extractLsb' 29 3) with
    | none => if f < 3 then .error .field else .error .function
    | some sc =>
      if f = 0 then allow (z && fb w == 0) (.nsend (fd w) (fa w) sc)
      else if f = 2 then allow z (.ssubmit (fd w) (fa w) (fb w) sc)
      else .error .function

/-- Opcodes 0x80 and 0x88 (R58). -/
def decodeTask (w : Word) : Except Reject Instr :=
  let z := fb w == 0 && fc w == 0
  let zi := w.extractLsb' 8 24 == 0
  let none_ := z && zi && fd w == 0 && fa w == 0
  match func8 w with
  | 0 => allow (z && zi) (.launch (fd w) (fa w))
  | 1 =>
    let ok := z && fd w == 0 && w.extractLsb' 10 22 == 0
    match (w.extractLsb' 8 2).toNat with
    | 0 => allow ok (.cancelTask (fa w))
    | 1 => allow ok (.cancelLaunch (fa w))
    | 2 => allow ok (.cancelGraph (fa w))
    | _ => allow ok (.cancelJob (fa w))
  | 2 => allow none_ .exit
  | 3 => allow none_ .exitAbort
  | 4 => allow none_ .yield
  | 5 => allow (z && zi) (.spawn (fd w) (fa w))
  | _ => .error .function

def decodeSystem (w : Word) : Except Reject Instr :=
  let z := fb w == 0 && fc w == 0
  let zh := w.extractLsb' 24 8 == 0
  let zi := w.extractLsb' 8 24 == 0
  match func8 w with
  | 0 => allow (z && zh && fd w == 0) (.syscall (fa w) (w.extractLsb' 8 16))
  | 1 => allow (z && zh && fd w == 0 && fa w == 0) (.trap (w.extractLsb' 8 16))
  | 2 => allow (z && zi && fd w == 0 && fa w == 0) .rte
  | 3 => allow (z && fa w == 0 && w.extractLsb' 20 12 == 0) (.getcw (fd w) (w.extractLsb' 8 12))
  | 4 => allow (z && fd w == 0 && w.extractLsb' 20 12 == 0) (.setcw (w.extractLsb' 8 12) (fa w))
  | 5 => allow (z && zi && fa w == 0) (.cyc (fd w))
  | _ => .error .function

/-- Opcode 0x90 (R58; 12 R382 to R390, 13 R414, R415). -/
def decodeSupervisor (w : Word) : Except Reject Instr :=
  let mode := w.extractLsb' 8 2
  let zm := w.extractLsb' 10 22 == 0
  let zi := w.extractLsb' 8 24 == 0
  let zb := fb w == 0
  let zc := fc w == 0
  match func8 w with
  | 0 =>
    match mode.toNat with
    | 0 => allow (zm && zc) (.tlbinvPage (fd w) (fa w) (fb w))
    | 1 => allow zm (.tlbinvRange (fd w) (fa w) (fb w) (fc w))
    | 2 => allow (zm && zb && zc) (.tlbinvJob (fd w) (fa w))
    | _ => allow (zm && zb && zc && fa w == 0) (.tlbinvAll (fd w))
  | 1 => allow zi (.acctab (fd w) (fa w) (fb w) (fc w))
  | 2 => allow (zi && zb && zc) (.freeze (fd w) (fa w))
  | 3 => allow (zi && zb && zc) (.thaw (fd w) (fa w))
  | 4 => allow (zi && zc) (.preempt (fd w) (fa w) (fb w))
  | 5 =>
    match mode.toNat with
    | 0 => allow (zm && zb && zc) (.resumeTask (fd w) (fa w))
    | 1 => allow (zm && zb && zc) (.resumeRetry (fd w) (fa w))
    | 2 => allow (zm && zb && zc) (.resumeDeliver (fd w) (fa w))
    | _ => allow (zm && zb && zc) (.resumeKill (fd w) (fa w))
  | 6 => allow zi (.migrate (fd w) (fa w) (fb w) (fc w))
  | _ => .error .function

/-- An A-ISA dword (R46). -/
def decode (w : Word) : Except Reject Instr :=
  let op := majorOf w
  if op = 0x01 then decodeInteger w
  else if op = 0x05 then
    allow (fc w == 0) (.lea (fd w) (fa w) (fb w) (w.extractLsb' 29 3) (w.extractLsb' 0 29))
  else if 0x10 ≤ op ∧ op ≤ 0x1F then decodeImmediate w
  else if 0x20 ≤ op ∧ op ≤ 0x24 then decodeControl w
  else if 0x30 ≤ op ∧ op ≤ 0x35 then decodeMemory w
  else if 0x40 ≤ op ∧ op ≤ 0x4A then decodeAtomic w
  else if op = 0x50 then decodeQueue w
  else if op = 0x58 then decodeCopy w
  else if op = 0x60 then decodeStream w
  else if op = 0x68 then decodeFibre w
  else if op = 0x70 then decodeSync w
  else if op = 0x78 then decodeAlloc w
  else if op = 0x7C then decodeNet w
  else if op = 0x80 then decodeTask w
  else if op = 0x88 then decodeSystem w
  else if op = 0x90 then decodeSupervisor w
  else .error .opcode

/-- The fields of a 48-bit PE operation (R63). -/
def peFields (w : BitVec 48) : PeF :=
  ⟨w.extractLsb' 37 4, w.extractLsb' 31 6, w.extractLsb' 25 6, w.extractLsb' 19 6, w.extractLsb' 16 3,
    w.extractLsb' 14 2, w.extractLsb' 13 1 == 1, w.extractLsb' 12 1 == 1, w.extractLsb' 6 6, w.extractLsb' 4 2,
    w.extractLsb' 0 4⟩

/-- A PE operation (R63 to R67). -/
def decodePe (w : BitVec 48) : Except Reject Instr :=
  let f := peFields w
  match (w.extractLsb' 41 7).toNat with
  | 0 => if w = 0 then .ok .nop else .error .field
  | 0x1 => allow true (.fadd f)
  | 0x2 => allow true (.fsub f)
  | 0x3 => allow true (.fmul f)
  | 0x4 => allow true (.ffma f)
  | 0x5 => allow true (.ffms f)
  | 0x6 => allow true (.fnfma f)
  | 0x7 => allow true (.fmin f)
  | 0x8 => allow true (.fmax f)
  | 0x9 => allow true (.fabs f)
  | 0xa => allow true (.fneg f)
  | 0xb => allow true (.fceq f)
  | 0xc => allow true (.fclt f)
  | 0xd => allow true (.fcle f)
  | 0xe => allow true (.frcp f)
  | 0xf => allow true (.frsq f)
  | 0x10 => allow true (.fexp2 f)
  | 0x11 => allow true (.flog2 f)
  | 0x20 => allow true (.iadd f)
  | 0x21 => allow true (.isub f)
  | 0x22 => allow true (.imul f)
  | 0x23 => allow true (.imulh f)
  | 0x24 => allow true (.iand f)
  | 0x25 => allow true (.ior f)
  | 0x26 => allow true (.ixor f)
  | 0x27 => allow true (.ishl f)
  | 0x28 => allow true (.ishr f)
  | 0x29 => allow true (.isra f)
  | 0x2a => allow true (.imin f)
  | 0x2b => allow true (.imax f)
  | 0x2c => allow true (.iceq f)
  | 0x2d => allow true (.iclt f)
  | 0x2e => allow true (.iabs f)
  | 0x2f => allow true (.iaddsat f)
  | 0x30 => allow true (.cvt f)
  | 0x31 => allow true (.cvtSat f)
  | 0x32 => allow true (.pk8 f)
  | 0x33 => allow true (.upk8 f)
  | 0x34 => allow true (.bscale f)
  | 0x38 => allow true (.mov f)
  | 0x39 => allow true (.lshuf f)
  | 0x3a => allow true (.lbcast f)
  | 0x3b => allow true (.lrot f)
  | 0x3c => allow true (.redadd f)
  | 0x3d => allow true (.redmax f)
  | 0x3e => allow true (.redmin f)
  | 0x3f => allow true (.peSel f)
  | 0x40 => allow true (.accs f)
  | 0x41 => allow true (.qdrop f)
  | 0x42 => allow true (.tkind f)
  | _ => .error .opcode

/-- The fields of a 192-bit matrix command (R68). -/
def matFields (w : BitVec 192) : MatF :=
  ⟨w.extractLsb' 185 3, w.extractLsb' 182 3, w.extractLsb' 179 3, w.extractLsb' 177 2, w.extractLsb' 173 4,
    w.extractLsb' 172 1 == 1, w.extractLsb' 171 1 == 1, w.extractLsb' 170 1 == 1, w.extractLsb' 169 1 == 1,
    w.extractLsb' 117 48, w.extractLsb' 85 32, w.extractLsb' 77 8, w.extractLsb' 73 4, w.extractLsb' 69 4,
    w.extractLsb' 53 16, w.extractLsb' 50 3⟩

/-- A matrix command (R68, R69). -/
def decodeMatrix (w : BitVec 192) : Except Reject Instr :=
  let f := matFields w
  let z := w.extractLsb' 165 4 == 0 && w.extractLsb' 0 50 == 0
  match (w.extractLsb' 188 4).toNat with
  | 0 => allow z (.mma f)
  | 1 => allow z (.mzero f)
  | 2 => allow z (.mload f)
  | 3 => allow z (.mdrain f)
  | 4 => allow z (.simmer f)
  | 5 => allow (z && f == matNone) .simstop
  | 6 => allow (z && f == matNone) .mstat
  | 7 => allow (z && f == matNone) .mfence
  | _ => .error .opcode

/-- The row control of a bundle header (R61); none where the header carries no row control. -/
def decodeRowControl (h : Word) : Except Reject (Option Instr) :=
  let target := h.extractLsb' 46 9
  let arg := h.extractLsb' 32 14
  let imm := lo32 h
  let zt := target == 0
  let some_ (ok : Bool) (i : Instr) : Except Reject (Option Instr) :=
    if ok && i.wf then .ok (some i) else .error .field
  match (h.extractLsb' 55 4).toNat with
  | 0 => if zt && arg == 0 then .ok none else .error .field
  | 1 => some_ (arg == 0) (.jmp target)
  | 2 => some_ (h.extractLsb' 32 6 == 0) (.brTok (h.extractLsb' 42 4) (h.extractLsb' 38 4) target)
  | 3 => some_ (zt && h.extractLsb' 32 12 == 0) (.loopRow (h.extractLsb' 44 2) imm)
  | 4 => some_ (h.extractLsb' 32 12 == 0) (.endloop (h.extractLsb' 44 2) target)
  | 5 => some_ (zt && h.extractLsb' 32 9 == 0) (.bqpush (h.extractLsb' 44 2) (h.extractLsb' 41 3))
  | 6 => some_ (zt && arg == 0) .halt
  | _ => .error .opcode

/-- A bundle as its row meets it (R60, R62). -/
inductive BundleForm where
  | normal (sync : Bool) (ops : List Instr) (control : Option Instr) (imm : Word32)
  | matrix (sync : Bool) (command : Instr)
  | theEnd
deriving DecidableEq, Repr

def Bundle.header (b : Bundle) : Word := b.extractLsb' 192 64
def Bundle.sync (b : Bundle) : Bool := b.extractLsb' 251 1 == 1
/-- PE slot `k`: pe0 in [191:144], pe3 in [47:0] (R60). -/
def Bundle.slot (b : Bundle) (k : Nat) : BitVec 48 := b.extractLsb' (144 - 48 * k) 48

def okOf (x : Except Reject Instr) : Option Instr := match x with | .ok i => some i | .error _ => none

/-- The bundle, or the SLOT of the first part in breach of R60 to R69 (05 R167). -/
def decodeBundle (b : Bundle) : Except Nat BundleForm :=
  let h := b.header
  match (h.extractLsb' 60 4).toNat with
  | 0 =>
    match decodeRowControl h with
    | .error _ => .error 4
    | .ok rc =>
      match okOf (decodePe (b.slot 0)), okOf (decodePe (b.slot 1)), okOf (decodePe (b.slot 2)),
          okOf (decodePe (b.slot 3)) with
      | none, _, _, _ => .error 0
      | _, none, _, _ => .error 1
      | _, _, none, _ => .error 2
      | _, _, _, none => .error 3
      | some i0, some i1, some i2, some i3 => .ok (.normal b.sync [i0, i1, i2, i3] rc (lo32 h))
  | 1 =>
    if h.extractLsb' 0 59 ≠ 0 then .error 5
    else
      match decodeMatrix (b.extractLsb' 0 192) with
      | .error _ => .error 5
      | .ok i => .ok (.matrix b.sync i)
  | 2 => if b.extractLsb' 0 252 = 0 then .ok .theEnd else .error 5
  | _ => .error 5

/-- The instruction an opcode-table word stands for: a dword of the A-ISA, a 48-bit PE operation, a 192-bit matrix
command, or a bundle whose one content is a row control, a matrix command or END. -/
def decodeTableWord (nbits w : Nat) : Option Instr :=
  if nbits ≤ 48 then okOf (decodePe (BitVec.ofNat 48 w))
  else if nbits ≤ 64 then okOf (decode (BitVec.ofNat 64 w))
  else if nbits ≤ 192 then okOf (decodeMatrix (BitVec.ofNat 192 w))
  else
    match decodeBundle (BitVec.ofNat 256 w) with
    | .ok (.normal _ ops rc _) =>
      match rc with
      | some i => some i
      | none => (ops.find? (fun i => i != .nop)).or (some .nop)
    | .ok (.matrix _ i) => some i
    | .ok .theEnd => some .endRow
    | .error _ => none

/-! ## Encoders -/

def flagBit (b : Bool) : BitVec 1 := if b then 1 else 0

/-- R, E and S formats (R41). -/
def encR (op : BitVec 8) (d a b c : Reg) (lo : Word32) : Word := op ++ d ++ a ++ b ++ c ++ lo
/-- I format. -/
def encI (op : BitVec 8) (d a : Reg) (imm : Word32) : Word := op ++ d ++ a ++ 0#12 ++ imm
/-- B format: the first register field, the second, COND, DISP32. -/
def encB (op : BitVec 8) (a b : Reg) (cond : BitVec 4) (disp : Word32) : Word :=
  op ++ a ++ b ++ 0#8 ++ cond ++ disp
/-- M format. -/
def encM (op : BitVec 8) (d a : Reg) (m : MemMod) (lo : Word32) : Word :=
  op ++ d ++ a ++ m.size.code ++ m.order.code ++ m.scope.code ++ flagBit m.sign ++ m.hint.code ++ lo
/-- M format, atomic layout. -/
def encA (op : BitVec 8) (d a b c : Reg) (m : AtomMod) (off : BitVec 20) : Word :=
  encM op d a ⟨if m.dword then .d else .w, m.order, m.scope, false, .none⟩ (b ++ c ++ off)

/-- A FUNC8 value with the 24 bits above it. -/
def lo24 (x : BitVec 24) (f : BitVec 8) : Word32 := x ++ f

def encCopy (f : BitVec 8) (d a b c : Reg) (ring : BitVec 3) (e : CopyMod) : Word :=
  encR 0x58 d a b c (e.scope.code ++ flagBit e.flag ++ flagBit e.crc ++ 0#3 ++ ring ++ 0#10 ++ e.token ++ f)

def encStream (f : BitVec 8) (a b : Reg) (dim : BitVec 2) (st : BitVec 3) : Word :=
  encR 0x60 0 a b 0 (0#18 ++ dim ++ 0#1 ++ st ++ f)

def encSgo (store : Bool) (st : BitVec 3) (q : BitVec 4) (sz : Size) (sc : Scope) : Word :=
  encR 0x60 0 0 0 0 (sc.code ++ 0#5 ++ q ++ sz.code ++ flagBit store ++ 0#6 ++ st ++ 2#8)

/-- The dword of an A-ISA instruction; none for the others. -/
def encode : Instr → Option Word
  | .add d a b => some (encR 0x01 d a b 0 0x0)
  | .sub d a b => some (encR 0x01 d a b 0 0x1)
  | .addw d a b => some (encR 0x01 d a b 0 0x2)
  | .subw d a b => some (encR 0x01 d a b 0 0x3)
  | .and d a b => some (encR 0x01 d a b 0 0x4)
  | .or d a b => some (encR 0x01 d a b 0 0x5)
  | .xor d a b => some (encR 0x01 d a b 0 0x6)
  | .andn d a b => some (encR 0x01 d a b 0 0x7)
  | .orn d a b => some (encR 0x01 d a b 0 0x8)
  | .xnor d a b => some (encR 0x01 d a b 0 0x9)
  | .sll d a b => some (encR 0x01 d a b 0 0xa)
  | .srl d a b => some (encR 0x01 d a b 0 0xb)
  | .sra d a b => some (encR 0x01 d a b 0 0xc)
  | .rol d a b => some (encR 0x01 d a b 0 0xd)
  | .ror d a b => some (encR 0x01 d a b 0 0xe)
  | .mul d a b => some (encR 0x01 d a b 0 0x10)
  | .mulh d a b => some (encR 0x01 d a b 0 0x11)
  | .mulhu d a b => some (encR 0x01 d a b 0 0x12)
  | .mulhsu d a b => some (encR 0x01 d a b 0 0x13)
  | .mulw d a b => some (encR 0x01 d a b 0 0x14)
  | .madd d a b c => some (encR 0x01 d a b c 0x15)
  | .div d a b => some (encR 0x01 d a b 0 0x16)
  | .divu d a b => some (encR 0x01 d a b 0 0x17)
  | .rem d a b => some (encR 0x01 d a b 0 0x18)
  | .remu d a b => some (encR 0x01 d a b 0 0x19)
  | .min d a b => some (encR 0x01 d a b 0 0x1a)
  | .max d a b => some (encR 0x01 d a b 0 0x1b)
  | .minu d a b => some (encR 0x01 d a b 0 0x1c)
  | .maxu d a b => some (encR 0x01 d a b 0 0x1d)
  | .slt d a b => some (encR 0x01 d a b 0 0x1e)
  | .sltu d a b => some (encR 0x01 d a b 0 0x1f)
  | .seq d a b => some (encR 0x01 d a b 0 0x20)
  | .sne d a b => some (encR 0x01 d a b 0 0x21)
  | .sel d a b c => some (encR 0x01 d a b c 0x22)
  | .clz d a => some (encR 0x01 d a 0 0 0x23)
  | .ctz d a => some (encR 0x01 d a 0 0 0x24)
  | .popc d a => some (encR 0x01 d a 0 0 0x25)
  | .brev d a => some (encR 0x01 d a 0 0 0x26)
  | .bswap d a => some (encR 0x01 d a 0 0 0x27)
  | .bfx d a b c => some (encR 0x01 d a b c 0x28)
  | .bfxu d a b c => some (encR 0x01 d a b c 0x29)
  | .bfi d a b c => some (encR 0x01 d a b c 0x2a)
  | .lea d a b sh disp => some (encR 0x05 d a b 0 (sh ++ disp))
  | .addi d a imm => some (encI 0x10 d a imm)
  | .addiw d a imm => some (encI 0x11 d a imm)
  | .andi d a imm => some (encI 0x12 d a imm)
  | .ori d a imm => some (encI 0x13 d a imm)
  | .xori d a imm => some (encI 0x14 d a imm)
  | .slli d a imm => some (encI 0x15 d a imm)
  | .srli d a imm => some (encI 0x16 d a imm)
  | .srai d a imm => some (encI 0x17 d a imm)
  | .slti d a imm => some (encI 0x18 d a imm)
  | .sltiu d a imm => some (encI 0x19 d a imm)
  | .li d imm => some (encI 0x1a d 0 imm)
  | .lih d a imm => some (encI 0x1b d a imm)
  | .muli d a imm => some (encI 0x1c d a imm)
  | .bfxi d a imm => some (encI 0x1d d a imm)
  | .bfxui d a imm => some (encI 0x1e d a imm)
  | .bfii d a imm => some (encI 0x1f d a imm)
  | .beq a b disp => some (encB 0x20 a b 0 disp)
  | .bne a b disp => some (encB 0x20 a b 1 disp)
  | .blt a b disp => some (encB 0x20 a b 2 disp)
  | .bge a b disp => some (encB 0x20 a b 3 disp)
  | .bltu a b disp => some (encB 0x20 a b 4 disp)
  | .bgeu a b disp => some (encB 0x20 a b 5 disp)
  | .j disp => some (encB 0x21 0 0 0 disp)
  | .jal d disp => some (encB 0x22 d 0 0 disp)
  | .jalr d a imm => some (encI 0x23 d a imm)
  | .loop a disp => some (encB 0x24 a 0 0 disp)
  | .ld d a m off => some (encM 0x30 d a m off)
  | .st d a m off => some (encM 0x31 d a m off)
  | .pf a sc hint off => some (encM 0x32 0 a ⟨.b, .plain, sc, false, hint⟩ off)
  | .cwb a sc off => some (encM 0x33 0 a ⟨.b, .plain, sc, false, .none⟩ off)
  | .cinv a sc off => some (encM 0x34 0 a ⟨.b, .plain, sc, false, .none⟩ off)
  | .fence ord sc => some (encM 0x35 0 0 ⟨.b, ord, sc, false, .none⟩ 0)
  | .aadd d a b m off => some (encA 0x40 d a b 0 m off)
  | .aand d a b m off => some (encA 0x41 d a b 0 m off)
  | .aor d a b m off => some (encA 0x42 d a b 0 m off)
  | .axor d a b m off => some (encA 0x43 d a b 0 m off)
  | .amin d a b m off => some (encA 0x44 d a b 0 m off)
  | .amax d a b m off => some (encA 0x45 d a b 0 m off)
  | .aminu d a b m off => some (encA 0x46 d a b 0 m off)
  | .amaxu d a b m off => some (encA 0x47 d a b 0 m off)
  | .aswap d a b m off => some (encA 0x48 d a b 0 m off)
  | .acas d a b c m off => some (encA 0x49 d a b c m off)
  | .afadd d a b m off => some (encA 0x4a d a b 0 m off)
  | .qpush a kind q => some (encR 0x50 0 a 0 0 (0#16 ++ kind ++ q ++ 0#8))
  | .qpushi imm kind q => some (encR 0x50 0 0 0 0 (imm ++ kind ++ q ++ 1#8))
  | .qpop d b q => some (encR 0x50 d 0 b 0 (0#20 ++ q ++ 2#8))
  | .qtry d b c q => some (encR 0x50 d 0 b c (0#20 ++ q ++ 3#8))
  | .bqpop d => some (encR 0x50 d 0 0 0 4)
  | .bqtry d c => some (encR 0x50 d 0 0 c 5)
  | .qstat d q => some (encR 0x50 d 0 0 0 (0#20 ++ q ++ 6#8))
  | .waita d a b dword cond => some (encR 0x70 d a b 0 (0#18 ++ 1#1 ++ flagBit dword ++ 0#2 ++ cond ++ 0#8))
  | .bar a b sc => some (encR 0x70 0 a b 0 (sc.code ++ 0#21 ++ 1#8))
  | .evwait d => some (encR 0x70 d 0 0 0 2)
  | .evpost a b c => some (encR 0x70 0 a b c 3)
  | .copy d a b c e => some (encCopy 0 d a b c 0 e)
  | .copy2 d a b c e => some (encCopy 1 d a b c 0 e)
  | .copyr d a b c ring e => some (encCopy 2 d a b c ring e)
  | .copyrg d a b c ring e => some (encCopy 3 d a b c ring e)
  | .twait k => some (encCopy 4 0 0 0 0 0 ⟨.core, false, false, k⟩)
  | .tquery d k => some (encCopy 5 d 0 0 0 0 ⟨.core, false, false, k⟩)
  | .tqueryCrc d k => some (encCopy 5 d 0 0 0 0 ⟨.core, false, true, k⟩)
  | .sbase st a => some (encStream 0 a 0 0 st)
  | .sdim st dim a b => some (encStream 1 a b dim st)
  | .sgoLd st q sz sc => some (encSgo false st q sz sc)
  | .sgoSt st q sz sc => some (encSgo true st q sz sc)
  | .sstop st => some (encStream 3 0 0 0 st)
  | .sresume st => some (encStream 4 0 0 0 st)
  | .sbar mask => some (encR 0x60 0 0 0 0 (0#16 ++ mask ++ 5#8))
  | .alloc d a b => some (encR 0x78 d a b 0 0)
  | .free a => some (encR 0x78 0 a 0 0 1)
  | .freeD a => some (encR 0x78 0 a 0 0 2)
  | .nsend d a sc => some (encR 0x7C d a 0 0 (sc.code ++ 0#21 ++ 0#8))
  | .nrecv d a => some (encR 0x7C d a 0 0 1)
  | .ssubmit d a b sc => some (encR 0x7C d a b 0 (sc.code ++ 0#21 ++ 2#8))
  | .fnode d a b c utype unit => some (encR 0x68 d a b c (0#8 ++ utype ++ unit ++ 0#8 ++ 0#8))
  | .fedge e => some (encR 0x68 0 0 0 0 (e.srcType ++ e.srcIdx ++ e.srcPort ++ e.dstType ++ e.dstIdx ++ e.dstPort ++
      0#4 ++ 1#8))
  | .fgo d gid => some (encR 0x68 d 0 0 0 (gid ++ 0#16 ++ 2#8))
  | .fwait d gid => some (encR 0x68 d 0 0 0 (gid ++ 0#16 ++ 3#8))
  | .fkill gid => some (encR 0x68 0 0 0 0 (gid ++ 0#16 ++ 4#8))
  | .fresume gid => some (encR 0x68 0 0 0 0 (gid ++ 0#16 ++ 5#8))
  | .launch d a => some (encR 0x80 d a 0 0 0)
  | .cancelTask a => some (encR 0x80 0 a 0 0 (lo24 0 1))
  | .cancelLaunch a => some (encR 0x80 0 a 0 0 (lo24 1 1))
  | .cancelGraph a => some (encR 0x80 0 a 0 0 (lo24 2 1))
  | .cancelJob a => some (encR 0x80 0 a 0 0 (lo24 3 1))
  | .exit => some (encR 0x80 0 0 0 0 2)
  | .exitAbort => some (encR 0x80 0 0 0 0 3)
  | .yield => some (encR 0x80 0 0 0 0 4)
  | .spawn d a => some (encR 0x80 d a 0 0 5)
  | .syscall a imm => some (encR 0x88 0 a 0 0 (0#8 ++ imm ++ 0#8))
  | .trap imm => some (encR 0x88 0 0 0 0 (0#8 ++ imm ++ 1#8))
  | .rte => some (encR 0x88 0 0 0 0 2)
  | .getcw d cw => some (encR 0x88 d 0 0 0 (0#12 ++ cw ++ 3#8))
  | .setcw cw a => some (encR 0x88 0 a 0 0 (0#12 ++ cw ++ 4#8))
  | .cyc d => some (encR 0x88 d 0 0 0 5)
  | .tlbinvPage d a b => some (encR 0x90 d a b 0 (lo24 0 0))
  | .tlbinvRange d a b c => some (encR 0x90 d a b c (lo24 1 0))
  | .tlbinvJob d a => some (encR 0x90 d a 0 0 (lo24 2 0))
  | .tlbinvAll d => some (encR 0x90 d 0 0 0 (lo24 3 0))
  | .acctab d a b c => some (encR 0x90 d a b c 1)
  | .freeze d a => some (encR 0x90 d a 0 0 2)
  | .thaw d a => some (encR 0x90 d a 0 0 3)
  | .preempt d a b => some (encR 0x90 d a b 0 4)
  | .resumeTask d a => some (encR 0x90 d a 0 0 (lo24 0 5))
  | .resumeRetry d a => some (encR 0x90 d a 0 0 (lo24 1 5))
  | .resumeDeliver d a => some (encR 0x90 d a 0 0 (lo24 2 5))
  | .resumeKill d a => some (encR 0x90 d a 0 0 (lo24 3 5))
  | .migrate d a b c => some (encR 0x90 d a b c 6)
  | _ => none

/-- The 48 bits of a PE operation from its OPC and fields (R63). -/
def packPe (opc : BitVec 7) (f : PeF) : BitVec 48 :=
  opc ++ f.dst ++ f.a ++ f.b ++ f.c ++ f.fmt ++ f.rnd ++ flagBit f.fi ++ flagBit f.fo ++ f.rep ++ f.step ++ f.push

/-- The 48 bits of a PE operation; none for the others. -/
def encodePe : Instr → Option (BitVec 48)
  | .nop => some 0
  | .fadd f => some (packPe 0x1 f)
  | .fsub f => some (packPe 0x2 f)
  | .fmul f => some (packPe 0x3 f)
  | .ffma f => some (packPe 0x4 f)
  | .ffms f => some (packPe 0x5 f)
  | .fnfma f => some (packPe 0x6 f)
  | .fmin f => some (packPe 0x7 f)
  | .fmax f => some (packPe 0x8 f)
  | .fabs f => some (packPe 0x9 f)
  | .fneg f => some (packPe 0xa f)
  | .fceq f => some (packPe 0xb f)
  | .fclt f => some (packPe 0xc f)
  | .fcle f => some (packPe 0xd f)
  | .frcp f => some (packPe 0xe f)
  | .frsq f => some (packPe 0xf f)
  | .fexp2 f => some (packPe 0x10 f)
  | .flog2 f => some (packPe 0x11 f)
  | .iadd f => some (packPe 0x20 f)
  | .isub f => some (packPe 0x21 f)
  | .imul f => some (packPe 0x22 f)
  | .imulh f => some (packPe 0x23 f)
  | .iand f => some (packPe 0x24 f)
  | .ior f => some (packPe 0x25 f)
  | .ixor f => some (packPe 0x26 f)
  | .ishl f => some (packPe 0x27 f)
  | .ishr f => some (packPe 0x28 f)
  | .isra f => some (packPe 0x29 f)
  | .imin f => some (packPe 0x2a f)
  | .imax f => some (packPe 0x2b f)
  | .iceq f => some (packPe 0x2c f)
  | .iclt f => some (packPe 0x2d f)
  | .iabs f => some (packPe 0x2e f)
  | .iaddsat f => some (packPe 0x2f f)
  | .cvt f => some (packPe 0x30 f)
  | .cvtSat f => some (packPe 0x31 f)
  | .pk8 f => some (packPe 0x32 f)
  | .upk8 f => some (packPe 0x33 f)
  | .bscale f => some (packPe 0x34 f)
  | .mov f => some (packPe 0x38 f)
  | .lshuf f => some (packPe 0x39 f)
  | .lbcast f => some (packPe 0x3a f)
  | .lrot f => some (packPe 0x3b f)
  | .redadd f => some (packPe 0x3c f)
  | .redmax f => some (packPe 0x3d f)
  | .redmin f => some (packPe 0x3e f)
  | .peSel f => some (packPe 0x3f f)
  | .accs f => some (packPe 0x40 f)
  | .qdrop f => some (packPe 0x41 f)
  | .tkind f => some (packPe 0x42 f)
  | _ => none

/-- The 192 bits of a matrix command from its MOP and fields (R68). -/
def packMat (mop : BitVec 4) (f : MatF) : BitVec 192 :=
  mop ++ f.ra ++ f.rb ++ f.rd ++ f.acc ++ f.mfmt ++ flagBit f.accum ++ flagBit f.timed ++ flagBit f.policy ++
    flagBit f.zero ++ 0#4 ++ f.stamp ++ f.count ++ f.dper ++ f.la ++ f.lb ++ f.trole ++ f.tthread ++ 0#50

/-- The 192 bits of a matrix command; none for the others. -/
def encodeMatrix : Instr → Option (BitVec 192)
  | .mma f => some (packMat 0 f)
  | .mzero f => some (packMat 1 f)
  | .mload f => some (packMat 2 f)
  | .mdrain f => some (packMat 3 f)
  | .simmer f => some (packMat 4 f)
  | .simstop => some (packMat 5 matNone)
  | .mstat => some (packMat 6 matNone)
  | .mfence => some (packMat 7 matNone)
  | _ => none

/-- The header of a NORMAL bundle whose row control the instruction is (R60, R61); none for the others. -/
def encodeRowControl (sync : Bool) (imm : Word32) : Instr → Option Word
  | .jmp target => some (0#4 ++ flagBit sync ++ 1#4 ++ target ++ 0#14 ++ imm)
  | .brTok q kind target => some (0#4 ++ flagBit sync ++ 2#4 ++ target ++ q ++ kind ++ 0#6 ++ imm)
  | .loopRow l count => some (0#4 ++ flagBit sync ++ 3#4 ++ 0#9 ++ l ++ 0#12 ++ count)
  | .endloop l target => some (0#4 ++ flagBit sync ++ 4#4 ++ target ++ l ++ 0#12 ++ imm)
  | .bqpush pe s => some (0#4 ++ flagBit sync ++ 5#4 ++ 0#9 ++ pe ++ s ++ 0#9 ++ imm)
  | .halt => some (0#4 ++ flagBit sync ++ 6#4 ++ 0#9 ++ 0#14 ++ imm)
  | _ => none

end Sys2Proof
end

