-- ==== Sys2Proof/Machine/Lanes.lean ====
section
/-! DEFINITION. What the PE operations compute, lane by lane (05 R143, R144, R149 to R160; 03 R113, R114). A lane is a
natural number below 2^(its width). Formats are the FMT codes of 02 R63. -/

namespace Sys2Proof.Machine

/-! ## Lanes (R143) -/

def wideFmt (fmt : Nat) : Bool := fmt == 1 || fmt == 6 || fmt == 7
def halfFmt (fmt : Nat) : Bool := fmt == 2 || fmt == 3
/-- Bits of the register a lane takes. -/
def laneWidth (fmt : Nat) : Nat := if wideFmt fmt then 64 else 32
/-- Bits of a lane that hold its value. -/
def laneBits (fmt : Nat) : Nat := if wideFmt fmt then 64 else if halfFmt fmt then 16 else 32
def laneCount (fmt : Nat) : Nat := if wideFmt fmt then 8 else 16

def lanesOf (fmt : Nat) (v : Vec) : List Nat :=
  (List.range (laneCount fmt)).map (fun i => v.toNat / 2 ^ (laneWidth fmt * i) % 2 ^ laneBits fmt)

/-- Lanes put back into a register. -/
def packLanes (fmt : Nat) : List Nat → Nat
  | [] => 0
  | x :: l => x % 2 ^ laneWidth fmt + 2 ^ laneWidth fmt * packLanes fmt l

/-- A lane-uniform value (R144). -/
def uniform (fmt v : Nat) : List Nat := List.replicate (laneCount fmt) (v % 2 ^ laneBits fmt)

/-- IMM32 as a source (R144). -/
def immLane (fmt : Nat) (imm : Word32) : Nat :=
  if fmt = 1 then imm.toNat * 2 ^ 32
  else if fmt = 6 then (sext64 imm).toNat
  else imm.toNat

def floatFmt (fmt : Nat) : Fmt := if fmt = 1 then fmtF64 else if fmt = 2 then fmtF16 else if fmt = 3 then fmtBf16 else fmtF32
def isFloat (fmt : Nat) : Bool := fmt < 4
def isSigned (fmt : Nat) : Bool := fmt == 4 || fmt == 6

/-- A lane read as an integer (R154). -/
def intLane (fmt v : Nat) : Int := if isSigned fmt then signedOf (laneWidth fmt) v else (v : Int)
/-- An integer as a lane, modulo 2^width. -/
def laneOfInt (fmt : Nat) (v : Int) : Nat := (v % (2 ^ laneWidth fmt : Int)).toNat

/-- RND, FI and FO of an operation. -/
structure Mode where
  rnd : Nat
  fi : Bool
  fo : Bool
deriving DecidableEq, Repr

def readFloat (fmt : Nat) (m : Mode) (v : Nat) : FVal := (floatFmt fmt).flushIn m.fi ((floatFmt fmt).decode v)

/-- A rounded result and its flags. -/
def roundLane (fmt : Nat) (m : Mode) (v : FVal × Flags) : Nat × Flags :=
  let r := (floatFmt fmt).round m.rnd m.fo false v.1
  ((floatFmt fmt).encode r.1, v.2 ||| r.2)

/-- Results of lanes and the union of their flags. -/
def joinLanes (l : List (Nat × Flags)) : List Nat × Flags :=
  (l.map (·.1), l.foldl (fun f x => f ||| x.2) 0)

def map1 (g : Nat → Nat × Flags) (a : List Nat) : List Nat × Flags := joinLanes (a.map g)
def map2 (g : Nat → Nat → Nat × Flags) (a b : List Nat) : List Nat × Flags :=
  joinLanes ((a.zip b).map (fun e => g e.1 e.2))
def map3 (g : Nat → Nat → Nat → Nat × Flags) (a b c : List Nat) : List Nat × Flags :=
  joinLanes ((a.zip (b.zip c)).map (fun e => g e.1 e.2.1 e.2.2))

/-! ## Floating arithmetic (R150 to R153) -/

def laneFadd (fmt : Nat) (m : Mode) (a b : Nat) : Nat × Flags :=
  roundLane fmt m (fAdd m.rnd (readFloat fmt m a) (readFloat fmt m b))
def laneFsub (fmt : Nat) (m : Mode) (a b : Nat) : Nat × Flags :=
  roundLane fmt m (fAdd m.rnd (readFloat fmt m a) (readFloat fmt m b).negate)
def laneFmul (fmt : Nat) (m : Mode) (a b : Nat) : Nat × Flags :=
  roundLane fmt m (fMul (readFloat fmt m a) (readFloat fmt m b))
def laneFfma (fmt : Nat) (m : Mode) (a b c : Nat) : Nat × Flags :=
  roundLane fmt m (fFma m.rnd (readFloat fmt m a) (readFloat fmt m b) (readFloat fmt m c))
def laneFfms (fmt : Nat) (m : Mode) (a b c : Nat) : Nat × Flags :=
  roundLane fmt m (fFma m.rnd (readFloat fmt m a) (readFloat fmt m b) (readFloat fmt m c).negate)
def laneFnfma (fmt : Nat) (m : Mode) (a b c : Nat) : Nat × Flags :=
  roundLane fmt m (fFma m.rnd (readFloat fmt m a).negate (readFloat fmt m b) (readFloat fmt m c))

/-- `fmin` and `fmax` return an operand (R151). -/
def pickLane (fmt : Nat) (f : FVal → FVal → FVal) (a b : Nat) : Nat × Flags :=
  let F := floatFmt fmt
  (F.encode (f (F.decode a) (F.decode b)), 0)
def FVal.abs : FVal → FVal
  | .nan => .nan
  | .inf _ => .inf false
  | .fin _ m e st => .fin false m e st
/-- `fabs` and `fneg` (R151). -/
def signLane (fmt : Nat) (f : FVal → FVal) (a : Nat) : Nat × Flags :=
  let F := floatFmt fmt
  (F.encode (f (F.decode a)), 0)

/-- A comparison's mask (R152): all ones at the register width of the lane. -/
def maskLane (fmt : Nat) (b : Bool) : Nat := if b then 2 ^ laneWidth fmt - 1 else 0
def cmpLane (fmt : Nat) (quiet : Bool) (f : FVal → FVal → Bool) (a b : Nat) : Nat × Flags :=
  let x := (floatFmt fmt).decode a
  let y := (floatFmt fmt).decode b
  if x.isNan || y.isNan then (0, if quiet then 0 else fNV) else (maskLane fmt (f x y), 0)

/-- `frcp`, `frsq`, `fexp2`, `flog2`: rounded to min(P, 14) bits (R153). -/
def rootLane (fmt : Nat) (m : Mode) (f : FVal → FVal × Flags) (a : Nat) : Nat × Flags :=
  let F := floatFmt fmt
  let v := f (readFloat fmt m a)
  let r := F.roundAt (min F.p 14) m.rnd m.fo false v.1
  (F.encode r.1, v.2 ||| r.2)

/-! ## Integers (R154) -/

def intOp (fmt : Nat) (f : Int → Int → Int) (a b : Nat) : Nat × Flags :=
  (laneOfInt fmt (f (intLane fmt a) (intLane fmt b)), 0)
def bitsOp (f : Nat → Nat → Nat) (a b : Nat) : Nat × Flags := (f a b, 0)
def shiftOp (fmt : Nat) (f : Nat → Nat → Int) (a b : Nat) : Nat × Flags :=
  (laneOfInt fmt (f a (b % laneWidth fmt)), 0)
def intMask (fmt : Nat) (f : Int → Int → Bool) (a b : Nat) : Nat × Flags :=
  (maskLane fmt (f (intLane fmt a) (intLane fmt b)), 0)
def addSat (fmt : Nat) (a b : Nat) : Nat × Flags :=
  let v := intLane fmt a + intLane fmt b
  let c := clampInt (laneWidth fmt) (isSigned fmt) v
  (laneOfInt fmt c, if c = v then 0 else fSAT)

/-! ## Conversions (R155) -/

/-- An integer as an exact value. -/
def ofInt (v : Int) : FVal := .fin (v < 0) v.natAbs 0 false

def cvtLane (src dst : Nat) (m : Mode) (sat : Bool) (a : Nat) : Nat × Flags :=
  let toFloat (v : FVal) : Nat × Flags :=
    let r := (floatFmt dst).round m.rnd m.fo sat v
    ((floatFmt dst).encode r.1, r.2)
  if isFloat src then
    let v := readFloat src m a
    if isFloat dst then toFloat v
    else
      let r := toInt (laneWidth dst) (isSigned dst) m.rnd sat v
      (laneOfInt dst r.1, r.2)
  else
    let v := intLane src a
    if isFloat dst then toFloat (ofInt v)
    else if sat then
      let c := clampInt (laneWidth dst) (isSigned dst) v
      (laneOfInt dst c, if c = v then 0 else fSAT)
    else (laneOfInt dst v, 0)

/-- Source lanes 0 to 7 where the widths differ; destination lanes 8 to 15 then are zero. -/
def cvtLanes (src dst : Nat) (m : Mode) (sat : Bool) (a : List Nat) : List Nat × Flags :=
  if wideFmt src = wideFmt dst then map1 (cvtLane src dst m sat) a
  else
    let r := map1 (cvtLane src dst m sat) (a.take 8)
    (r.1 ++ List.replicate (laneCount dst - 8) 0, r.2)

/-! ## Scaled packing (R156, R157) -/

/-- The control word B (R156). -/
structure Pack where
  scale : Int
  group : Nat
  sat : Bool
  inf : Bool
  isSigned : Bool
  prec : Nat
deriving DecidableEq, Repr

def Pack.of (b : Nat) : Pack :=
  { scale := signedOf 8 (b / 2 ^ 8), group := b / 2 ^ 6 % 4, sat := b.testBit 5, inf := b.testBit 4,
    isSigned := b.testBit 3, prec := b % 8 }

/-- A value times 2^k. -/
def FVal.scaled (k : Int) : FVal → FVal
  | .fin n m e st => .fin n m (e + k) st
  | v => v

def packCode (p : Pack) (m : Mode) (a : Nat) : Nat × Flags :=
  if p.prec = 0 then (if p.isSigned then 0x80 else 0xFF, fNV)
  else if p.scale = -128 then (0, 0)
  else
    let F := fmtB8 p.prec p.isSigned p.inf
    let r := F.round m.rnd m.fo p.sat ((readFloat 0 m a).scaled (-p.scale))
    (F.encode r.1, r.2)

/-- `pk8`: lanes 4g to 4g + 3; the others are kept, and read 0 here. -/
def lanePk8 (p : Pack) (m : Mode) (a : List Nat) : List Nat × Flags :=
  let r := map1 (packCode p m) a
  let lane (j : Nat) : Nat :=
    ((List.range 4).map (fun k => (r.1[4 * j + k]?.getD 0) * 2 ^ (8 * k))).sum
  ((List.range 16).map (fun i => if i / 4 = p.group then lane (i % 4) else 0), r.2)

/-- `upk8`. -/
def unpackCode (p : Pack) (m : Mode) (a : List Nat) (i : Nat) : Nat × Flags :=
  if p.prec = 0 then (fmtF32.nanCode, fNV)
  else if p.scale = -128 then (0, 0)
  else
    let c := (a[4 * p.group + i / 4]?.getD 0) / 2 ^ (8 * (i % 4)) % 256
    let F := fmtB8 p.prec p.isSigned p.inf
    let v := (F.flushIn m.fi (decode8 c p.prec p.isSigned p.inf)).scaled p.scale
    let r := fmtF32.round m.rnd m.fo false v
    (fmtF32.encode r.1, r.2)
def laneUpk8 (p : Pack) (m : Mode) (a : List Nat) : List Nat × Flags :=
  joinLanes ((List.range 16).map (unpackCode p m a))

/-- The largest magnitude among finite lanes, as mantissa and exponent. -/
def largest (m : Mode) (a : List Nat) : Nat × Int :=
  a.foldl (fun x v =>
    match readFloat 0 m v with
    | .fin _ k e _ => if k != 0 && (x.1 == 0 || !(magLe k e x.1 x.2)) then (k, e) else x
    | _ => x) (0, 0)

/-- The least s with m × 2^−s ≤ MAXF: from the exponents, or one more. -/
def leastScale (F : Fmt) (k : Nat) (e : Int) : Int :=
  let s := topExp k e - topExp F.maxm F.maxe
  if magLe k (e - s) F.maxm F.maxe then s else s + 1

/-- `bscale`. -/
def laneBscale (p : Pack) (m : Mode) (a : List Nat) : List Nat × Flags :=
  let out (v : Int) (f : Flags) : List Nat × Flags := (List.replicate 16 (laneOfInt 4 v), f)
  if p.prec = 0 then out (-128) fNV
  else
    let x := largest m a
    if x.1 = 0 then out (-128) 0
    else
      let s := leastScale (fmtB8 p.prec p.isSigned p.inf) x.1 x.2
      let c := max (-127) (min 127 s)
      out c (if c = s then 0 else fSAT)

/-! ## Lanes and reductions (R159, R160, R113) -/

def laneShuf (a b : List Nat) : List Nat := b.map (fun k => a[k % a.length]?.getD 0)
def laneBcast (a b : List Nat) : List Nat := a.map (fun _ => a[(b.head?.getD 0) % a.length]?.getD 0)
def laneRot (a b : List Nat) : List Nat :=
  (List.range a.length).map (fun i => a[(i + b.head?.getD 0) % a.length]?.getD 0)
def laneSel (a b c : List Nat) : List Nat :=
  (a.zip (b.zip c)).map (fun e => if e.2.2 ≠ 0 then e.1 else e.2.1)

/-- One level of pairwise sums (R113). -/
def pairLevel (f : Nat → Nat → Nat × Flags) : List Nat → List (Nat × Flags)
  | x :: y :: l => f x y :: pairLevel f l
  | _ => []

def reduceLevels (f : Nat → Nat → Nat × Flags) : (fuel : Nat) → List Nat × Flags → Nat × Flags
  | 0, a => (a.1.head?.getD 0, a.2)
  | n + 1, a =>
    let r := joinLanes (pairLevel f a.1)
    reduceLevels f n (r.1, a.2 ||| r.2)

/-- One addition of R113 and R114. -/
def sumLane (fmt : Nat) (m : Mode) (a b : Nat) : Nat × Flags :=
  if isFloat fmt then laneFadd fmt m a b else ((a + b) % 2 ^ laneWidth fmt, 0)

def laneRedadd (fmt : Nat) (m : Mode) (a : List Nat) : Nat × Flags :=
  reduceLevels (sumLane fmt m) (Nat.log2 a.length) (a, 0)

/-- `redmax` and `redmin`: NaN lanes are skipped; FI and FO act on inputs and result (DEDUCED, log 20). -/
def laneRedpick (fmt : Nat) (m : Mode) (pick : FVal → FVal → FVal) (ipick : Int → Int → Int) (a : List Nat) :
    Nat × Flags :=
  if isFloat fmt then
    let v := a.foldl (fun x k => pick x (readFloat fmt m k)) .nan
    roundLane fmt { m with rnd := 0 } (v, 0)
  else
    match a with
    | [] => (0, 0)
    | x :: l => (laneOfInt fmt (l.foldl (fun y k => ipick y (intLane fmt k)) (intLane fmt x)), 0)

end Sys2Proof.Machine
end

