-- ==== Sys2Proof/Machine/PeOps.lean ====
section
/-! DEFINITION. The execute array (05 R136 to R163): what a PE reads, where its result goes, and the meaning of each
operation, for repetition `cur.rep` in slot `cur.pe` of row `cur.row` of core `cur.m`. A unit of rows moves only when
every slot can complete its queue actions (R139), which Machine/Rows.lean checks; an operation that is executed where its
entry or its place is missing changes nothing. -/

namespace Sys2Proof.Machine

/-! ## Rows, PEs and bundles -/

/-- A bundle past the loaded ones holds END (02 R80). -/
def endBundle : Bundle := 2#4 ++ 0#252

def Core.row (c : Core) (r : Nat) : Row := Tab.get {} c.rows r
def Core.setRow (c : Core) (r : Nat) (x : Row) : Core := { c with rows := Tab.put c.rows r x }
def Core.pe (c : Core) (i : Nat) : Pe := Tab.get {} c.pes i
def Core.setPe (c : Core) (i : Nat) (x : Pe) : Core := { c with pes := Tab.put c.pes i x }
def Core.bundle (c : Core) (r i : Nat) : Bundle := Tab.get endBundle c.store (512 * r + i)
/-- IMM32 of a row's current bundle. -/
def Core.imm (c : Core) (r : Nat) : Word32 := ((c.bundle r (c.row r).pc).extractLsb' 192 32)

/-- PEs are numbered 4 × row + slot. -/
def peIndex (row slot : Nat) : Nat := 4 * (row % 4) + slot % 4
def State.myRow (s : State) : Row := s.myCore.row s.cur.row
def State.modMyRow (s : State) (f : Row → Row) : State :=
  s.modMyCore (fun c => c.setRow s.cur.row (f (c.row s.cur.row)))
def State.myPe (s : State) : Pe := s.myCore.pe (peIndex s.cur.row s.cur.pe)
def State.modMyPe (s : State) (f : Pe → Pe) : State :=
  s.modMyCore (fun c => c.setPe (peIndex s.cur.row s.cur.pe) (f (c.pe (peIndex s.cur.row s.cur.pe))))

/-- The faulting row of a cycle is the lowest (R169). The array freezes at the end of the cycle. -/
def Core.fault (c : Core) (x : XFault) : Core :=
  match c.xfault with
  | none => { c with xfault := some x }
  | some y => if x.row < y.row then { c with xfault := some x } else c

def State.slotFault (s : State) (cause : Nat) : State :=
  s.modMyCore (fun c => c.fault { row := s.cur.row, cause, slot := s.cur.pe, bundle := (c.row s.cur.row).pc })

/-! ## Latency windows (R145) -/

/-- A destination lies in the window of an operation issued before cycle `cyc` whose result has not landed. -/
def Pe.open_ (p : Pe) (cyc : Nat) (isS : Bool) (r : Nat) : Bool :=
  p.flight.any (fun f => f.issued < cyc && f.isS == isS && f.dst == some r)

/-- `who` numbers the PE. -/
def Pe.readV (p : Pe) (cyc tick who r : Nat) : Vec :=
  if p.open_ cyc false r then Config.freeVec tick 5 (16 * who + r) else Tab.get 0 p.v r
def Pe.readS (p : Pe) (cyc tick who r : Nat) : Word :=
  if p.open_ cyc true r then (Config.freeVec tick 6 (8 * who + r)).setWidth 64 else Tab.get 0 p.s r
/-- NB lies in the window of every operation with a latency (R145). -/
def Pe.readNb (p : Pe) (cyc tick who : Nat) : Vec :=
  if p.flight.any (fun f => f.issued < cyc) then Config.freeVec tick 7 who else p.nb

/-- The vector that a landing result leaves: `pk8` writes one group of lanes (R157). -/
def Flight.merged (f : Flight) (old : Vec) : Vec :=
  match f.lanes with
  | none => f.value
  | some g => (old &&& ~~~(BitVec.ofNat 512 ((2 ^ 128 - 1) * 2 ^ (128 * g)))) |||
      (f.value &&& BitVec.ofNat 512 ((2 ^ 128 - 1) * 2 ^ (128 * g)))

/-- The result lands (R144, R145); a DONE gather that has claimed its flags takes them (03 R102). NB after `pk8` is the
merged register: DESIGN CHOICE, log 38. -/
def Pe.landOne (p : Pe) (f : Flight) : Pe :=
  let v := f.merged (Tab.get 0 p.v (f.dst.getD 0))
  let hurt := f.lanes.isSome && p.bad.contains (f.dst.getD 0)
  let p := match f.dst with
    | none => p
    | some d =>
      if f.isS then { p with s := Tab.put p.s d (f.value.setWidth 64), bad := p.bad.filter (· != 0x10 + d) }
      else { p with v := Tab.put p.v d v, bad := if hurt then p.bad else p.bad.filter (· != d) }
  let p := if f.nb then { p with nb := v, bad := (if hurt then [0x18] else []) ++ p.bad.filter (· != 0x18) } else p
  { p with xflags := if f.claimed then p.xflags else p.xflags ||| f.flags }

/-- Flags of landing results that a gather has claimed. -/
def claimedFlags (l : List Flight) : Flags := l.foldl (fun x f => if f.claimed then x ||| f.flags else x) 0

/-- Results land in the order of their landing cycles; of one cycle, in issue order (R144): the order of `Pe.flight`. -/
def Pe.land (p : Pe) (cyc : Nat) : Pe :=
  let due := p.flight.filter (fun f => f.land ≤ cyc)
  due.foldl Pe.landOne { p with flight := p.flight.filter (fun f => cyc < f.land) }

/-- A gather's bits, which enter TFLAGS at the end of the cycle (03 R102, 04 R122). -/
def State.gathered (s : State) (task : Nat) (f : Flags) : State :=
  if f = 0 then s else s.modTask task (fun t => { t with tflagsAdd := t.tflagsAdd ||| f })

/-- PE_RESULT_LANDS: the results of PE `pe` that are due land. -/
def execPeResultLands (core pe : Nat) (s : State) : Out :=
  .next (let c := s.core core
    let p := c.pe pe
    let got := claimedFlags (p.flight.filter (fun f => f.land ≤ s.cyc))
    (s.setCore core (c.setPe pe (p.land s.cyc))).gathered c.home got)

/-- The first issue cycle of a row's current bundle, which may be this one. -/
def Row.startOf (x : Row) (cyc : Nat) : Nat := if x.issue = 0 then cyc else x.began

/-- The first cycle after every DONE gather is complete whose popping bundle began before `start` (03 R102). -/
def Core.gatheredBy (c : Core) (start : Nat) : Nat :=
  c.gathers.foldl (fun n g => if g.1 < start then max n g.2 else n) 0

/-- The rows that pop a DONE, or go on with a bundle that has popped one, in this cycle. -/
def Core.doneRows (c : Core) (cyc : Nat) : List Row :=
  ((List.range 4).map c.row).filter (fun x => x.done && x.tookAt == cyc + 1)

/-- A queue whose entries pushed in this cycle wait for the gathers before their bundles. -/
def Queue.afterGathers (q : Queue) (c : Core) (cyc : Nat) : Queue :=
  { q with entries := q.entries.map (fun e =>
      if e.key / 4 = cyc ∧ q.xa then { e with ready := max e.ready (c.gatheredBy ((c.row (e.key % 4)).startOf cyc)) } else e) }

/-- A DONE gather (03 R101, R102): TFLAGS takes the flags of all 16 PEs, those of results in flight when they land. -/
def gatherPes (s : State) (core : Nat) : State :=
  let c := s.core core
  let all := c.pes.foldl (fun x e => x ||| e.2.xflags) 0
  let to_ := c.pes.foldl (fun n e => e.2.flight.foldl (fun n f => max n (f.land + 1)) n) (s.cyc + 1)
  let c : Core := { c with gathers := c.gathers.filter (fun g => s.cyc < g.2) ++ (c.doneRows s.cyc).map (fun x => (x.began, to_)) }
  (s.setCore core
    { c with queues := c.queues.map (fun e => (e.1, e.2.afterGathers c s.cyc))
             pes := c.pes.map (fun e =>
               (e.1, { e.2 with xflags := 0, flight := e.2.flight.map (fun f => { f with claimed := true }) })) }).gathered
    c.home all

/-! ## Sources (R144) -/

/-- What a source gives: its lanes, the entry it came from, and whether the register was struck by an error (13
R429). -/
structure Src where
  lanes : List Nat
  tok : Option Tok := none
  popped : Bool := false
  bad : Bool := false
deriving DecidableEq, Repr

/-- The neighbour of a PE (R144). -/
def neighbour (code row slot : Nat) : Nat :=
  if code = 0x18 then peIndex (row + 3) slot
  else if code = 0x19 then peIndex row (slot + 1)
  else if code = 0x1A then peIndex (row + 1) slot
  else peIndex row (slot + 3)

def fromEntry (fmt : Nat) (popped : Bool) (e : QEntry) : Src :=
  { lanes := uniform fmt e.tok.data.toNat, tok := some e.tok, popped }

/-- A source code read; none when its queue is short. A pop removes the entry. -/
def State.source (s : State) (fmt code : Nat) : Option (Src × State) :=
  let c := s.myCore
  let p := s.myPe
  let who := peIndex s.cur.row s.cur.pe
  if code < 0x10 then
    some ({ lanes := lanesOf fmt (p.readV s.cyc s.tick who code), bad := p.bad.contains code }, s)
  else if code < 0x18 then
    some ({ lanes := uniform fmt (p.readS s.cyc s.tick who (code - 0x10)).toNat, bad := p.bad.contains code }, s)
  else if code < 0x1C then
    let i := neighbour code s.cur.row s.cur.pe
    some ({ lanes := lanesOf fmt ((c.pe i).readNb s.cyc s.tick i), bad := (c.pe i).bad.contains 0x18 }, s)
  else if code < 0x20 then some ({ lanes := uniform fmt (immLane fmt (c.imm s.cur.row)) }, s)
  else if code < 0x30 then
    let q := code - 0x20
    ((c.queue q).head s.cyc).map (fun e =>
      (fromEntry fmt true e, s.modMyCore (fun c => c.setQueue q (c.queue q).pop)))
  else
    let q := code - 0x30
    let e := match Tab.find s.cur.peek q with
      | some e => some e
      | none => (c.queue q).head s.cyc
    e.map (fun e => (fromEntry fmt false e, s))

/-- Sources read in order: format and code of each. -/
def State.sources (s : State) : List (Nat × Nat) → Option (List Src × State)
  | [] => some ([], s)
  | (fmt, code) :: l =>
    match s.source fmt code with
    | none => none
    | some (x, s) =>
      match s.sources l with
      | none => none
      | some (xs, s) => some (x :: xs, s)

/-- A v source steps with the repetition under STEP 2 (02 R63). -/
def stepped (f : PeF) (rep : Nat) (code : BitVec 6) : Nat :=
  if f.step = 2 ∧ isVSrc code then (code.toNat + rep) % 16 else code.toNat

/-! ## Results (R144, R147, R149) -/

/-- The latency in cycles by format width: 32-bit and 64-bit lanes. -/
def latency (fmt n w : Nat) : Nat := if wideFmt fmt then w else n

/-- The result of an operation: its value, its flags, its latency. -/
structure Res where
  isS : Bool := false
  value : Nat
  /-- DATA of a pushed entry -/
  data : Nat
  flags : Flags := 0
  poison : Bool := false
  lat : Nat
  /-- the group of four lanes that it writes, where it does not write all -/
  lanes : Option Nat := none
deriving DecidableEq, Repr

/-- A vector result (R143, R147). -/
def vecRes (fmt lat : Nat) (r : List Nat × Flags) : Res :=
  { value := packLanes fmt r.1, data := (r.1.head?.getD 0) % 2 ^ laneBits fmt, flags := r.2, lat }

/-- The destination register of a repetition: it steps under STEP 1 and 2. -/
def destReg (f : PeF) (rep n : Nat) : Nat := (f.dst.toNat + (if f.step = 0 then 0 else rep)) % n

/-- A push of the execute array (R147). What a bundle pushes that issues after one that popped a DONE can be popped once the gather is
complete (03 R102); a bundle issues after another when its first issue cycle comes later: DESIGN CHOICE, log 38. -/
def State.pushXa (s : State) (q : Nat) (tok : Tok) (ready : Nat) : State :=
  let r := max ready (s.myCore.gatheredBy (s.myRow.startOf s.cyc))
  s.modMyCore (fun c => c.setQueue q ((c.queue q).insert { tok, ready := r, key := 4 * s.cyc + s.cur.row }))

/-- A result takes its place among those in flight: by landing cycle, then in issue order. -/
def Pe.send (p : Pe) (f : Flight) : Pe :=
  { p with flight := p.flight.takeWhile (fun x => x.land ≤ f.land) ++ [f] ++ p.flight.dropWhile (fun x => x.land ≤ f.land) }

/-- The result goes on its way to its register or queue. -/
def State.emit (s : State) (f : PeF) (r : Res) : State :=
  let fl : Flight :=
    { land := s.cyc + r.lat, issued := s.cyc, isS := r.isS,
      dst := if f.push = 0 then some (destReg f s.cur.rep (if r.isS then 8 else 16)) else none,
      value := BitVec.ofNat 512 r.value, nb := !r.isS, flags := r.flags, lanes := r.lanes }
  let s := s.modMyPe (fun p => p.send fl)
  if f.push = 0 then s
  else s.pushXa f.dst.toNat ⟨BitVec.ofNat 4 (f.push.toNat - 1), r.poison, word r.data⟩ (s.cyc + r.lat)

def pushRoom (s : State) (f : PeF) (n : Nat) : Bool :=
  f.push == 0 || ((s.myCore.queue f.dst.toNat).taken + n ≤ (s.myCore.queue f.dst.toNat).cap)

/-- A popped DONE asks for a gather at the end of its cycle (03 R101). -/
def markDone (xs : List Src) (s : State) : State :=
  if xs.any (fun x => x.popped && (x.tok.map (·.kind)) == some 0xB) then s.modMyRow (fun r => { r with done := true })
  else s

def anyPoison (xs : List Src) : Bool := xs.any (fun x => match x.tok with | some t => t.poison | none => false)

def Pe.setFlags (p : Pe) (f : Flags) : Pe := { p with xflags := p.xflags ||| f }

/-- One repetition of an operation: its sources, the POISON fault, its result (R145, R148). `keeps`: a poisoned entry
is no fault. -/
def State.issue (s : State) (f : PeF) (codes : List (Nat × BitVec 6)) (keeps : Bool) (k : List Src → Res) : State :=
  if !(pushRoom s f 1) then s
  else
    match s.sources (codes.map (fun e => (e.1, stepped f s.cur.rep e.2))) with
    | none => s
    | some (xs, s') =>
      if xs.any (·.bad) then s.slotFault 0x09
      else if anyPoison xs && !keeps then (s.modMyPe (fun p => p.setFlags fPSN)).slotFault 0x09
      else
        let r := k xs
        (markDone xs s').emit f { r with flags := if anyPoison xs then r.flags ||| fPSN else r.flags }

def peMode (f : PeF) : Mode := { rnd := f.rnd.toNat, fi := f.fi, fo := f.fo }
def Src.get (xs : List Src) (i : Nat) : List Nat := match xs[i]? with | some x => x.lanes | none => []

/-- A lane-wise operation of one, two or three sources. -/
def peUnary (f : PeF) (n w : Nat) (g : Nat → Mode → Nat → Nat × Flags) (s : State) : State :=
  let fmt := f.fmt.toNat
  s.issue f [(fmt, f.a)] false (fun xs => vecRes fmt (latency fmt n w) (map1 (g fmt (peMode f)) (Src.get xs 0)))
def peBinary (f : PeF) (n w : Nat) (g : Nat → Mode → Nat → Nat → Nat × Flags) (s : State) : State :=
  let fmt := f.fmt.toNat
  s.issue f [(fmt, f.a), (fmt, f.b)] false
    (fun xs => vecRes fmt (latency fmt n w) (map2 (g fmt (peMode f)) (Src.get xs 0) (Src.get xs 1)))
def peTernary (f : PeF) (n w : Nat) (g : Nat → Mode → Nat → Nat → Nat → Nat × Flags) (s : State) : State :=
  let fmt := f.fmt.toNat
  s.issue f [(fmt, f.a), (fmt, f.b), (fmt, f.c)] false
    (fun xs => vecRes fmt (latency fmt n w) (map3 (g fmt (peMode f)) (Src.get xs 0) (Src.get xs 1) (Src.get xs 2)))

/-! ## Operations -/

def execFadd (f : PeF) (s : State) : Out := .next (peBinary f 4 6 laneFadd s)
def execFsub (f : PeF) (s : State) : Out := .next (peBinary f 4 6 laneFsub s)
def execFmul (f : PeF) (s : State) : Out := .next (peBinary f 4 6 laneFmul s)
def execFfma (f : PeF) (s : State) : Out := .next (peTernary f 5 7 laneFfma s)
def execFfms (f : PeF) (s : State) : Out := .next (peTernary f 5 7 laneFfms s)
def execFnfma (f : PeF) (s : State) : Out := .next (peTernary f 5 7 laneFnfma s)
def execFmin (f : PeF) (s : State) : Out := .next (peBinary f 2 2 (fun fmt _ => pickLane fmt fMin) s)
def execFmax (f : PeF) (s : State) : Out := .next (peBinary f 2 2 (fun fmt _ => pickLane fmt fMax) s)
def execFabs (f : PeF) (s : State) : Out := .next (peUnary f 2 2 (fun fmt _ => signLane fmt FVal.abs) s)
def execFneg (f : PeF) (s : State) : Out := .next (peUnary f 2 2 (fun fmt _ => signLane fmt FVal.negate) s)
def execFceq (f : PeF) (s : State) : Out := .next (peBinary f 2 2 (fun fmt _ => cmpLane fmt true fEq) s)
def execFclt (f : PeF) (s : State) : Out := .next (peBinary f 2 2 (fun fmt _ => cmpLane fmt false fLt) s)
def execFcle (f : PeF) (s : State) : Out :=
  .next (peBinary f 2 2 (fun fmt _ => cmpLane fmt false (fun a b => fLt a b || fEq a b)) s)
def execFrcp (f : PeF) (s : State) : Out := .next (peUnary f 8 12 (fun fmt m => rootLane fmt m fRcp) s)
def execFrsq (f : PeF) (s : State) : Out := .next (peUnary f 8 12 (fun fmt m => rootLane fmt m fRsq) s)
def execFexp2 (f : PeF) (s : State) : Out := .next (peUnary f 8 12 (fun fmt m => rootLane fmt m fExp2) s)
def execFlog2 (f : PeF) (s : State) : Out := .next (peUnary f 8 12 (fun fmt m => rootLane fmt m fLog2) s)

def execIadd (f : PeF) (s : State) : Out := .next (peBinary f 2 2 (fun fmt _ => intOp fmt (· + ·)) s)
def execIsub (f : PeF) (s : State) : Out := .next (peBinary f 2 2 (fun fmt _ => intOp fmt (· - ·)) s)
def execImul (f : PeF) (s : State) : Out := .next (peBinary f 4 6 (fun fmt _ => intOp fmt (· * ·)) s)
def execImulh (f : PeF) (s : State) : Out :=
  .next (peBinary f 4 6 (fun fmt _ => intOp fmt (fun a b => a * b / 2 ^ laneWidth fmt)) s)
def execIand (f : PeF) (s : State) : Out := .next (peBinary f 2 2 (fun _ _ => bitsOp (· &&& ·)) s)
def execIor (f : PeF) (s : State) : Out := .next (peBinary f 2 2 (fun _ _ => bitsOp (· ||| ·)) s)
def execIxor (f : PeF) (s : State) : Out := .next (peBinary f 2 2 (fun _ _ => bitsOp (· ^^^ ·)) s)
def execIshl (f : PeF) (s : State) : Out :=
  .next (peBinary f 2 2 (fun fmt _ => shiftOp fmt (fun a sh => ((a * 2 ^ sh : Nat) : Int))) s)
def execIshr (f : PeF) (s : State) : Out :=
  .next (peBinary f 2 2 (fun fmt _ => shiftOp fmt (fun a sh => ((a / 2 ^ sh : Nat) : Int))) s)
def execIsra (f : PeF) (s : State) : Out :=
  .next (peBinary f 2 2 (fun fmt _ => shiftOp fmt (fun a sh => signedOf (laneWidth fmt) a / 2 ^ sh)) s)
def execImin (f : PeF) (s : State) : Out := .next (peBinary f 2 2 (fun fmt _ => intOp fmt min) s)
def execImax (f : PeF) (s : State) : Out := .next (peBinary f 2 2 (fun fmt _ => intOp fmt max) s)
def execIceq (f : PeF) (s : State) : Out := .next (peBinary f 2 2 (fun fmt _ => intMask fmt (· == ·)) s)
def execIclt (f : PeF) (s : State) : Out := .next (peBinary f 2 2 (fun fmt _ => intMask fmt (fun a b => a < b)) s)
def execIabs (f : PeF) (s : State) : Out :=
  .next (peUnary f 2 2 (fun fmt _ a => (laneOfInt fmt (intLane fmt a).natAbs, 0)) s)
def execIaddsat (f : PeF) (s : State) : Out := .next (peBinary f 2 2 (fun fmt _ => addSat fmt) s)

/-- R155. The source format stands in SRCC. -/
def convert (f : PeF) (sat : Bool) (s : State) : State :=
  let src := f.c.toNat % 8
  s.issue f [(src, f.a)] false (fun xs => vecRes f.fmt.toNat 3 (cvtLanes src f.fmt.toNat (peMode f) sat (Src.get xs 0)))
def execCvt (f : PeF) (s : State) : Out := .next (convert f false s)
def execCvtSat (f : PeF) (s : State) : Out := .next (convert f true s)

/-- R157: the control word is lane 0 of the second source. -/
def controlOf (xs : List Src) : Pack := Pack.of ((Src.get xs 1).head?.getD 0)
def execPk8 (f : PeF) (s : State) : Out :=
  .next (s.issue f [(0, f.a), (0, f.b)] false (fun xs =>
    { vecRes 0 4 (lanePk8 (controlOf xs) (peMode f) (Src.get xs 0)) with lanes := some (controlOf xs).group }))
def execUpk8 (f : PeF) (s : State) : Out :=
  .next (s.issue f [(0, f.a), (0, f.b)] false (fun xs =>
    vecRes 0 4 (laneUpk8 (controlOf xs) (peMode f) (Src.get xs 0))))
def execBscale (f : PeF) (s : State) : Out :=
  .next (s.issue f [(0, f.a), (0, f.b)] false (fun xs =>
    vecRes 0 4 (laneBscale (controlOf xs) (peMode f) (Src.get xs 0))))

/-- R158, R148: a pushed entry carries the poison of the entry it forwards. -/
def execMov (f : PeF) (s : State) : Out :=
  .next (s.issue f [(f.fmt.toNat, f.a)] (f.push != 0) (fun xs =>
    { vecRes f.fmt.toNat 2 (Src.get xs 0, 0) with poison := anyPoison xs }))

def peLanes (f : PeF) (g : List Nat → List Nat → List Nat) (s : State) : State :=
  let fmt := f.fmt.toNat
  s.issue f [(fmt, f.a), (fmt, f.b)] false (fun xs => vecRes fmt 2 (g (Src.get xs 0) (Src.get xs 1), 0))
def execLshuf (f : PeF) (s : State) : Out := .next (peLanes f laneShuf s)
def execLbcast (f : PeF) (s : State) : Out := .next (peLanes f laneBcast s)
def execLrot (f : PeF) (s : State) : Out := .next (peLanes f laneRot s)
def execPeSel (f : PeF) (s : State) : Out :=
  .next (let fmt := f.fmt.toNat
    s.issue f [(fmt, f.a), (fmt, f.b), (fmt, f.c)] false (fun xs =>
      vecRes fmt 2 (laneSel (Src.get xs 0) (Src.get xs 1) (Src.get xs 2), 0)))

/-- Class S (R160): s[d] takes the result, zero-extended. -/
def peReduce (f : PeF) (lat : Nat) (g : List Nat → Nat × Flags) (s : State) : State :=
  s.issue f [(f.fmt.toNat, f.a)] false (fun xs =>
    let r := g (Src.get xs 0)
    { isS := true, value := r.1, data := r.1, flags := r.2, lat })
def execRedadd (f : PeF) (s : State) : Out :=
  .next (let fmt := f.fmt.toNat
    peReduce f (if isFloat fmt then latency fmt 12 14 else 6) (laneRedadd fmt (peMode f)) s)
def execRedmax (f : PeF) (s : State) : Out :=
  .next (peReduce f 6 (laneRedpick f.fmt.toNat (peMode f) fMax max) s)
def execRedmin (f : PeF) (s : State) : Out :=
  .next (peReduce f 6 (laneRedpick f.fmt.toNat (peMode f) fMin min) s)

/-! ## Token-aware operations (R161 to R163) -/

/-- The slot's `accs` or `qdrop` has finished within the bundle (R138). -/
def State.finishToken (s : State) : State :=
  s.modMyRow (fun r => { r with tkfin := r.tkfin ||| 2 ^ (s.cur.pe % 4) })

def stopLevel (kind : BitVec 4) : Option Nat := if 4 ≤ kind.toNat ∧ kind.toNat ≤ 0xA then some (kind.toNat - 4) else none

/-- Entries an `accs` pushes when it meets an entry of this kind. -/
def accsPushes (f : PeF) (K : Nat) (kind : BitVec 4) : Nat :=
  if f.push = 0 then 0
  else if kind = 0xB then 1
  else
    match stopLevel kind with
    | none => 0
    | some j => if j < K then 0 else if K < j then 2 else 1

/-- An `accs` must not meet this entry (R161). -/
def accsMalformed (p : Pe) (kind : BitVec 4) : Bool :=
  kind == 1 || kind == 2 || kind == 3 || (kind == 0xB && p.used)

/-- The emission (R161): every lane of the register, or an entry VAL and, above K, a stop. -/
def accsEmit (f : PeF) (j K : Nat) (s : State) : State :=
  let sum := s.myPe.asum.toNat
  let fmt := f.fmt.toNat
  let s := s.emit { f with push := if f.push = 0 then 0 else 1, step := 0 }
    { value := packLanes fmt (uniform fmt sum), data := sum % 2 ^ laneBits fmt, lat := 4 }
  let s := if f.push ≠ 0 ∧ K < j then
      s.pushXa f.dst.toNat ⟨BitVec.ofNat 4 (4 + (j - K - 1)), false, 0⟩ (s.cyc + 4)
    else s
  (s.modMyPe (fun p => { p with asum := 0, acnt := 0, used := false })).finishToken

/-- A value joins the sum (R161). ACNT wraps after 2^32 values of a fibre, and the next is then taken as a first one; the flags of each partial
sum enter XFLAGS as its value is popped, before the sum itself lands (03 R98, R149): DESIGN CHOICE, log 38. -/
def accsValue (f : PeF) (data : Nat) (s : State) : State :=
  let fmt := f.fmt.toNat
  let x := data % 2 ^ laneBits fmt
  s.modMyPe (fun p =>
    let r := if p.acnt = 0 then (x, 0) else sumLane fmt (peMode f) p.asum.toNat x
    { p with asum := word r.1, acnt := (p.acnt + 1) % 2 ^ 32, used := true, xflags := p.xflags ||| r.2 })

def execAccs (f : PeF) (s : State) : Out :=
  .next (let K := (s.myCore.imm s.cur.row).toNat
    match s.source f.fmt.toNat f.a.toNat with
    | none => s
    | some (x, s') =>
      match x.tok with
      | none => s
      | some t =>
        if t.poison then (s.modMyPe (fun p => p.setFlags fPSN)).slotFault 0x09
        else if accsMalformed s.myPe t.kind then s.slotFault 0x0D
        else if !(pushRoom s f (accsPushes f K t.kind)) then s
        else if t.kind = 0 then accsValue f t.data.toNat s'
        else if t.kind = 0xB then
          let s := markDone [x] s'
          (if f.push = 0 then s else s.pushXa f.dst.toNat ⟨0xB, false, 0⟩ (s.cyc + 4)).finishToken
        else
          match stopLevel t.kind with
          | none => s
          | some j => if j < K then s'.modMyPe (fun p => { p with used := true }) else accsEmit f j K s')

/-- The kinds `qdrop` stops at (R162). -/
def dropMatches (target kind : BitVec 4) : Bool :=
  kind == target ||
    (match stopLevel target with
     | none => false
     | some k =>
       kind == 0xB ||
         (match stopLevel kind with
          | none => false
          | some j => decide (k ≤ j)))

def execQdrop (f : PeF) (s : State) : Out :=
  .next (match s.source 0 f.a.toNat with
    | none => s
    | some (x, s') =>
      match x.tok with
      | none => s
      | some t =>
        let s := markDone [x] s'
        let s := if t.poison then s.modMyPe (fun p => p.setFlags fPSN) else s
        if dropMatches f.dst t.kind then s.finishToken else s)

/-- R163. -/
def execTkind (f : PeF) (s : State) : Out :=
  .next (s.issue f [(0, f.a)] true (fun xs =>
    let v := match xs with
      | x :: _ => (match x.tok with | some t => (kindWord t).toNat | none => 0)
      | [] => 0
    { isS := true, value := v, data := v, lat := 2 }))

/-- R66: an empty slot. -/
def execNop (s : State) : Out := .next s

end Sys2Proof.Machine
end

