-- ==== Sys2Proof/Machine/Rows.lean ====
section
/-! DEFINITION. Row controls, QEMPTY events and the freeze of the execute array (05 R138, R141, R146, R164 to R169; 11
R363). -/

namespace Sys2Proof.Machine

/-- The anchor of a core's home task is its hardware thread 0 (01 R19). -/
def anchorKey (core : Nat) : Nat := thrKey core 0

/-! ## QEMPTY (R146, 11 R362, R363) -/

/-- A QEMPTY trap of the task is pending. -/
def emptyPending (th : Thread) : Bool := th.waiting.any (fun f => f.cause == 0x0B && f.source == 4)

/-- The execute-array word of R409. -/
def XFault.word_ (x : XFault) : Word := word (x.row * 2 ^ 14 + x.slot * 2 ^ 11 + x.bundle)

/-- One QEMPTY event on queue `q` of a core, of `slot` of row `r`: it is counted, at the end of the cycle (04 R122); when armed, the
anchor gets a LOD_TRAP unless one is pending or it has executed `exit`. SOURCE 4: DEDUCED, log 21. -/
def qemptyEvent (s : State) (core q r slot : Nat) : State :=
  let id := (s.core core).home
  let t := s.taskOf id
  let s' := s.modTask id (fun t => { t with qemptyAdd := Tab.put t.qemptyAdd q (Tab.get 0 t.qemptyAdd q + 1) })
  let k := anchorKey core
  let en := t.trapenAt s.cyc
  if armed t en 2 (bits en 63 48) (Tab.get 0 t.qempty q + Tab.get 0 t.qemptyAdd q) && !(emptyPending (s.thr k)) &&
      (s.thr k).life == .running then
    let x : XFault := { row := r, cause := 0x0B, slot, bundle := ((s.core core).row r).pc }
    s'.raise k (mkFault s' k 0x0B 4 (word (0x20 + q)) x.word_ (.array core))
  else s'

/-- A row that waits on queue `q` in `slot`: the first held cycle of the wait counts (R146). -/
def waitEmpty (s : State) (core r q slot : Nat) : State :=
  if ((s.core core).row r).counted.contains q then s
  else
    qemptyEvent (s.modCore core (fun c => c.setRow r { c.row r with counted := q :: (c.row r).counted })) core q r slot

/-! ## Moving on -/

def isEnd (b : Bundle) : Bool := match decodeBundle b with | .ok .theEnd => true | _ => false

/-- A row reaches a bundle: at an END bundle it stops (R141). -/
def arrive (c : Core) (r pc : Nat) : Core :=
  let x := c.row r
  c.setRow r { x with pc := pc, issue := 0, tkfin := 0, counted := [], handed := false, taken := false, done := false,
                      bqv := none, run := if isEnd (c.bundle r pc) then .atEnd else .running }

/-- The acting row moves to a bundle. -/
def State.jumpRow (s : State) (pc : Nat) : State := s.modMyCore (fun c => arrive c s.cur.row pc)

/-- The sequential advance; from bundle 511 it raises XILLOP (R138, R167), and what the control writes beside it (a loop register, a
`bqpush`) is not written: DESIGN CHOICE, log 38. -/
def State.nextBundle (s : State) (k : State → State) : State :=
  let pc := s.myRow.pc
  if pc = 511 then s.modMyCore (fun c => c.fault { row := s.cur.row, cause := 0x13, slot := 4, bundle := 511 })
  else k (s.jumpRow (pc + 1))

/-! ## Row controls (R164 to R166) -/

def execJmp (target : BitVec 9) (s : State) : Out := .next (s.jumpRow target.toNat)

def execBrTok (q kind : BitVec 4) (target : BitVec 9) (s : State) : Out :=
  .next (match (s.myCore.queue q.toNat).head s.cyc with
    | none => waitEmpty s s.cur.m s.cur.row q.toNat 4
    | some e => if e.tok.kind = kind then s.jumpRow target.toNat else s.nextBundle id)

def State.setLoop (s : State) (l : BitVec 2) (v : Word32) : State :=
  s.modMyRow (fun r => { r with loops := Tab.put r.loops l.toNat v })
def State.loopReg (s : State) (l : BitVec 2) : Word32 := Tab.get 0 s.myRow.loops l.toNat

def execLoopRow (l : BitVec 2) (count : Word32) (s : State) : Out := .next (s.nextBundle (fun s => s.setLoop l count))

def execEndloop (l : BitVec 2) (target : BitVec 9) (s : State) : Out :=
  .next (let n := s.loopReg l
    if 1 < n.toNat then (s.setLoop l (n - 1)).jumpRow target.toNat else s.nextBundle (fun s => s.setLoop l 0))

/-- What a `bqpush` sends: the s register as it stands at the end of the cycle (R166). -/
def bqValue (s : State) (pe : BitVec 2) (r : BitVec 3) : BitVec 16 :=
  let who := peIndex s.cur.row pe.toNat
  (((s.myCore.pe who).land (s.cyc + 1)).readS (s.cyc + 1) s.tick who r.toNat).setWidth 16

/-- The value is fixed at the end of the bundle's last issue cycle. It enters `bq` at once; an access thread can pop it once a DONE gather
of an earlier bundle is complete (03 R102). A write of the bundle's own operations that lands before the end of that cycle, as it can in a
long bundle, is seen: R166 gives both readings; DESIGN CHOICE, log 38. -/
def latchBq (s : State) (pe : BitVec 2) (r : BitVec 3) : State :=
  match s.myRow.bqv with
  | some _ => s
  | none => s.modMyRow (fun x => { x with bqv := some (bqValue s pe r) })

def execBqpush (pe : BitVec 2) (r : BitVec 3) (s : State) : Out :=
  .next (let s := latchBq s pe r
    if 8 ≤ s.myCore.bq.length then s
    else
      let v := s.myRow.bqv.getD 0
      let r := s.myCore.gatheredBy (s.myRow.startOf s.cyc)
      s.nextBundle (fun s => s.modMyCore (fun c => { c with bq := c.bq ++ [(r, v)] })))

/-- R141: RUN 2. -/
def execHalt (s : State) : Out := .next (s.modMyRow (fun r => { r with run := .halted }))
/-- R141: RUN 1. -/
def execEndRow (s : State) : Out := .next (s.modMyRow (fun r => { r with run := .atEnd }))

/-! ## The freeze (R169) -/

/-- The array freezes on the fault of this cycle, which goes to the anchor. -/
def freezeArray (s : State) (core : Nat) : State :=
  match (s.core core).xfault with
  | none => s
  | some x =>
    let s := s.modCore core (fun c => { c with arrayFrozen := true, xfault := none })
    let k := anchorKey core
    s.raise k (mkFault s k x.cause 4 x.word_ x.word_ (.array core))

end Sys2Proof.Machine
end

