-- ==== Sys2Proof/Machine/Tiles.lean ====
section
/-! DEFINITION. Tiles and the order of accumulation (03 R103 to R112, 06 R187): descriptors, elements, and what one tile
pair adds to an accumulator. -/

namespace Sys2Proof.Machine

/-! ## Descriptors (R103, R104) -/

def fcodeOf (d : Word) : Nat := bits d 7 0
def resultTile (d : Word) : Bool := bit d 15

def admitted (d : Word) : Bool :=
  bits d 31 16 == 0 &&
  (let f := fcodeOf d
   let plain := bits d 14 8 == 0
   if f = 0 then bits d 10 8 != 0 && !resultTile d
   else if f = 1 ∨ f = 2 ∨ f = 5 then plain && !resultTile d
   else if f = 3 ∨ f = 4 then plain
   else if f = 6 then plain && resultTile d
   else false)

/-- A descriptor that MFMT accepts as an A or B tile (R104). -/
def operandOk (d : Word) (mfmt : Nat) : Bool := admitted d && fcodeOf d == mfmt && !resultTile d

/-- The descriptor `mload` requires (06 R185). -/
def loadOk (d : Word) (mfmt : Nat) : Bool :=
  admitted d && resultTile d && fcodeOf d == (if mfmt = 3 then 3 else if mfmt = 4 then 4 else 6)

def akindOf (mfmt : Nat) : AKind := if mfmt = 4 then .f64 else if mfmt = 5 then .i32 else .f32
/-- The beat length Bt (06 R182). -/
def beatLen (mfmt : Nat) : Nat := if mfmt = 3 then 128 else if mfmt = 4 then 256 else 64

/-! ## Elements (R105, R106) -/

def elemBytes (mfmt : Nat) : Nat := if mfmt = 0 ∨ mfmt = 5 then 1 else if mfmt = 3 then 4 else if mfmt = 4 then 8 else 2

/-- A list cut into pieces of `n`. -/
def pieces {α : Type} (n : Nat) : (count : Nat) → List α → List (List α)
  | 0, _ => []
  | k + 1, l => l.take n :: pieces n k (l.drop n)

/-- The block scale of element (r, k): none where no scale applies. -/
def blockScale (d : Word) (scales : List Byte) (r k : Nat) : Option Int :=
  let bl := bits d 14 13
  if bl = 0 then none
  else
    let BL := 8 * 2 ^ bl
    let n := 64 / BL
    some (signedOf 8 (scales[r / n * n + k / BL]?.getD 0).toNat)

def elemValue (d : Word) (scales : List Byte) (mfmt r k : Nat) (bs : List Byte) : FVal :=
  let v := ofBytes bs
  if mfmt = 0 then
    let x := decode8 v (bits d 10 8) (bit d 11) (bit d 12)
    match blockScale d scales r k with
    | none => x
    | some s =>
      if s = -128 then fZero false
      else match x with
        | .fin n m e st => .fin n m (e + s) st
        | y => y
  else if mfmt = 1 then fmtF16.decode v
  else if mfmt = 2 then fmtBf16.decode v
  else if mfmt = 3 then fmtF32.decode v
  else if mfmt = 4 then fmtF64.decode v
  else .fin (128 ≤ v) (signedOf 8 v).natAbs 0 false

/-- The 64 rows of an operand tile (R105). -/
def tileRows (d : Word) (scales : List Byte) (mfmt : Nat) (payload : List Byte) : List (List FVal) :=
  let b := elemBytes mfmt
  ((pieces 64 64 payload).zip (List.range 64)).map (fun row =>
    ((pieces b (64 / b) row.1).zip (List.range (64 / b))).map (fun e => elemValue d scales mfmt row.2 e.2 e.1))

/-! ## Sums (R107 to R111) -/

/-- The finite part of an exact sum: integer mantissa and exponent. -/
def sumStep (x : Int × Int) (v : FVal) : Int × Int :=
  match v with
  | .fin n m e _ =>
    let k := min x.2 e
    (x.1 * 2 ^ (x.2 - k).toNat + signedAt n m e k, k)
  | _ => x

/-- The exact sum of a chunk of products (R109). The rule's cases are taken in its order: with a NaN product, infinities of both signs raise
no invalid (DESIGN CHOICE, log 38). -/
def chunkSum (l : List FVal) : FVal × Flags :=
  if l.any FVal.isNan then (.nan, 0)
  else
    let pos := l.any (fun v => v == .inf false)
    let neg := l.any (fun v => v == .inf true)
    if pos && neg then (.nan, fNV)
    else if pos then (.inf false, 0)
    else if neg then (.inf true, 0)
    else
      let s := l.foldl sumStep (0, 0)
      if s.1 = 0 then
        (fZero (l.all (fun v => match v with | .fin n m _ _ => n && m == 0 | _ => false)), 0)
      else (ofSigned s.1 s.2, 0)

def products (a b : List FVal) : List (FVal × Flags) := (a.zip b).map (fun e => fMul e.1 e.2)
def unionFlags (l : List Flags) : Flags := l.foldl (· ||| ·) 0

/-- acc + v in the accumulator's format, nearest-even. -/
def accAdd (F : Fmt) (acc : Nat) (v : FVal) : Nat × Flags :=
  let s := fAdd 0 (F.decode acc) v
  let r := F.round 0 false false s.1
  (F.encode r.1, s.2 ||| r.2)

/-- One value rounded to the accumulator's format, then added. -/
def accRounded (F : Fmt) (acc : Nat × Flags) (v : FVal × Flags) : Nat × Flags :=
  let r := F.round 0 false false v.1
  let x := accAdd F acc.1 r.1
  (x.1, acc.2 ||| v.2 ||| r.2 ||| x.2)

/-- Binary8, f16 and bf16: chunks of `L` products (R108). -/
def accChunks (L : Nat) : (chunks : Nat) → List (FVal × Flags) → Nat × Flags → Nat × Flags
  | 0, _, acc => acc
  | n + 1, ps, acc =>
    let c := ps.take L
    let s := chunkSum (c.map (·.1))
    accChunks L n (ps.drop L) (accRounded fmtF32 acc (s.1, s.2 ||| unionFlags (c.map (·.2))))

/-- One element of one pair, for the floating formats (R108, R110). -/
def accElem (mfmt : Nat) (a b : List FVal) (acc : Nat) : Nat × Flags :=
  let ps := products a b
  if mfmt = 0 then accChunks 32 2 ps (acc, 0)
  else if mfmt = 1 ∨ mfmt = 2 then accChunks 8 4 ps (acc, 0)
  else if mfmt = 3 then ps.foldl (accRounded fmtF32) (acc, 0)
  else ps.foldl (accRounded fmtF64) (acc, 0)

/-- The integer sum of one element of an i8 pair (R111). -/
def innerSum (a b : List FVal) : Int :=
  (a.zip b).foldl (fun x e =>
    match e.1, e.2 with
    | .fin na ma _ _, .fin nb mb _ _ => x + signedAt na ma 0 0 * signedAt nb mb 0 0
    | _, _ => x) 0

/-- Rows of A against rows of B, in element order (R105). -/
def crossRows (A B : List (List FVal)) : List (List FVal × List FVal) := A.flatMap (fun a => B.map (fun b => (a, b)))

/-- A floating pair over all elements; `acc` holds patterns of the accumulator's format. -/
def accPair (mfmt : Nat) (A B : List (List FVal)) (acc : List Nat) : List Nat × Flags :=
  let r := ((crossRows A B).zip acc).map (fun e => accElem mfmt e.1.1 e.1.2 e.2)
  (r.map (·.1), unionFlags (r.map (·.2)))

def innerPair (A B : List (List FVal)) (isum : List Int) : List Int :=
  ((crossRows A B).zip isum).map (fun e => e.2 + innerSum e.1.1 e.1.2)

/-- The inner sums added to the accumulator (R111). -/
def foldSums (acc : List Nat) (isum : List Int) : List Nat × Flags :=
  let r := (acc.zip isum).map (fun e =>
    let v := signedOf 32 e.1 + e.2
    ((v % (2 ^ 32 : Int)).toNat, if v < intLo 32 true ∨ intHi 32 true < v then fSAT else 0))
  (r.map (·.1), unionFlags (r.map (·.2)))

end Sys2Proof.Machine
end

