-- ==== Sys2Proof/Machine/Matrix.lean ====
section
/-! DEFINITION. The matrix array and simmer mode (06 R170 to R204): hand-over and acceptance of commands, pairs, loads,
drains, runs, events and faults. The array that moves is that of core `cur.m`. -/

namespace Sys2Proof.Machine

/-! ## State of the array -/

def State.mx (s : State) : Matrix := s.myCore.matrix
def State.modMx (s : State) (f : Matrix → Matrix) : State := s.modMyCore (fun c => { c with matrix := f c.matrix })

def Matrix.kind (m : Matrix) (a : Nat) : AKind := Tab.get .f32 m.akind a
def Matrix.poisoned (m : Matrix) (a : Nat) : Bool := Tab.get false m.apsn a
def Matrix.words (m : Matrix) (a : Nat) : List Word32 := (List.range 4096).map (fun i => ((Tab.get [] m.acc a)[i]?).getD 0)
def Matrix.sums (m : Matrix) (a : Nat) : List Int := (List.range 4096).map (fun i => ((Tab.get [] m.isum a)[i]?).getD 0)
def Matrix.setWords (m : Matrix) (a : Nat) (w : List Word32) : Matrix := { m with acc := Tab.put m.acc a w }
def Matrix.addFlags (m : Matrix) (f : Flags) : Matrix := { m with flags := m.flags ||| f }

/-- The even member of the pair an f64 accumulator uses (01 R28). -/
def evenOf (a : Nat) : Nat := a / 2 * 2

/-- Patterns of the accumulator in its kind: an f64 element has its low half in the even member. -/
def Matrix.elems (m : Matrix) (a : Nat) (k : AKind) : List Nat :=
  match k with
  | .f64 => ((m.words (evenOf a)).zip (m.words (evenOf a + 1))).map (fun e => e.1.toNat + 2 ^ 32 * e.2.toNat)
  | _ => (m.words a).map (·.toNat)

def Matrix.setElems (m : Matrix) (a : Nat) (k : AKind) (l : List Nat) : Matrix :=
  match k with
  | .f64 =>
    (m.setWords (evenOf a) (l.map (BitVec.ofNat 32))).setWords (evenOf a + 1)
      (l.map (fun v => BitVec.ofNat 32 (v / 2 ^ 32)))
  | _ => m.setWords a (l.map (BitVec.ofNat 32))

/-- Contents that are undefined: free words (R171). -/
def freeWords (tick a : Nat) : List Word32 :=
  (List.range 4096).map (fun i => (Config.freeVec tick 4 (4096 * a + i)).setWidth 32)

/-- A command that sets contents takes accumulator `a` in kind `k`; a pair it breaks leaves the other member f32 and
undefined (R171). -/
def Matrix.claim (m : Matrix) (tick a : Nat) (k : AKind) : Matrix :=
  match k with
  | .f64 => { m with akind := Tab.put (Tab.put m.akind (evenOf a) .f64) (evenOf a + 1) .f64 }
  | k =>
    let o := if a % 2 = 0 then a + 1 else a - 1
    let m := if m.kind a = .f64 then
        { m with akind := Tab.put m.akind o .f32, acc := Tab.put m.acc o (freeWords tick o) }
      else m
    { m with akind := Tab.put m.akind a k }

/-- Every element +0, and no sum of products left (R195). -/
def Matrix.blank (m : Matrix) (a : Nat) (k : AKind) : Matrix :=
  let m := match k with
    | .f64 => { m with acc := Tab.put (Tab.put m.acc (evenOf a) []) (evenOf a + 1) [] }
    | _ => { m with acc := Tab.put m.acc a [] }
  { m with isum := Tab.put m.isum a [] }

/-- Every element +0, APSN and ISUM cleared (R182, R184 to R186). -/
def Matrix.zero (m : Matrix) (a : Nat) (k : AKind) : Matrix :=
  let m := m.blank a k
  match k with
  | .f64 => { m with apsn := Tab.put (Tab.put m.apsn (evenOf a) false) (evenOf a + 1) false }
  | _ => { m with apsn := Tab.put m.apsn a false }

/-- R184. -/
def Matrix.mzero (m : Matrix) (tick a : Nat) : Matrix :=
  if m.kind a = .f64 then
    if a % 2 = 1 then (m.claim tick a .f32).zero a .f32 else m.zero a .f64
  else m.zero a (m.kind a)

/-- The fold of R111. -/
def Matrix.fold (m : Matrix) (a : Nat) : Matrix :=
  let r := foldSums ((m.words a).map (·.toNat)) (m.sums a)
  { (m.setWords a (r.1.map (BitVec.ofNat 32))).addFlags r.2 with isum := Tab.put m.isum a [] }

def Matrix.foldIf (m : Matrix) (a : Nat) : Matrix := if m.kind a = .i32 then m.fold a else m

/-- The sticky flags that `getcw` sees (R172, R188). -/
def Matrix.seenFlags (m : Matrix) (cyc : Nat) : Flags :=
  m.mcopies.foldl (fun f e => if e.1 ≤ cyc then e.2 else f) m.mflags

/-- MSTAT (R172). -/
def Matrix.mstat (m : Matrix) (cyc : Nat) : Word :=
  let f := m.seenFlags cyc
  let b (n : Nat) : Nat := if bit f n then 1 else 0
  word (m.state * 2 ^ 62 + m.lastop * 2 ^ 59 + (if m.stopreq then 2 ^ 58 else 0) + (if m.evlost then 2 ^ 57 else 0) +
    b 5 * 2 ^ 56 + b 4 * 2 ^ 55 + b 3 * 2 ^ 54 + b 2 * 2 ^ 53 + b 1 * 2 ^ 52 + b 0 * 2 ^ 51 +
    min m.slips 0xFFFF * 2 ^ 35 + m.beats % 2 ^ 35)

/-- No command in flight, no drain unpublished, STATE 0 (R189). -/
def Matrix.idle (m : Matrix) : Bool := m.cmd.isNone && m.drains == [] && m.state == 0

/-- The array becomes idle (R200). -/
def Matrix.finish (m : Matrix) : Matrix :=
  { m with cmd := none, phase := .idle, state := 0, stopreq := false, dla := 0, dlb := 0 }

/-- The slots of a ring that drains have reserved. -/
def Matrix.reserved (m : Matrix) (ring : Nat) : Nat := (m.drains.filter (fun d => d.ring == ring)).length

/-! ## Gathers and publications (R178, R186, R187, 03 R101) -/

/-- The sticky flags as they stood before the gathers of cycle `cyc`. -/
def Matrix.before (m : Matrix) (cyc : Nat) : Flags :=
  match m.was with
  | some (c, f) => if c = cyc then f else m.flags
  | none => m.flags

def gatherMatrix (s : State) (core : Nat) : State :=
  let f := (s.core core).matrix.flags
  (s.modCore core (fun c => { c with matrix := { c.matrix with flags := 0, was := some (s.cyc, c.matrix.before s.cyc) } })).gathered
    (s.core core).home f

/-- The header of a drained tile (R187). -/
def drainHeader (d : Drain) : Nat := d.tag % 2 ^ 32 * 2 ^ 32 + 0x8000 + d.fcode

/-- The dword that a slot of a core's ring begins with. -/
def dwordLocs (core off : Nat) : List Loc := (List.range 8).map (fun i => .scr core (off + i))

/-- A drained tile is written to the slot at TAIL, which is published (R179); a poisoned accumulator poisons every payload
sector (R191). -/
def writeDrain (s : State) (core : Nat) (d : Drain) : State :=
  let off := ((s.core core).ring d.ring).slotAt ((s.core core).ring d.ring).tail
  let n := 4 * d.words.length
  let s := s.note ((List.range (256 + n)).map (fun i => .scr core (off + i)))
  let c := s.core core
  let payload := d.words.flatMap (fun w => toBytes 4 w.toNat)
  let c := (c.scrClear off (256 + n)).scrWrite off (toBytes 8 (drainHeader d) ++ List.replicate 248 0 ++ payload)
  let c := if d.poison then
      { c with spoison := (List.range (n / 32)).foldl (fun l i => addSector l ((off + 256) / 32 + i)) c.spoison }
    else c
  let s := s.setCore core (c.setRing d.ring ((c.ring d.ring).publish))
  gatherMatrix s core

/-! ## Events (R192, R196 to R198) -/

/-- The record slot of the demand target (R192): access thread TTHREAD, or the helper of descriptor TTHREAD. -/
def targetSlot (t : Task) (f : MatF) : Nat := if f.trole.toNat = t.role then f.tthread.toNat else 4 + f.tthread.toNat

/-- An event of the array goes on its way; one to a thread that has ended is lost (R198). -/
def postMatrix (s : State) (f : MatF) (evk ring index cyc : Nat) : State :=
  let id := s.myCore.home
  let t := s.taskOf id
  let slot := targetSlot t f
  if (s.keyOf id slot).isNone then s.modMx (fun m => { m with evlost := true })
  else
    let ev : Event :=
      { d0 := word (evk * 2 ^ 60 + ring * 2 ^ 57 + f.acc.toNat * 2 ^ 55 + index % 2 ^ 48)
        d1 := word (t.role * 2 ^ 52 + cyc % 2 ^ 48) }
    { s with nextId := s.nextId + 1
             evFlight := s.evFlight ++ [{ id := s.nextId, ev, task := id, slot, ptask := id, pslot := 100, pkey := 0 }] }

/-- Demand for beats [lo, hi) of one ring, `b` the beat whose slot is at the head (R196). -/
def demandRing (s : State) (f : MatF) (evk ring b lo : Nat) : (count : Nat) → State
  | 0 => s
  | n + 1 =>
    let s := demandRing s f evk ring b lo n
    let j := lo + n
    if (s.myCore.ring ring).count ≤ j - b then
      postMatrix s f evk ring j
        ((s.mx.s0 + ((j + s.mx.slipk) * beatLen f.mfmt.toNat : Nat)) % (2 ^ 48 : Int)).toNat
    else s

/-- Beats below `hiA` and `hiB`, and below N, that were never evaluated are evaluated. -/
def demand (s : State) (f : MatF) (b hiA hiB : Nat) : State :=
  let lim (h : Nat) : Nat := if f.count = 0 then h else min h f.count.toNat
  let loA := max s.mx.seenA b
  let loB := max s.mx.seenB b
  let s := demandRing s f 1 f.ra.toNat b loA (lim hiA - loA)
  let s := demandRing s f 2 f.rb.toNat b loB (lim hiB - loB)
  s.modMx (fun m => { m with seenA := max m.seenA (lim hiA), seenB := max m.seenB (lim hiB) })

/-! ## Faults (R203) -/

/-- The fault of the array goes to the anchor, once the drains in progress have been published. -/
def raiseMatrix (s : State) : State :=
  match s.mx.pend with
  | some (cause, w) =>
    if s.mx.drains = [] then
      let k := anchorKey s.cur.m
      (s.modMx (fun m => { m with pend := none })).raise k (mkFault s k cause 5 w w (.array s.cur.m))
    else s
  | none => s

/-- The array takes STATE 3 and the rows freeze. -/
def matrixFault (s : State) (cause ring index : Nat) : State :=
  let m := s.mx
  let acc := match m.cmd with | some f => f.acc.toNat | none => 0
  let w := word (m.mop * 2 ^ 61 + ring * 2 ^ 58 + acc * 2 ^ 56 + index % 2 ^ 48)
  raiseMatrix (s.modMyCore (fun c =>
    { c with arrayFrozen := true, matrix := { c.matrix with state := 3, pend := some (cause, w) } }))

/-! ## Acceptance (R180, R182, R183, R192) -/

/-- The start that STAMP names, relative to cycle `a` (R183). -/
def stampOffset (f : MatF) (a : Nat) : Int := signedOf 48 ((f.stamp.toNat + 2 ^ 48 - a % 2 ^ 48) % 2 ^ 48)

/-- What an occupying command does when it is accepted, or judged again after a fault at acceptance. -/
def acceptCommand (s : State) (mop : Nat) (f : MatF) : State :=
  let a := f.acc.toNat
  let mf := f.mfmt.toNat
  let k := akindOf mf
  let base (m : Matrix) : Matrix := { m with idx := 0, slipk := 0, period := 0, ndrain := 0, fin := false, seenA := 0,
                                              seenB := 0, pairs := 0, phase := .accepting }
  let s := s.modMx base
  let timedStart (s : State) (next : State → Nat → State) : State :=
    if f.timed ∧ !s.mx.untimed then
      let d := stampOffset f s.cyc
      if d < 0 then matrixFault s 0x10 f.ra.toNat 0
      else next s (s.cyc + d.toNat)
    else next (s.modMx (fun m => { m with untimed := true })) (s.cyc + 1)
  if mop = 1 then s.modMx (fun m => { m.mzero s.tick a with phase := .zeroing, due := s.cyc + 16 })
  else if mop = 2 then s.modMx (fun m => { m with phase := .loadWait, due := s.cyc + 1 })
  else if mop = 3 then
    if s.mx.kind a = .f64 ∧ (a % 2 = 1 ∨ (s.myCore.ring f.rd.toNat).slot ≠ 2) then matrixFault s 0x12 f.rd.toNat 0
    else s.modMx (fun m => { m.foldIf a with phase := .drainWait, due := s.cyc + 1 })
  else if mop = 0 then
    let s := s.modMx (fun m => { m with beats := 0 })
    if f.accum ∧ s.mx.kind a ≠ k then matrixFault s 0x12 f.ra.toNat 0
    else
      let s := if f.accum then s else s.modMx (fun m => (m.claim s.tick a k).zero a k)
      timedStart s (fun s t => s.modMx (fun m => { m with phase := .pairWait, due := t, s0 := t }))
  else
    let s := s.modMx (fun m =>
      { (m.claim s.tick a k).zero a k with dla := f.la.toNat, dlb := f.lb.toNat, beats := 0, slips := 0, evlost := false })
    timedStart s (fun s t =>
      demand (s.modMx (fun m => { m with phase := .attempt, due := t, s0 := t })) f 0 f.la.toNat f.lb.toNat)

/-- The occupying command of a row is taken by an idle array. -/
def takeCommand (s : State) (mop : Nat) (f : MatF) : State :=
  let s := s.modMx (fun m => { m with mop, cmd := some f, lastop := mop, state := if mop = 4 then 2 else 1,
                                      untimed := false, stopreq := false })
  acceptCommand s mop f

def commandOf : Instr → Option (Nat × MatF)
  | .mma f => some (0, f)
  | .mzero f => some (1, f)
  | .mload f => some (2, f)
  | .mdrain f => some (3, f)
  | .simmer f => some (4, f)
  | _ => none

/-- An occupying command can be accepted (R180). -/
def Matrix.accepts (m : Matrix) : Bool := m.cmd.isNone && m.state != 3 && m.state != 2

/-- The lowest row whose command waits for the array. Of two occupying commands in one sync group the lower row's is taken while the group
holds for the other: DESIGN CHOICE, log 38 (05 R140 against R204). -/
def Core.waitingRow (c : Core) : Option Nat := (List.range 4).find? (fun r => (c.row r).handed && !(c.row r).taken)

/-- The command of a row's current MATRIX bundle. -/
def Core.rowCommand (c : Core) (r : Nat) : Option (Nat × MatF) :=
  match decodeBundle (c.bundle r (c.row r).pc) with
  | .ok (.matrix _ i) => commandOf i
  | _ => none

/-- The array, when it is idle, accepts the command of the lowest row that has handed one over. -/
def acceptWaiting (s : State) : State :=
  if !s.mx.accepts then s
  else
    match s.myCore.waitingRow with
    | none => s
    | some r =>
      match s.myCore.rowCommand r with
      | none => s
      | some (mop, f) =>
        takeCommand (s.modMyCore (fun c => c.setRow r { c.row r with taken := true, handed := false })) mop f

def execMatrixCommandAccept (s : State) : Out := .next (acceptWaiting s)

/-- A row hands its command over (R142); it is accepted in that cycle when the array is idle and no lower row waits. -/
def handOver (mop : Nat) (f : MatF) (s : State) : State :=
  if s.myRow.taken then s
  else if s.mx.accepts && (s.myCore.waitingRow.all (fun r => s.cur.row ≤ r)) then
    takeCommand (s.modMyRow (fun r => { r with taken := true, handed := false })) mop f
  else s.modMyRow (fun r => { r with handed := true })

def execMma (f : MatF) (s : State) : Out := .next (handOver 0 f s)
def execMzero (f : MatF) (s : State) : Out := .next (handOver 1 f s)
def execMload (f : MatF) (s : State) : Out := .next (handOver 2 f s)
def execMdrain (f : MatF) (s : State) : Out := .next (handOver 3 f s)
def execSimmer (f : MatF) (s : State) : Out := .next (handOver 4 f s)

def State.taken (s : State) : State := s.modMyRow (fun r => { r with taken := true })

/-- R199: STOPREQ while a run is in flight. -/
def execSimstop (s : State) : Out :=
  .next ((if s.mx.cmd.isSome && s.mx.mop == 4 && s.mx.phase != .ending then
      s.modMx (fun m => { m with stopreq := true }) else s).taken)

/-- R188; of the cycle's drain gathers it sees none (R204). -/
def execMstat (s : State) : Out :=
  .next ((s.modMx (fun m =>
    { m with mflags := m.seenFlags s.cyc
             mcopies := m.mcopies.filter (fun e => s.cyc < e.1) ++ [(s.cyc + 2, m.before s.cyc)] })).taken)

/-- R180, R189: accepted as it is handed over; its row then waits at the end of its issue cycle until the array is idle (`controlWaits`). -/
def execMfence (s : State) : Out := .next s.taken

/-! ## Pairs and beats (R182, R194, R195) -/

/-- Scratchpad bytes, free where their contents are undefined. -/
def Core.scrBytes (c : Core) (tick off n : Nat) : List Byte :=
  if c.sundef = [] then Memory.gets c.scratch off n else (List.range n).map (fun i => c.scrByte tick (off + i))

/-- The descriptor, scales and payload of the head slot of a ring, and whether a sector that the array reads carries poison: without
BLEN it reads no scales (R106). -/
def headTile (c : Core) (tick ring n : Nat) : Word × List Byte × List Byte × Bool :=
  let off := (c.ring ring).slotAt (c.ring ring).head
  let d := word (ofBytes (c.scrBytes tick off 8))
  (d, c.scrBytes tick (off + 64) 64, c.scrBytes tick (off + 256) n,
   c.scrPoisonedIn off 32 || (bits d 14 13 != 0 && c.scrPoisonedIn (off + 64) 64) || c.scrPoisonedIn (off + 256) n)

/-- The sector of the head slot's descriptor carries poison. -/
def headPoisoned (c : Core) (ring : Nat) : Bool := c.scrPoisonedIn ((c.ring ring).slotAt (c.ring ring).head) 32

/-- A tile whose descriptor is refused raises FORMAT_MISMATCH; of its sectors the array has read the descriptor's, and poison there sets
PSN: which sectors a refused tile's check reads is a DESIGN CHOICE, log 38 (03 R98, R203). -/
def refuseTile (s : State) (ring index : Nat) : State :=
  matrixFault (if headPoisoned s.myCore ring then s.modMx (fun m => m.addFlags fPSN) else s) 0x12 ring index

/-- The pair at the heads of RA and RB is accumulated; none where a tile is not accepted: that ring. Its flags enter the matrix flags in
its first cycle: DESIGN CHOICE, log 38. -/
def accumulatePair (s : State) (f : MatF) : Except Nat State :=
  let c := s.myCore
  let mf := f.mfmt.toNat
  let A := headTile c s.tick f.ra.toNat 4096
  let B := headTile c s.tick f.rb.toNat 4096
  if !(operandOk A.1 mf) then .error f.ra.toNat
  else if !(operandOk B.1 mf) then .error f.rb.toNat
  else
    let ra := tileRows A.1 A.2.1 mf A.2.2.1
    let rb := tileRows B.1 B.2.1 mf B.2.2.1
    let a := f.acc.toNat
    let psn := A.2.2.2 || B.2.2.2
    let k := akindOf mf
    .ok (s.modMx (fun m =>
      let m : Matrix := if psn then { m.addFlags fPSN with apsn := Tab.put m.apsn a true } else m
      if k = .i32 then
        let m : Matrix := { m with isum := Tab.put m.isum a (innerPair ra rb (m.sums a)), pairs := m.pairs + 1 }
        if m.pairs % 4 = 0 then m.fold a else m
      else
        let r := accPair mf ra rb (m.elems a k)
        (m.setElems a k r.1).addFlags r.2))

/-- A ring's head slot is present (R175). -/
def State.present (s : State) (ring : BitVec 3) : Bool := 0 < (s.myCore.ring ring.toNat).count

/-- The array releases the head slot of a ring (R176). -/
def releaseHead (s : State) (ring : Nat) : State :=
  let off := (s.myCore.ring ring).slotAt (s.myCore.ring ring).head
  (s.note (dwordLocs s.cur.m off)).modMyCore (fun c =>
    (c.scrWrite off (toBytes 8 0)).setRing ring ((c.ring ring).release))

def execMmaPairStart (s : State) : Out :=
  .next (match s.mx.cmd with
    | none => s
    | some f =>
      if s.mx.phase ≠ .pairWait ∨ s.cyc < s.mx.due then s
      else if s.present f.ra && s.present f.rb then
        match accumulatePair s f with
        | .error r => refuseTile s r s.mx.idx
        | .ok s' => s'.modMx (fun m => { m with phase := .pairRun, due := s.cyc + beatLen f.mfmt.toNat - 1 })
      else if s.mx.untimed then s
      else matrixFault s 0x10 (if s.present f.ra then f.rb.toNat else f.ra.toNat) s.mx.idx)

/-- The operand slots are released and the pair or beat counts. -/
def endPair (s : State) (f : MatF) : State :=
  (releaseHead (releaseHead s f.ra.toNat) f.rb.toNat).modMx
    (fun m => { m with idx := m.idx + 1, beats := (m.beats + 1) % 2 ^ 35 })

def execMmaPairEnd (s : State) : Out :=
  .next (match s.mx.cmd with
    | none => s
    | some f =>
      if s.mx.mop ≠ 0 ∨ s.mx.phase ≠ .pairRun ∨ s.cyc < s.mx.due then s
      else
        let s := endPair s f
        if s.mx.idx < f.count.toNat then s.modMx (fun m => { m with phase := .pairWait, due := s.cyc + 1 })
        else s.modMx (fun m => { m.foldIf f.acc.toNat with phase := .finishing, due := s.cyc + 9 }))

def execMmaComplete (s : State) : Out :=
  .next (if s.mx.phase = .finishing ∧ s.mx.due ≤ s.cyc then s.modMx Matrix.finish else s)

def execMzeroComplete (s : State) : Out :=
  .next (if s.mx.phase = .zeroing ∧ s.mx.due ≤ s.cyc then s.modMx Matrix.finish else s)

/-! ## Loads and drains (R185 to R187) -/

/-- The tile of an `mload` enters the accumulator. -/
def loadTile (s : State) (f : MatF) (payload : List Byte) (psn : Bool) : State :=
  let a := f.acc.toNat
  let k := akindOf f.mfmt.toNat
  let b := if k = .f64 then 8 else 4
  s.modMx (fun m =>
    let m := (m.claim s.tick a k).zero a k
    let m := m.setElems a k ((pieces b 4096 payload).map ofBytes)
    if psn then { m.addFlags fPSN with apsn := Tab.put m.apsn a true } else m)

/-- MLOAD_COMPLETE: a waiting load finds its slot and reads it; at the end of its cycles the slot is released. -/
def execMloadComplete (s : State) : Out :=
  .next (match s.mx.cmd with
    | none => s
    | some f =>
      if s.cyc < s.mx.due then s
      else if s.mx.phase = .loadWait then
        if s.present f.ra then
          let n := if f.mfmt = 4 then 32768 else 16384
          let t := headTile s.myCore s.tick f.ra.toNat n
          if loadOk t.1 f.mfmt.toNat then
            (loadTile s f t.2.2.1 t.2.2.2).modMx (fun m => { m with phase := .loading, due := s.cyc + n / 256 - 1 })
          else refuseTile s f.ra.toNat 0
        else s
      else if s.mx.phase = .loading then (releaseHead s f.ra.toNat).modMx Matrix.finish
      else s)

/-- A drain that is due finds a slot to publish, unless others have published into its ring: it then waits, DESIGN CHOICE, log 38
(R179). -/
def State.drainDue (s : State) (d : Drain) : Bool :=
  d.due ≤ s.cyc && (s.myCore.ring d.ring).count < (s.myCore.ring d.ring).depth

/-- COUNT < depth, the slots of drains in progress counted (R186, R195). -/
def State.drainRoom (s : State) (ring : Nat) : Bool :=
  (s.myCore.ring ring).count + s.mx.reserved ring < (s.myCore.ring ring).depth

/-- The accumulator moves into a drain buffer and the tail slot is reserved. -/
def beginDrain (s : State) (f : MatF) (tag last : Nat) (simmer final : Bool) : State :=
  s.modMyCore (fun c =>
    let m := c.matrix.foldIf f.acc.toNat
    let k := m.kind f.acc.toNat
    let words := match k with
      | .f64 => (m.elems f.acc.toNat k).flatMap (fun v => [BitVec.ofNat 32 v, BitVec.ofNat 32 (v / 2 ^ 32)])
      | _ => m.words f.acc.toNat
    let d : Drain :=
      { ring := f.rd.toNat
        due := s.cyc + (if k = .f64 then 129 else 65), tag
        fcode := match k with | .f32 => 3 | .f64 => 4 | .i32 => 6
        words, poison := m.poisoned f.acc.toNat, last, simmer, final }
    { c with matrix := { m with drains := m.drains ++ [d] } })

/-- MDRAIN_COMPLETE: a waiting drain finds a free slot; 65 or 129 cycles later the tile is published. -/
def execMdrainComplete (s : State) : Out :=
  .next (match s.mx.cmd with
    | none => s
    | some f =>
      if s.mx.phase = .drainWait then
        if s.mx.due ≤ s.cyc ∧ s.drainRoom f.rd.toNat then
          (beginDrain s f 0 0 false false).modMx (fun m => { m with phase := .draining })
        else s
      else if s.mx.phase = .draining then
        match s.mx.drains with
        | d :: l =>
          if s.drainDue d then
            let s := (writeDrain s s.cur.m d).modMx (fun m => { m with drains := l })
            let a := f.acc.toNat
            (if f.zero then s.modMx (fun m => m.zero a (m.kind a)) else s).modMx Matrix.finish
          else s
        | [] => s
      else s)

/-! ## Runs (R193 to R200) -/

/-- END is posted and the array becomes idle (R200). -/
def endRun (s : State) (f : MatF) : State :=
  (postMatrix s f 4 f.rd.toNat s.mx.idx s.cyc).modMx Matrix.finish

/-- The run has ended; END waits for the drains still being written. -/
def closeRun (s : State) (f : MatF) : State :=
  if s.mx.drains = [] then endRun s f else s.modMx (fun m => { m with phase := .ending })

/-- What the array evaluates as it restarts (R202). -/
def redemand (s : State) (f : MatF) : State :=
  if s.mx.again then
    demand (s.modMx (fun m => { m with again := false })) f s.mx.idx (s.mx.idx + f.la.toNat) (s.mx.idx + f.lb.toNat)
  else s

/-- The next attempt or check is one beat later (R194, R195). -/
def slip (s : State) (f : MatF) : State :=
  s.modMx (fun m => { m with slipk := m.slipk + 1, slips := min (m.slips + 1) 0xFFFF,
                             due := s.cyc + beatLen f.mfmt.toNat })

/-- The boundary after a beat: at a drain point the accumulator moves into a buffer; at an end the run closes. A `simstop` accepted while a
drain point slips for room ends the run at the boundary at which room is found: DESIGN CHOICE, log 38 (R199). -/
def drainPoint (s : State) (f : MatF) : State :=
  let m := s.mx
  let last := f.count != 0 && m.idx == f.count.toNat
  if m.fin || last || m.idx % f.dper.toNat == 0 then
    if s.drainRoom f.rd.toNat then
      let final := m.fin || last || m.stopreq
      let s := beginDrain s f m.ndrain (m.idx - 1) true final
      let s := s.modMx (fun m =>
        { m.blank f.acc.toNat (m.kind f.acc.toNat) with period := 0, ndrain := m.ndrain + 1, fin := false })
      if final then s.modMx (fun m => { m with phase := .ending })
      else s.modMx (fun m => { m with phase := .attempt, due := s.cyc })
    else if f.policy then matrixFault s 0x11 f.rd.toNat m.idx
    else slip s f
  else s.modMx (fun m => { m with phase := .attempt, due := s.cyc })

/-- BEAT_END: the last cycle of a beat releases its slots; the cycle after it is the boundary. -/
def execBeatEnd (s : State) : Out :=
  .next (match s.mx.cmd with
    | none => s
    | some f =>
      if s.mx.mop ≠ 4 ∨ s.cyc < s.mx.due then s
      else if s.mx.phase = .pairRun then
        (endPair s f).modMx (fun m => { m with period := m.period + 1, phase := .drainPoint, due := s.cyc + 1 })
      else if s.mx.phase = .drainPoint then drainPoint (redemand s f) f
      else s)

/-- A missed attempt (R194, R199). -/
def missBeat (s : State) (f : MatF) : State :=
  let s := s.modMx (fun m => { m with missAdd := m.missAdd + 1 })
  if f.policy then matrixFault s 0x11 (if s.present f.ra then f.rb.toNat else f.ra.toNat) s.mx.idx
  else if s.mx.stopreq then
    if 0 < s.mx.period then
      drainPoint (s.modMx (fun m => { m with fin := true, phase := .drainPoint, due := s.cyc })) f
    else closeRun s f
  else slip s f

def execSimmerAttempt (s : State) : Out :=
  .next (match s.mx.cmd with
    | none => s
    | some f =>
      if s.mx.phase ≠ .attempt ∨ s.cyc < s.mx.due then s
      else
        let s := redemand s f
        if s.present f.ra && s.present f.rb then
          match accumulatePair s f with
          | .error r => refuseTile s r s.mx.idx
          | .ok s' =>
            (demand s' f s.mx.idx (s.mx.idx + f.la.toNat + 1) (s.mx.idx + f.lb.toNat + 1)).modMx
              (fun m => { m with phase := .pairRun, due := s.cyc + beatLen f.mfmt.toNat - 1 })
        else missBeat s f)

/-- SIMMER_DRAIN_PUBLISH: the oldest drain of a run is published and posts a DRAIN event, or ends the run; a fault that has waited for it
is raised. -/
def execSimmerDrainPublish (s : State) : Out :=
  .next (match s.mx.cmd, s.mx.drains with
    | some f, d :: l =>
      if !d.simmer || !(s.drainDue d) then s
      else
        let s := (writeDrain s s.cur.m d).modMx (fun m => { m with drains := l })
        let s := if d.final then s else postMatrix s f 3 f.rd.toNat d.last s.cyc
        if s.mx.phase = .ending ∧ l = [] then endRun s f else raiseMatrix s
    | _, _ => s)

/-! ## Restarts (R202, 13 R414) -/

/-- The array runs again in the next cycle, after a fault or on a new core: the command continues at its pair or beat, untimed. -/
def restartMatrix (s : State) (core : Nat) : State :=
  let back := s.cur
  let s : State := { s with cur := { s.cur with m := core } }
  let s : State := match s.mx.cmd with
    | none => s.modMx (fun m => { m with state := 0 })
    | some f =>
      let s : State := s.modMx (fun m => { m with state := if m.mop = 4 then 2 else 1, untimed := true })
      if s.mx.phase = .accepting then acceptCommand s s.mx.mop f
      else if s.mx.mop = 4 ∧ (s.mx.phase = .attempt ∨ s.mx.phase = .drainPoint) then
        let bt := beatLen f.mfmt.toNat
        let r := s.cyc + 1
        s.modMx (fun m => { m with due := r, s0 := (r : Int) - ((m.idx + m.slipk) * bt : Nat), again := true })
      else s.modMx (fun m => { m with due := s.cyc + 1 })
  { s with cur := back }

end Sys2Proof.Machine
end

