-- ==== Sys2Proof/Machine/Net.lean ====
section
/-! DEFINITION. Network engines and storage doorbells (08 R265 to R276). -/

namespace Sys2Proof.Machine

/-- Reads of an instruction's tables by a unit: the values, in order, and the state with the leaves used. -/
def State.unitRead (s : State) (master job : Nat) (ea : Word) (n : Nat) (k : State → List Byte → State) : State :=
  s.unitAccess master job ea n needRead (fun s' acc => k s' (hubRead s' acc))

def dwordOf (bs : List Byte) (i : Nat) : Word := word (bytesAt bs (8 * i) 8)

/-- A span of ordinary memory that is canonical throughout. -/
def ordinary (st : Word) (n : Nat) : Bool :=
  !((st.toNat + n > 2 ^ 56 && st.toNat < 0xFF * 2 ^ 56) || (st.toNat + n > 2 ^ 64)) &&
    !(st.toNat < 2 ^ 56 && 0x00FFFFFFF0000000 < st.toNat + n)

/-! ## Sending (R266 to R268) -/

/-- The thread a message belongs to. -/
def State.msgSlot (s : State) : Nat := if s.me.svc then s.curKey else s.me.slot
def State.outstanding (s : State) : Nat :=
  (s.msgs.filter (fun e => e.2.task == s.me.task && e.2.slot == s.msgSlot)).length

/-- An endpoint entry that is bound (R266). -/
def endpointOk (hdr : Word) (ep : Nat) (e : List Byte) : Bool :=
  bits hdr 63 32 == 0 && ep < bits hdr 31 0 &&
  (let d := dwordOf e 0
   bit d 63 && bits d 62 40 == 0 && bits d 39 32 != 0 && bits d 31 16 == 0 && dwordOf e 3 == 0)

/-- The status of `nsend`, lowest first (R267). -/
def nsendStatus (bound : Bool) (r : Nat → Word) : Nat :=
  let len := (r 2).toNat
  let crec := r 5
  if !bound then 1
  else if len = 0 ∨ 2 ^ 24 < len then 2
  else if !(ordinary (r 1) len) || (crec != 0 && (!(ordinary crec 16) || crec.toNat % 16 != 0)) then 3
  else if bits (r 0) 63 40 ≠ 0 ∨ r 6 ≠ 0 ∨ r 7 ≠ 0 then 4
  else 0

def enqueueMessage (d : Reg) (i : Instr) (engine job : Nat) (e : List Byte) (r : Nat → Word) (s s' : State) : State :=
  if 64 ≤ s.outstanding then s.hold i
  else
    let m : Msg :=
      { task := s.me.task, slot := s.msgSlot, engine, job, rjob := bits (dwordOf e 0) 15 0,
        ports := bits (dwordOf e 0) 39 32, fahi := dwordOf e 1, falo := dwordOf e 2, ring := bits (r 0) 39 32,
        ep := bits (r 0) 31 0, src := r 1, len := (r 2).toNat, tag := r 3, imm := r 4, crec := r 5 }
    State.result { s' with msgs := Tab.put s'.msgs s'.nextId m, nextId := s'.nextId + 1 } d 0

/-- R266, R267. A frozen engine takes no command, and the thread holds (12 R389: DEDUCED, log 26). -/
def nsend (d a : Reg) (sc : Scope) (s : State) : State :=
  let job := s.agent.job
  let engine := Config.freeNat s.tick 12 0 % 8
  let m := 0x1040 + engine
  if s.frozen.contains m then s.hold (.nsend d a sc) else
  let r (i : Nat) : Word := s.rx (regPlus a i)
  let ep := bits (r 0) 31 0
  let finish (s' : State) (bound : Bool) (e : List Byte) : State :=
    match nsendStatus bound r with
    | 0 => enqueueMessage d (.nsend d a sc) engine job e r s s'
    | n => s'.result d (word n)
  s.unitJobWord job 5 (fun s eptab =>
    s.unitRead m job eptab 8 (fun s' h =>
      let hdr := dwordOf h 0
      if ep < bits hdr 31 0 then
        s'.unitRead m job (eptab + word (64 + 32 * ep)) 32 (fun s'' e => finish s'' (endpointOk hdr ep e) e)
      else finish s' false []))

def execNsend (d a : Reg) (sc : Scope) (s : State) : Out :=
  .next (s.reading ((List.range 8).map (regPlus a)) (nsend d a sc s))

def Msg.packets (m : Msg) : Nat := (m.len + 4095) / 4096
def State.setMsg (s : State) (id : Nat) (m : Msg) : State := { s with msgs := Tab.put s.msgs id m }

/-- `n` added to the field of `w` bytes at `va` by an RMW; in another package its home performs it (10 R316). -/
def addField (s : State) (master job : Nat) (va : Word) (w n : Nat) : Except Fail State :=
  if n = 0 then .ok s
  else
    match hubCheck s master job va w needBoth with
    | .error f => .error f
    | .ok acc =>
      let s := hubCommit s master job needBoth acc
      .ok (if acc.far.isSome then s.requests acc.locs (.rmw .add 0 w n 0)
        else hubWrite s acc (toBytes w ((hubNow s acc + n) % 2 ^ (8 * w))))

/-- RETRIES, FAILS and DONE of the completion record grow (R268); the message ends with DONE. The adds of a frozen engine wait for the thaw
(12 R389). -/
def countRecord (s : State) (id : Nat) (m : Msg) (fails retries done : Nat) (hub : Option Nat) : State :=
  let master := 0x1040 + m.engine
  let step : Except Fail State :=
    if m.crec = 0 then .ok s
    else
      match addField s master m.job (m.crec + 8) 4 retries with
      | .error f => .error f
      | .ok s =>
        match addField s master m.job (m.crec + 12) 4 fails with
        | .error f => .error f
        | .ok s => addField s master m.job m.crec 8 done
  match if s.frozen.contains master then .error (.denied 0 0) else step with
  | .error f =>
    withholdHub s master 4 m.job m.task needBoth (.record id m.crec fails retries done)
      ((hub.bind (Tab.find s.hub)).map (·.since)) hub f
  | .ok s => let s := dropHub s hub; if done = 0 then s else { s with msgs := Tab.del s.msgs id }

/-- The message waits behind a withheld access of its own. -/
def State.msgHeld (s : State) (id : Nat) : Bool :=
  s.hub.any (fun e => match e.2.act with
    | .payload m _ _ => m == id
    | .record m _ _ _ _ => m == id
    | _ => false)

/-- One packet goes out, its payload read through the job's translation (R268); a retransmission counts in RETRIES. -/
def sendPacket (s : State) (id pkt port : Nat) (m : Msg) (hub : Option Nat) : State :=
  let master := 0x1040 + m.engine
  let n := min 4096 (m.len - 4096 * pkt)
  let ea := m.src + word (4096 * pkt)
  match hubCheck s master m.job ea n needRead with
  | .error f =>
    withholdHub s master 3 m.job m.task needRead (.payload id pkt port) ((hub.bind (Tab.find s.hub)).map (·.since)) hub f
  | .ok acc =>
    let s := dropHub (hubCommit s master m.job needRead acc) hub
    let again := m.retx.contains pkt
    let m' := { m with flying := Tab.put m.flying pkt s.cyc, retx := m.retx.filter (· != pkt) }
    let p : Packet :=
      { engine := m.engine, src := 0, msg := id, rjob := m.rjob, ring := m.ring, sep := m.ep, tag := m.tag, imm := m.imm,
        len := m.len, pkt, data := hubRead s acc }
    let s := { s.setMsg id m' with out := s.out ++ [.packet port m.fahi m.falo p] }
    if again then countRecord s id m' 0 1 0 none else s

/-- PACKET_SEND: an engine that is not frozen sends a packet that has not been sent, or is to be retransmitted. -/
def execPacketSend (msg pkt port : Nat) (s : State) : Out :=
  .next (match Tab.find s.msgs msg with
    | none => s
    | some m =>
      if m.packets ≤ pkt || m.acked.contains pkt || m.backTo.isSome || !(m.ports.testBit port) || 8 ≤ port || s.pkg.ethernetOff.contains port ||
          (Tab.find m.flying pkt).isSome || s.frozen.contains (0x1040 + m.engine) || s.msgHeld msg then s
      else sendPacket s msg pkt port m none)

/-- PACKET_TIMEOUT: an unacknowledged packet is to be retransmitted alone (R265), once its engine is not frozen. -/
def execPacketTimeout (msg pkt : Nat) (s : State) : Out :=
  .next (match Tab.find s.msgs msg with
    | none => s
    | some m =>
      match Tab.find m.flying pkt with
      | none => s
      | some t =>
        if s.cyc < t + Config.packetTimeout || s.frozen.contains (0x1040 + m.engine) then s
        else s.setMsg msg { m with flying := Tab.del m.flying pkt, retx := pkt :: m.retx })

/-- REFUSED_FOR_NOW_RETRY: after the back-off the message is sent again (R270). -/
def execRefusedForNowRetry (msg : Nat) (s : State) : Out :=
  .next (match Tab.find s.msgs msg with
    | none => s
    | some m =>
      match m.backTo with
      | none => s
      | some t => if s.cyc < t || s.frozen.contains (0x1040 + m.engine) then s else s.setMsg msg { m with backTo := none, flying := [], retx := [] })

/-- ACK_RECEIVED (R265, R268, R270). A frozen engine takes none, and its messages keep their state (12 R389): what an answer said is asked
for again by retransmission (DEDUCED, log 26). -/
def execAckReceived (k : Ack) (s : State) : Out :=
  .next (match Tab.find s.msgs k.msg with
    | none => s
    | some m =>
      if s.frozen.contains (0x1040 + m.engine) then s else
      match k.answer with
      | .received acked missing =>
        let lost := missing.filter (fun p => (Tab.find m.flying p).isSome && !(acked.contains p))
        let m := { m with acked := m.acked ++ acked.filter (fun p => !(m.acked.contains p) && p < m.packets)
                          flying := m.flying.filter (fun e => !(acked.contains e.1) && !(lost.contains e.1))
                          retx := m.retx.filter (fun p => !(acked.contains p)) ++ lost }
        let s := s.setMsg k.msg m
        if (List.range m.packets).all (fun p => m.acked.contains p) then countRecord s k.msg m 0 0 1 none else s
      | .refusedForNow =>
        if m.backTo.isSome then s
        else
          let m := { m with backTo := some (s.cyc + Config.backOff) }
          countRecord (s.setMsg k.msg m) k.msg m 0 1 0 none
      | .refusedForGood => countRecord s k.msg m 1 0 1 none)

/-! ## Receiving (R269 to R271) -/

def ringKey (job ring : Nat) : Nat := 256 * job + ring
def State.recvRing (s : State) (key : Nat) : Option RecvRing := Tab.find s.recvRings key
def State.setRecv (s : State) (key : Nat) (r : RecvRing) : State := { s with recvRings := Tab.put s.recvRings key r }

/-- Base, size and counter of a binding (R269). A counter is a dword, aligned to 8; with a size of 0 neither it nor the base is judged: DESIGN
CHOICE, log 22. -/
def bindOk (base : Word) (size : Nat) (ctr : Word) : Bool :=
  base.toNat % 4096 == 0 && size % 4096 == 0 && 8192 ≤ size && size ≤ 2 ^ 30 && ordinary base size &&
    (ctr == 0 || (ctr.toNat % 8 == 0 && ordinary ctr 8))

/-- `nrecv`: the statuses in ascending order (DEDUCED, log 22). -/
def nrecv (d a : Reg) (s : State) : State :=
  let job := s.agent.job
  let r (i : Nat) : Word := s.rx (regPlus a i)
  let size := (r 1).toNat
  let key := ringKey job (bits (r 3) 7 0)
  let old := s.recvRing key
  if old.isSome ∧ size ≠ 0 then s.result d 1
  else if size ≠ 0 ∧ !(bindOk (r 0) size (r 2)) then s.result d 2
  else if bits (r 3) 63 8 ≠ 0 then s.result d 3
  else
    match old with
    | none =>
      if size = 0 then s.result d 4
      else
        let m := 0x1040 + Config.freeNat s.tick 13 0 % 8
        if s.frozen.contains m then s.hold (.nrecv d a)
        else s.unitAccess m job (r 0) 16 needWrite (fun s' acc =>
          ((hubWrite s' acc (List.replicate 16 0)).setRecv key { base := r 0, size, ctr := r 2 }).result d 0)
    | some x =>
      if x.recs = [] then State.result { s with recvRings := Tab.del s.recvRings key } d 0
      else (s.setRecv key { x with unbinding := true }).hold (.nrecv d a)

def execNrecv (d a : Reg) (s : State) : Out :=
  .next (s.reading ((List.range 4).map (regPlus a)) (nrecv d a s))

/-- The answer to a packet goes back to its sender. -/
def State.answer (s : State) (p : Packet) (a : AckAnswer) : State := { s with out := s.out ++ [.answer p.src p.msg a] }

/-- Where a message of `L` bytes goes: refused for good or for now, or its position, the pad before it, and TAIL
(R270). -/
def reserve (S tail head L : Nat) : Except AckAnswer (Nat × Option (Nat × Nat) × Nat) :=
  let pos := tail % S
  let free : Int := (S : Int) - ((tail : Int) - head)
  if S < L then .error .refusedForGood
  else if L ≤ S - pos ∧ (L : Int) ≤ free then .ok (pos, none, tail + L)
  else if ((S - pos + L : Nat) : Int) ≤ free then .ok (0, some (pos, S - pos), tail + (S - pos) + L)
  else .error .refusedForNow

/-- Several writes for a job, all checked before the first takes effect. -/
def hubWrites (s : State) (master job : Nat) : List (Word × List Byte) → Except Fail State
  | [] => .ok s
  | (ea, data) :: l =>
    match hubCheck s master job ea data.length needWrite with
    | .error f => .error f
    | .ok acc =>
      match hubWrites s master job l with
      | .error f => .error f
      | .ok _ => hubWrites ((hubWrite (hubCommit s master job needWrite acc) acc data).clearWritten acc.locs) master job l

def recordLen (len : Nat) : Nat := 64 + (len + 63) / 64 * 64

/-- The fields of a record but dword 0 (R271). -/
def recordHead (p : Packet) : List Byte :=
  toBytes 8 (p.sep % 2 ^ 32) ++ toBytes 8 p.tag.toNat ++ toBytes 8 p.imm.toNat ++ List.replicate 32 0

/-- One packet placed in a record: at the last one, dword 0 and the counter follow (R271). The error says which rights were asked for. -/
def placeIn (s : State) (key master : Nat) (x : RecvRing) (r : RecvRec) (p : Packet) : Except (Need × Fail) State :=
  let job := p.rjob
  let at_ := x.base + word (64 + r.pos)
  let got := if r.got.contains p.pkt then r.got else p.pkt :: r.got
  let complete := got.length = (p.len + 4095) / 4096
  let writes := (at_ + word (64 + 4096 * p.pkt), p.data) :: (if complete then [(at_, toBytes 8 (p.len % 2 ^ 32))] else [])
  let after (s : State) : State :=
    let recs := x.recs.filter (fun y => !(y.src == p.src && y.msg == p.msg))
    let s := s.setRecv key { x with recs := if complete then recs else { r with got } :: recs }
    if complete then { s with received := (p.src, p.msg) :: s.received } else s
  if complete ∧ x.ctr ≠ 0 then
    match hubCheck s master job x.ctr 8 needBoth with
    | .error f => .error (needBoth, f)
    | .ok _ =>
      match hubWrites s master job writes with
      | .error f => .error (needWrite, f)
      | .ok s => ((addField s master job x.ctr 8 1).map after).mapError (fun f => (needBoth, f))
  else ((hubWrites s master job writes).map after).mapError (fun f => (needWrite, f))

def seenPackets (got : List Nat) (p : Packet) : AckAnswer :=
  let all := if got.contains p.pkt then got else p.pkt :: got
  .received all []

/-- A packet that arrived is placed, its record reserved first when it is a message's first (R270, R271). -/
def placePacket (s : State) (p : Packet) (hub : Option Nat) : State :=
  let master := 0x1040 + p.engine % 8
  let key := ringKey p.rjob p.ring
  let job := p.rjob
  let wait (need : Need) (f : Fail) : State :=
    withholdHub s master 5 job (job * 2 ^ 48) need (.place p) ((hub.bind (Tab.find s.hub)).map (·.since)) hub f
  let all := (List.range ((p.len + 4095) / 4096))
  if s.received.contains (p.src, p.msg) then (dropHub s hub).answer p (.received all [])
  else
    match s.recvRing key with
    | none => (dropHub s hub).answer p .refusedForGood
    | some x =>
      match x.recs.find? (fun y => y.src == p.src && y.msg == p.msg) with
      | some r =>
        match placeIn s key master x r p with
        | .error f => wait f.1 f.2
        | .ok s => (dropHub s hub).answer p (seenPackets r.got p)
      | none =>
        if x.unbinding then (dropHub s hub).answer p .refusedForGood
        else
          match hubCheck s master job x.base 8 needRead with
          | .error f => wait needRead f
          | .ok acc =>
            let s0 := hubCommit s master job needRead acc
            match reserve (x.size - 64) x.tail (hubValue s0 acc) (recordLen p.len) with
            | .error a => (dropHub s0 hub).answer p a
            | .ok (pos, pad, tail) =>
              let r : RecvRec := { src := p.src, msg := p.msg, pos, got := [] }
              let x' := { x with tail, recs := r :: x.recs }
              let padw := match pad with
                | none => []
                | some (q, n) => [(x.base + word (64 + q), toBytes 8 (2 ^ 63 + n))]
              match hubWrites s0 master job
                  (padw ++ [(x.base + 8, toBytes 8 tail), (x.base + word (64 + pos + 8), recordHead p)]) with
              | .error f => wait needWrite f
              | .ok s1 =>
                match placeIn (s1.setRecv key x') key master x' r p with
                | .error f => wait f.1 f.2
                | .ok s2 => (dropHub s2 hub).answer p (seenPackets [] p)

def execPacketArrival (p : Packet) (s : State) : Out :=
  .next (if s.frozen.contains (0x1040 + p.engine % 8) then s else placePacket s p none)

/-! ## Storage (R274, R275) -/

/-- An entry of the storage queue table that is bound. -/
def storageOk (hdr : Word) (i : Nat) (e : List Byte) : Bool :=
  bits hdr 63 32 == 0 && i < bits hdr 31 0 &&
  (let d := dwordOf e 0
   bit d 63 && bits d 62 48 == 0 && bits d 15 2 == 0 && bits d 1 0 != 0 && bits (dwordOf e 1) 1 0 == 0 &&
     bits (dwordOf e 2) 1 0 == 0 && dwordOf e 5 == 0 && dwordOf e 6 == 0 && dwordOf e 7 == 0)

def doorbell (d : Reg) (a v : Word) (bound : Bool) (e : List Byte) (s : State) : State :=
  let cq := bit a 12
  let size := (if cq then bits (dwordOf e 0) 31 16 else bits (dwordOf e 0) 47 32) + 1
  if !bound then s.result d 1
  else if size ≤ v.toNat then s.result d 2
  else if bits a 63 13 ≠ 0 then s.result d 3
  else
    State.result { s with out := s.out ++ [.doorbell (bits (dwordOf e 0) 1 0) (dwordOf e (if cq then 2 else 1))
      (BitVec.ofNat 32 (v.toNat % 2 ^ 16))] } d 0

def execSsubmit (d a b : Reg) (_sc : Scope) (s : State) : Out :=
  .next (s.reading [a, b]
    (let job := s.agent.job
     let m := s.agent.master
     let i := bits (s.rx a) 11 0
     s.unitJobWord job 6 (fun s tab =>
       s.unitRead m job tab 8 (fun s' h =>
         let hdr := dwordOf h 0
         if i < bits hdr 31 0 then
           s'.unitRead m job (tab + word (64 + 64 * i)) 64
             (fun s'' e => doorbell d (s.rx a) (s.rx b) (storageOk hdr i e) e s'')
         else doorbell d (s.rx a) (s.rx b) false [] s'))))

end Sys2Proof.Machine
end

