-- ==== Sys2Proof/Machine/Tasks.lean ====
section
/-! DEFINITION. The end of threads, tasks, launches and graphs: exits, drains, cancellation and completion counters (11
R350, R353 to R356; 09 R310; 08 R277). -/

namespace Sys2Proof.Machine

/-! ## Threads and engines of a task -/

/-- Keys of the live threads of a task: home threads, and helpers. -/
def State.threadsOf (s : State) (id : Nat) : List Nat :=
  (s.threads.filter (fun e => e.2.task == id && e.1 / 8 < 0x1000 && s.isLive e.1)).map (·.1)

/-- Every part of the thread's `exit` that concerns copies is met: tokens at 0 and flags written (R353). -/
def State.copiesDone (s : State) (k : Nat) : Bool :=
  (s.thr k).tokens.all (fun e => e.2.pend == 0) &&
    !((s.core (k / 8)).copies.any (fun c => c.thr == k && !c.orphan))

/-- A stream unit is idle or stopped. -/
def Core.streamQuiet (c : Core) (u : Nat) : Bool := !((c.stream u).busy)

/-- The thread ends; its record stands until its task ends. -/
def endThread (s : State) (k : Nat) : State :=
  let th := { (s.thr k).settle s.cyc with life := .ended, parked := none, remote := none, waiting := [] }
  let s := s.modTask th.task (fun t => { t with privThreads := Tab.put t.privThreads th.slot th })
  if th.helper then s.setThr k {} else s.setThr k th

/-- The core's staging of a home thread is discarded (09 R310). -/
def dropStaging (s : State) (core t : Nat) : State :=
  s.modCore core (fun c => { c with stagings := Tab.del c.stagings t })

/-- A copy of which only the chunks in flight are still to finish, with no flag and no CRC; nothing is left of it when it has none. -/
def Copy.cutShort (c : Copy) : Option Copy :=
  let l := c.away ++ c.far.map (fun f => (f.lo, f.hi))
  if l = [] then none
  else some { c with orphan := true, left := l, flag := false, crc := false, withheld := [], drains := false, stopped := false }

/-- The effects of `exit.abort` on a thread's engines (R355). -/
def stopThread (s : State) (k : Nat) : State :=
  let m := k / 8
  let t := k % 8
  let s := s.modCore m (fun c => { c with copies := c.copies.filterMap (fun x => if x.thr = k ∧ !x.orphan then x.cutShort else some x) })
  let s := s.modThr k (fun th => { th with tokens := [] })
  if (s.thr k).helper then s
  else
    let s := (List.range 8).foldl (fun s u =>
      if ((s.core m).stream u).owner = t ∧ ((s.core m).stream u).state ≠ .idle then
        discardStream s m u
      else s) s
    let s := (s.core m).graphs.foldl (fun s g => if g.2.owner = t then killGraph s m g.1 else s) s
    dropStaging s m t

/-! ## Completion counters (R350, R354) -/

/-- The job counter of an ended graph: JCTR of the job entry (R350). -/
def jobCount (s : State) (master job : Nat) (hub : Option Nat) : State :=
  let wait (f : Fail) : State :=
    withholdHub s master 2 job (job * 2 ^ 48) needBoth (.count 0 2 job) ((hub.bind (Tab.find s.hub)).map (·.since)) hub f
  match jobWord s job 7 with
  | .error c => wait (.trap c ((Config.freeVec s.tick 1 0).setWidth 64))
  | .ok va =>
    let s := s.keepJob job 7 va
    if va = 0 then dropHub s hub
    else
      match addField s master job va 8 1 with
      | .error f => wait f
      | .ok s => dropHub s hub

/-- One launch of a graph has ended or been cancelled; the graph ends when it is sealed and no launch is left. -/
def graphDone (s : State) (master g : Nat) : State :=
  match Tab.find s.wgraphs g with
  | none => s
  | some x =>
    if x.left ≤ 1 ∧ (x.sealed ∨ x.cancelled) then
      let s := { s with wgraphs := Tab.del s.wgraphs g }
      if x.cancelled then s else jobCount s master x.job none
    else { s with wgraphs := Tab.put s.wgraphs g { x with left := x.left - 1 } }

/-- The graph counter of an ended launch. -/
def graphCount (s : State) (master g : Nat) (hub : Option Nat) : State :=
  match Tab.find s.wgraphs g with
  | none => dropHub s hub
  | some x =>
    if x.ctr = 0 then graphDone (dropHub s hub) master g
    else
      match addField s master x.job x.ctr 8 1 with
      | .error f =>
        withholdHub s master 2 x.job g needBoth (.count x.ctr 1 g) ((hub.bind (Tab.find s.hub)).map (·.since)) hub f
      | .ok s => graphDone (dropHub s hub) master g

/-- The launch ends; it is no longer waiting or live. -/
def launchEnded (s : State) (master lid : Nat) : State :=
  match Tab.find s.launches lid with
  | none => s
  | some l =>
    let s := { s with launches := Tab.del s.launches lid, tasks := s.tasks.filter (fun e => handleLid e.1 != lid)
                      reservation := if s.reservation = some lid then none else s.reservation, dirty := true }
    if l.graph = 0 then s else if l.cancelled then graphDone s master l.graph else graphCount s master l.graph none

/-- A task of the launch has ended; with the last one the launch ends. -/
def taskCounted (s : State) (master lid : Nat) : State :=
  let l := s.launchOf lid
  if l.left ≤ 1 then launchEnded (s.setLaunch lid { l with left := 0 }) master lid
  else s.setLaunch lid { l with left := l.left - 1 }

/-- The launch counter of an ended task (R354 step 4). -/
def launchCount (s : State) (master id : Nat) (hub : Option Nat) : State :=
  let lid := handleLid id
  let l := s.launchOf lid
  if l.lctr = 0 then taskCounted (dropHub s hub) master lid
  else
    match addField s master l.job l.lctr 8 1 with
    | .error f =>
      withholdHub (s.modTask id (fun t => { t with life := .counting })) master 2 l.job lid needBoth (.count l.lctr 0 id)
        ((hub.bind (Tab.find s.hub)).map (·.since)) hub f
    | .ok s => taskCounted ((dropHub s hub).modTask id (fun t => { t with life := .ended })) master lid

/-! ## The end of a task -/

/-- The binding of a role is withdrawn (01 R31). -/
def State.unbind (s : State) (id : Nat) : State :=
  let lid := handleLid id
  match Tab.find s.launches lid with
  | none => s
  | some l => s.setLaunch lid { l with bind := Tab.del l.bind (handleRole id) }

/-- A copy that outlives its task: one whose thread has ended, unless it fills a ring slot of the task (01 R20, R31). -/
def Copy.outlives (c : Copy) : Bool := c.orphan && !c.isSlot

/-- What stays on a core without its home task: the helpers' copies and chunks in flight, the issue pointers, the scratchpad's bytes. -/
def Core.vacated (c : Core) (home : Nat) : Core :=
  { scratch := c.scratch, spoison := c.spoison, sundef := c.sundef, ptrs := c.ptrs, lows := c.lows
    copies := c.copies.filter (fun x => x.task != home || x.outlives) }

/-- Chains of a task: its own end with it, and those into it discard their entries (R366, R367). -/
def endChains (s : State) (id : Nat) : State :=
  let lid := handleLid id
  let role := handleRole id
  { s with
    spills := s.spills.filter (fun e => e.1 / 16 != id)
    chains := (s.chains.filter (fun e => !(e.2.slid == lid && e.2.desc.srole == role))).map (fun e =>
      if e.2.desc.dpkg = 0xFF ∧ e.2.desc.dlid = lid ∧ e.2.desc.drole = role then
        (e.1, { e.2 with dead := true, flight := [], refused := false }) else e) }

/-- Its threads are removed and its core is free (R354 steps 3 and 4). -/
def freeCore (s : State) (id : Nat) : State :=
  let core := (s.taskOf id).core
  let s := (s.threadsOf id).foldl endThread s
  let s := { s with threads := s.threads.filter (fun e => !(e.2.task == id && e.1 / 8 < 0x1000)) }
  let s := s.setCore core ((s.core core).vacated id)
  { endChains (s.unbind id) id with dirty := true }

/-- The increments of the current cycle enter a task's words at its end (04 R122). -/
def Task.settled (t : Task) : Task :=
  { t with tflags := t.tflags ||| t.tflagsAdd, tflagsAdd := 0, qemptyAdd := []
           qempty := t.qemptyAdd.foldl (fun l e => Tab.put l e.1 (Tab.get 0 l e.1 + e.2)) t.qempty }
def Matrix.counted (m : Matrix) : Matrix := { m with misscnt := m.misscnt + m.missAdd, missAdd := 0 }

/-- The words of a core's home task take the cycle's increments. -/
def settleCounters (s : State) (core : Nat) : State :=
  let id := (s.core core).home
  if id = 0 then s else (s.modCore core (fun c => { c with matrix := c.matrix.counted })).modTask id Task.settled

/-- Copies that fill the rings of a task, on the cores of its helpers, end with it (01 R20). -/
def dropSlotCopies (s : State) (id : Nat) : State :=
  { s with cores := s.cores.map (fun (e : Nat × Core) =>
      (e.1, { e.2 with copies := e.2.copies.filter (fun x => x.task != id || x.outlives) })) }

/-- Steps 2 to 5 of R354; a cancelled task counts nothing. -/
def finishTask (s : State) (id : Nat) (counted : Bool) : State :=
  let core := (s.taskOf id).core
  let s := settleCounters (gatherMatrix (gatherPes s core) core) core
  let s := dropSlotCopies s id
  let s := (freeCore s id).modTask id (fun t => { t with life := .ended })
  if counted then launchCount s core id none else taskCounted s core (handleLid id)

/-- Every unit of the task stops without draining (R355): drains in progress are published. -/
def abortUnits (s : State) (id : Nat) : State :=
  let core := (s.taskOf id).core
  let s := (s.threadsOf id).foldl stopThread s
  let s := (s.core core).graphs.foldl (fun s g => buryGraph (killGraph s core g.1) core g.1) s
  let s := (s.core core).matrix.drains.foldl (fun s d => writeDrain s core d) s
  s.modCore core (fun c => { c with matrix := { c.matrix with drains := [] } })

/-- Reads of row sections still to be made for a task (13 R472 kind 1). -/
def dropLoads (s : State) (id : Nat) : State :=
  { s with hub := s.hub.filter (fun e => match e.2.act with | .load _ t => t != id | _ => true) }

/-- A row section or role data of the task is still to be read. -/
def State.loading (s : State) (id : Nat) : Bool := s.hub.any (fun e => match e.2.act with | .load _ t => t == id | _ => false)

/-- A task begins; one that was pre-empted meanwhile is saved at once. -/
def begun (s : State) (id : Nat) : State :=
  s.modTask id (fun t => { t with life := if t.saving.isSome then .saved else t.life })

/-- The tasks of a launch that have not run yet start together, once nothing is left to read (R349, R472). -/
def startFirst (s : State) (lid : Nat) : State :=
  let first := (s.tasks.filter (fun e => handleLid e.1 == lid && e.2.life == .starting)).filter (fun e => e.2.priv.isNone)
  if first.any (fun e => s.loading e.1) then s
  else first.foldl (fun s e => begun (s.modTask e.1 (fun t => { t with life := .live })) e.1) s

/-- `cancel` of one task (R356). A task under a save ends when the save is complete. -/
def cancelTask (s : State) (id : Nat) : State :=
  match Tab.find s.tasks id with
  | none => s
  | some t =>
    match t.life with
    | .ended | .counting => s
    | .live | .draining => finishTask (abortUnits s id) id false
    | .starting => startFirst (finishTask (dropLoads s id) id false) (handleLid id)
    | .saved | .queued =>
      match t.saving with
      | some x => s.modTask id (fun t => { t with saving := some { x with cancelled := true } })
      | none => taskCounted (endChains (s.modTask id (fun t => { t with life := .ended })) id) t.core (handleLid id)

/-- `cancel` of one launch, waiting or live, and of the waiting launches that name it (R350, R356). -/
def cancelLaunch (lid : Nat) : (fuel : Nat) → State → State
  | 0, s => s
  | n + 1, s =>
    match Tab.find s.launches lid with
    | none => s
    | some l =>
      let s := s.setLaunch lid { l with cancelled := true }
      let s := if l.waiting then launchEnded s s.cur.m lid
        else (s.tasks.filter (fun e => handleLid e.1 == lid)).foldl (fun s e => cancelTask s e.1) s
      (s.launches.filter (fun e => e.2.waiting && e.2.preds.contains lid)).foldl (fun s e => cancelLaunch e.1 n s) s

def State.cancelLid (s : State) (lid : Nat) : State := cancelLaunch lid (s.launches.length + 1) s

def cancelGraph (s : State) (g : Nat) : State :=
  match Tab.find s.wgraphs g with
  | none => s
  | some x =>
    let lids := (s.launches.filter (fun e => e.2.graph == g)).map (·.1)
    let s := { s with wgraphs := if x.left = 0 then Tab.del s.wgraphs g
                                 else Tab.put s.wgraphs g { x with cancelled := true } }
    lids.foldl State.cancelLid s

def cancelJob (s : State) (h : Nat) : State :=
  if h % 2 ^ 48 ≠ 0 then s
  else
    let s := (s.wgraphs.filter (fun e => e.2.job == handleJob h)).foldl (fun s e => cancelGraph s e.1) s
    ((s.launches.filter (fun e => e.2.job == handleJob h)).map (·.1)).foldl State.cancelLid s

/-- An access thread cancels units of its own job only; the thread moves on before its own task may end. -/
def cancelWith (f : State → Nat → State) (a : Reg) (s : State) : State :=
  s.reading [a]
    (let h := (s.rx a).toNat
     if s.me.svc ∨ handleJob h = handleJob s.me.task then f s.next h else s.next)

def execCancelTask (a : Reg) (s : State) : Out := .next (cancelWith cancelTask a s)
def execCancelLaunch (a : Reg) (s : State) : Out := .next (cancelWith State.cancelLid a s)
def execCancelGraph (a : Reg) (s : State) : Out := .next (cancelWith cancelGraph a s)
def execCancelJob (a : Reg) (s : State) : Out := .next (cancelWith cancelJob a s)

/-! ## Exits (R353 to R355) -/

/-- The anchor of a task is its home thread 0 (01 R19). -/
def Thread.isAnchor (th : Thread) : Bool := !th.helper && th.slot == 0

/-- `exit`: the thread issues nothing further, and a home thread's staging is discarded (09 R310; at the `exit` itself: DESIGN CHOICE, log
38); the anchor begins the drain of its task. -/
def execExit (s : State) : Out :=
  .next (s.taskOnly
    (let s' := s.modMe (fun th => { th with life := .exiting, held := none })
     let s' := if s.me.helper then s' else dropStaging s' s.cur.m s.cur.t
     if s.me.isAnchor then s'.modMyTask (fun t => { t with life := .draining }) else s'))

/-- `exit.abort`: at once. -/
def execExitAbort (s : State) : Out :=
  .next (s.taskOnly
    (if s.me.isAnchor then finishTask (abortUnits s s.me.task) s.me.task true
     else endThread (stopThread s s.curKey) s.curKey))

/-- THREAD_EXIT_COMPLETE: a thread other than the anchor has done its engine work and ends (R353). -/
def execThreadExitComplete (s : State) : Out :=
  .next (let k := s.curKey
    let th := s.me
    if th.life ≠ .exiting ∨ th.isAnchor ∨ th.parked.isSome ∨ !(s.copiesDone k) then s
    else if th.helper then endThread s k
    else if (List.range 8).any (fun u => (s.myCore.stream u).owner == s.cur.t && !(s.myCore.streamQuiet u)) ||
        s.myCore.graphs.any (fun g => g.2.owner == s.cur.t) then s
    else dropStaging (endThread s k) s.cur.m s.cur.t)

/-- The drain conditions of R354. -/
def drained (s : State) (id : Nat) : Bool :=
  let core := (s.taskOf id).core
  let c := s.core core
  let home := (s.threadsOf id).filter (fun k => !(s.thr k).helper)
  home.all (fun k => k == anchorKey core) &&
  (List.range 4).all (fun r => (c.row r).run != .running && !(c.row r).handed) &&
  c.matrix.idle &&
  !(c.copies.any (fun x => x.task == id && !x.orphan && x.thr % 8 < 4)) &&
  (List.range 8).all (fun u => c.streamQuiet u) && c.graphs == []

/-- A helper blocked in one of these is ended at once (R354 step 1). -/
def endsAtOnce (th : Thread) : Bool :=
  match th.held with
  | some (.evwait _) | some (.waita ..) | some (.twait _) | some (.bar ..) => true
  | _ => false

/-- Step 1 for one helper. -/
def drainHelper (s : State) (k : Nat) : State :=
  if endsAtOnce (s.thr k) then
    endThread (s.modCore (k / 8) (fun c =>
      { c with copies := c.copies.map (fun x => if x.thr = k then { x with orphan := true } else x) })) k
  else if s.copiesDone k then endThread s k
  else s.modThr k (fun th => { th with life := .exiting, held := none })

/-- EXIT_DRAIN_COMPLETE: the drain conditions hold; the helpers end, and then the task (R354). -/
def execExitDrainComplete (task : Nat) (s : State) : Out :=
  .next (if (s.taskOf task).life ≠ .draining || !(drained s task) then s
    else
      let s := ((s.threadsOf task).filter (fun k => (s.thr k).helper)).foldl drainHelper s
      if (s.threadsOf task).any (fun k => (s.thr k).helper) then s else finishTask s task true)

/-! ## Yield and overdue threads (R360, R361) -/

def execYield (s : State) : Out := .next ((s.modMe (fun th => { th with credit := 0, yieldTo := s.cyc + 9 })).next)

/-- YIELD_WINDOW_END: the eight cycles after the issue cycle have passed. -/
def execYieldWindowEnd (s : State) : Out :=
  .next (if s.me.yieldTo ≠ 0 ∧ s.me.yieldTo ≤ s.cyc then s.modMe (fun th => { th with yieldTo := 0 }) else s)

/-- THREAD_OVERDUE: runnable for 56 cycles without issuing. -/
def execThreadOverdue (s : State) : Out :=
  .next (if 56 ≤ s.me.waited then s.modMe (fun th => { th with overdue := true }) else s)

end Sys2Proof.Machine
end

