-- ==== Sys2Proof/Machine/Saves.lean ====
section
/-! DEFINITION. The save area of a task: what is captured at pre-emption and at a system call, its public layout in
memory, and what resumption restores (13 R415 to R427; 09 R309; 08 R277; 06 R202). The private fields hold free bytes
(assumption log 6). -/

namespace Sys2Proof.Machine

/-! ## Capture (R416) -/

/-- Queue entries as saved: landed, in order. -/
def Queue.settled (q : Queue) : Queue := { q with entries := q.entries.map (fun e => { e with ready := 0, key := 0 }) }

/-- A unit as saved: read-ahead is discarded, a withheld fault is met again (09 R309). -/
def FUnit.settled (u : FUnit) : FUnit := { u with away := none, got := [], stuck := 0, fault := none, win := none }

/-- A graph as saved; one whose fault `untold` its owner yet is saved running, with the fault withheld (09 R309). -/
def FGraph.settled (g : FGraph) (untold : Bool) : FGraph :=
  { g with stopped := g.stopped && !untold, units := g.units.map (fun u => (u.1, u.2.settled)) }

/-- The home core's part of a task as saved; `untold`: the graphs whose fault is not delivered. -/
def Core.captured (c : Core) (copies : List Copy) (untold : Nat → Bool) : Core :=
  { c with
    pes := c.pes.map (fun e => (e.1, e.2.land (e.2.flight.foldl (fun n f => max n f.land) 0)))
    queues := c.queues.map (fun e => (e.1, e.2.settled))
    bq := c.bq.map (fun e => (0, e.2))
    rings := c.rings.map (fun e => (e.1, { e.2 with late := none }))
    graphs := c.graphs.map (fun e => (e.1, e.2.settled (untold e.1)))
    streams := c.streams.map (fun e => (e.1, { e.2 with away := none, got := none, stopping := false, win := false }))
    copies := copies, xfault := none, mutualSince := 0, gathers := [] }

/-- The flags of results in flight that a DONE gather waits for: the results land, and TFLAGS takes them (03 R102). -/
def Core.claimed (c : Core) : Flags := c.pes.foldl (fun x e => x ||| claimedFlags e.2.flight) 0

/-- Unfinished copies in record order: by the slot of the issuer, then its issue order; `thr` becomes the slot (R420). -/
def recordCopies (s : State) (id : Nat) : List Copy :=
  let all := s.cores.flatMap (fun e => e.2.copies.filter (fun c => c.task == id && !c.orphan && c.thr / 8 == e.1))
  (List.range 12).flatMap (fun slot =>
    (all.filter (fun c => (s.thr c.thr).slot == slot)).map (fun c => { c with thr := slot }))

/-- PEND of a saved token is the sum of its unfinished copies' counts, and its CRC keeps finished copies only (R420, 08 R277). -/
def savedTokens (s : State) (copies : List Copy) (th : Thread) : Tab Token :=
  (List.range 8).map (fun k =>
    let t := th.token k
    let mine := copies.filter (fun c => c.thr == th.slot && c.token == k)
    (k, { t with pend := (mine.map (fun c => c.size s)).sum, parts := t.parts.filter (fun e => mine.all (fun c => c.seq != e.1)) }))

/-- A thread as saved: at its instruction boundary, a held instruction not executed. A graph's or a copy's fault that it has not been given
is met again (R277, 09 R309). -/
def savedThread (s : State) (copies : List Copy) (th : Thread) : Thread :=
  { th.settle s.cyc with tokens := savedTokens s copies th, remote := none, fetched := none, stopIn := none
                         waiting := th.waiting.filter (fun f => match f.retry with | .graph _ _ | .copy _ _ => false | _ => true) }

/-- The task's state moves into its private copy, and its core is vacated. An entry a chain has not delivered is still in
SQ (11 R367). -/
def capture (s : State) (id : Nat) : State :=
  let core := (s.taskOf id).core
  let copies := recordCopies s id
  let s := (s.core core).graphs.foldl (fun s g => if g.2.dying then buryGraph s core g.1 else s) s
  let s := settleCounters (s.gathered id (s.core core).claimed) core
  let keys := s.threadsOf id
  let recs := keys.foldl (fun l k => Tab.put l (s.thr k).slot (savedThread s copies (s.thr k))) (s.taskOf id).privThreads
  let untold (gid : Nat) : Bool :=
    let g := (s.core core).graph gid
    (s.thr (thrKey core g.owner)).waiting.any (fun f => f.retry == .graph core gid)
  let c := (s.core core).captured copies untold
  let s := (List.range 8).foldl (fun s u => s.shutWindow core u) s
  let s := (s.core core).graphs.foldl (fun s g => g.2.units.foldl (fun s u => closeWindow s core g.1 u.1) s) s
  let s := s.modTask id (fun t => { t with priv := some c, privThreads := recs })
  let s : State := { s with threads := s.threads.filter (fun e => !(e.2.task == id && e.1 / 8 < 0x1000)) }
  let s : State := { s with cores := s.cores.map (fun (e : Nat × Core) =>
    (e.1, { e.2 with copies := e.2.copies.filter (fun x => x.task != id || x.orphan) })) }
  { s.setCore core ((s.core core).vacated id) with
    dirty := true
    chains := s.chains.map (fun e =>
      if e.2.slid + e.2.desc.srole = id then (e.1, { e.2 with flight := [], refused := false }) else e) }

/-! ## The public layout (R417 to R420) -/

def w64 (off : Nat) (v : Nat) : Nat × List Byte := (off, toBytes 8 v)

/-- Bytes of the save area. -/
def areaBytes : Nat := 0x105000

/-- Rings, and regions with SAVE = 1. -/
def Image.savedSpans (i : Image) : List (Nat × Nat) :=
  ((i.rings.filter (·.decl)).map (fun r => (r.base, r.depth * (256 + slotBytes r.slot)))) ++
    ((i.scratch.filter (·.save)).map (fun x => (x.base, x.size)))

/-- `fibre`: graphs or stagings are saved; how many bytes of the fibre section they use is private. -/
def headerFields (s : State) (id : Nat) (t : Task) (v : Saving) (copies : Nat) (fibre : Bool) : List (Nat × List Byte) :=
  let call := if v.reason = 0x18 then v.slot * 2 ^ 16 + v.call else 0
  [w64 0 (v.reason * 2 ^ 48 + 2 ^ 32 + 0x53415645), w64 8 id, w64 0x10 t.image.toNat, w64 0x18 t.arg.toNat,
   w64 0x20 copies, w64 0x28 (if fibre then Config.freeNat s.tick 5 0 % 2 ^ 18 else 0), w64 0x80 call,
   w64 0x88 (if v.reason = 0x18 then v.argp.toNat else 0)]

def taskFields (s : State) (t : Task) (c : Core) : List (Nat × List Byte) :=
  [w64 0x100 t.trapvec.toNat, w64 0x108 t.trapen.toNat, w64 0x110 t.tflags.toNat, w64 0x118 (c.matrix.mstat s.cyc).toNat,
   w64 0x120 c.matrix.misscnt.toNat, w64 0x128 c.matrix.dla, w64 0x130 c.matrix.dlb, w64 0x138 c.bq.length] ++
  (List.range 16).map (fun q => w64 (0x140 + 8 * q) (Tab.get 0 t.qempty q).toNat)

/-- STATUS of R119. -/
def Thread.status (th : Thread) (t : Nat) : Nat :=
  (if th.svc then 2 ^ 6 else 0) + (if th.intrap then 2 ^ 5 else 0) + t % 8 * 4 + (if th.helper then 2 else 0) +
    (if th.svc then 1 else 0)

/-- WAIT and BARG of a record (R419); an entry that is not yet written has no number. Of several codes that hold for a thread the record has
the first of 3, 2, 4, 1: DESIGN CHOICE, log 38. -/
def waitOf (s : State) (id : Nat) (th : Thread) : Nat × Nat :=
  if th.life = .ended then (3, 0)
  else if th.parked.isSome then
    (2, match s.openEntries.find? (fun e => e.waiters.any (fun f => f.task == id && f.slot == th.slot)) with
        | some e => e.seq
        | none => Config.freeNat s.tick 6 0 % 2 ^ 32)
  else if th.arrayHandler then (4, 0)
  else
    match th.theGen with
    | some (g, pc) => if pc = th.pc then (1, g) else (0, 0)
    | none => (0, 0)

def threadFields (s : State) (id : Nat) (hwt : Nat) (th : Thread) : List (Nat × List Byte) :=
  let at_ (o : Nat) : Nat := 0x200 + 0x400 * th.slot + o
  let w := waitOf s id th
  let parked := match th.parked with
    | some f => [w64 (at_ 0x258) f.tcause.toNat, w64 (at_ 0x260) f.tval.toNat]
    | none => []
  (List.range 64).map (fun r => w64 (at_ (8 * r)) (th.reg (BitVec.ofNat 6 r)).toNat) ++
  [w64 (at_ 0x200) th.pc.toNat,
   w64 (at_ 0x208) (2 ^ 63 + (if th.helper then 2 ^ 60 else 0) + hwt * 2 ^ 56 + th.events.length * 2 ^ 40 +
     w.1 * 2 ^ 32 + w.2 % 2 ^ 32),
   w64 (at_ 0x210) th.epc.toNat, w64 (at_ 0x218) th.tcause.toNat, w64 (at_ 0x220) th.tval.toNat,
   w64 (at_ 0x228) th.prio.toNat, w64 (at_ 0x230) th.watchq.toNat, w64 (at_ 0x238) th.lodcnt.toNat,
   w64 (at_ 0x240) th.lodcyc.toNat, w64 (at_ 0x248) th.qfullcnt.toNat, w64 (at_ 0x250) (th.status hwt)] ++ parked ++
  (List.range 8).flatMap (fun k => [w64 (at_ (0x280 + 16 * k)) (th.token k).pend,
    w64 (at_ (0x288 + 16 * k)) (th.token k).crcValue.toNat]) ++
  (th.events.zip (List.range 16)).flatMap (fun e =>
    [w64 (at_ (0x300 + 16 * e.2)) e.1.d0.toNat, w64 (at_ (0x308 + 16 * e.2)) e.1.d1.toNat])

def scopeCode : Scope → Nat
  | .core => 0 | .cluster => 1 | .group => 2 | .die => 3 | .package => 4 | .domain => 5 | .system => 6

def copyFields (c : Copy) (i : Nat) : List (Nat × List Byte) :=
  let at_ (o : Nat) : Nat := 0x3200 + 0x40 * i + o
  [w64 (at_ 0) (2 ^ 63 + c.thr * 2 ^ 59 + c.token * 2 ^ 56 + c.func * 2 ^ 48 + scopeCode c.scope * 2 ^ 45 +
     (if c.flag then 2 ^ 44 else 0) + (if c.crc then 2 ^ 43 else 0) + c.ring * 2 ^ 40),
   w64 (at_ 8) c.a.toNat, w64 (at_ 0x10) c.b.toNat, w64 (at_ 0x18) c.d.toNat, w64 (at_ 0x20) c.c0.toNat,
   w64 (at_ 0x28) c.c1.toNat, w64 (at_ 0x30) c.c2.toNat, w64 (at_ 0x38) c.c3.toNat]

def streamFields (x : Stream) (u : Nat) : List (Nat × List Byte) :=
  let at_ (o : Nat) : Nat := 0x4200 + 0x80 * u + o
  [w64 (at_ 0) x.base.toNat, (at_ 0x38, toBytes 16 x.next)] ++
  (List.range 4).flatMap (fun k => [(at_ (8 + 4 * k), toBytes 4 (x.count k)), w64 (at_ (0x18 + 8 * k)) (x.stride k).toNat])

/-- Index of the first entry of each queue in the entry block. -/
def firstEntry (c : Core) : Nat → Nat
  | 0 => 0
  | q + 1 => firstEntry c q + (c.queue q).entries.length

def queueFields (c : Core) (q : Nat) : List (Nat × List Byte) :=
  let l := (c.queue q).entries
  w64 (0x4600 + 16 * q) (l.length + (if l = [] then 0 else firstEntry c q * 2 ^ 16)) ::
  (l.zip (List.range l.length)).flatMap (fun e =>
    let at_ := 0x4900 + 16 * (firstEntry c q + e.2)
    [w64 at_ e.1.tok.data.toNat, w64 (at_ + 8) (kindWord e.1.tok).toNat])

def rowFields (c : Core) (r : Nat) : List (Nat × List Byte) :=
  let x := c.row r
  let run := match x.run with | .running => 0 | .atEnd => 1 | .halted => 2
  w64 (0x4800 + 0x20 * r) (x.pc + x.issue * 2 ^ 16 + run * 2 ^ 24 + x.tkfin * 2 ^ 32) ::
  (List.range 4).map (fun l => (0x4808 + 0x20 * r + 4 * l, toBytes 4 (Tab.get 0 x.loops l).toNat))

def arrayFields (c : Core) (a : Nat) : List (Nat × List Byte) :=
  [(0xC900 + 0x4000 * a, (c.matrix.words a).flatMap (fun w => toBytes 4 w.toNat)),
   (0x1C900 + 0x4000 * a, (c.matrix.sums a).flatMap (fun v => toBytes 4 (v % (2 ^ 32 : Int)).toNat))]

/-- The private fields: offsets and lengths. -/
def privateSpans : List (Nat × Nat) :=
  ((List.range 8).map (fun u => (0x4248 + 0x80 * u, 8))) ++ [(0x6900, 0x5000), (0xB900, 0x1000), (0xDC900, 0x28000)]

/-- Every field of the save area, in its place. -/
def areaFields (s : State) (id : Nat) (t : Task) (v : Saving) (c : Core) (hwt : Nat → Nat) : List (Nat × List Byte) :=
  headerFields s id t v c.copies.length (c.graphs != [] || c.stagings.any (fun e => e.2.nodes != [] || e.2.edges != [])) ++ taskFields s t c ++
  t.privThreads.flatMap (fun e => threadFields s id (hwt e.1) e.2) ++
  (c.copies.zip (List.range c.copies.length)).flatMap (fun e => copyFields e.1 e.2) ++
  (List.range 8).flatMap (fun u => streamFields (c.stream u) u) ++
  (List.range 16).flatMap (queueFields c) ++
  (c.bq.zip (List.range 8)).map (fun e => (0x4700 + 2 * e.2, toBytes 2 e.1.2.toNat)) ++
  (List.range 8).map (fun i =>
    let r := c.ring i
    (0x4780 + 16 * i, [BitVec.ofNat 8 r.head, BitVec.ofNat 8 r.tail, BitVec.ofNat 8 r.count])) ++
  (List.range 4).flatMap (rowFields c) ++ (List.range 4).flatMap (arrayFields c) ++
  (s.launchOf (handleLid id)).img.savedSpans.map (fun p => (0x2C900 + p.1, Memory.gets c.scratch p.1 p.2)) ++
  privateSpans.map (fun p => (p.1, (List.range p.2).map (fun i => Config.freeByte s.tick 1 (p.1 + i))))

/-- A sector of the saved scratchpad. -/
def savedSector (i : Image) (k : Nat) : Bool := i.savedSpans.any (fun p => p.1 ≤ 32 * k && 32 * k < p.1 + p.2)

/-- The save area is written: zero but for its fields; poison travels with the scratchpad's bytes. -/
def writeArea (s : State) (id : Nat) (t : Task) (v : Saving) (c : Core) (hwt : Nat → Nat) : State :=
  let s' : State := { s with mem := Memory.clear s.mem v.area (v.area + areaBytes)
                             undef := cutInterval s.undef v.area (v.area + areaBytes) }
  let s' := (areaFields s id t v c hwt).foldl (fun x f => x.write (v.area + f.1) f.2) s'
  { s' with poison := ((c.spoison.filter (savedSector (s.launchOf (handleLid id)).img)).foldl
      (fun l k => addSector l ((v.area + 0x2C900) / 32 + k)) s'.poison) }

/-! ## Restore (R422, R423, R430) -/

/-- A field of the save area lies in a poisoned sector. -/
def areaBad (s : State) (area off n : Nat) : Bool := s.poisonedIn (area + off) n

/-- Registers and words of a restored thread whose saved bytes carry poison. -/
def poisonThread (s : State) (area : Nat) (th : Thread) : Thread :=
  let at_ (o : Nat) : Nat := 0x200 + 0x400 * th.slot + o
  let regs := (List.range 64).filter (fun r => areaBad s area (at_ (8 * r)) 8)
  let words := (([1, 2, 3, 6, 7, 8, 9, 0xA].zip (List.range 8)).filter
    (fun e => areaBad s area (at_ (0x210 + 8 * e.2)) 8)).map (·.1)
  { th with badRegs := th.badRegs ++ regs, badWords := th.badWords ++ words }

/-- Task words whose saved bytes carry poison. -/
def poisonWords (s : State) (area : Nat) : List Nat :=
  ([(4, 0x100), (5, 0x108), (0xB, 0x110), (0x50, 0x118), (0x51, 0x120), (0x52, 0x128), (0x53, 0x130)].filter
    (fun e => areaBad s area e.2 8)).map (·.1) ++
  ((List.range 16).filter (fun q => areaBad s area (0x140 + 8 * q) 8)).map (fun q => 0x40 + q)

/-- The restored home core of a task: scratchpad bytes that were not saved read zero. -/
def restoredCore (s : State) (area : Nat) (i : Image) (id : Nat) (p c : Core) : Core :=
  let inSpan (off : Nat) : Bool := i.savedSpans.any (fun x => x.1 ≤ off && off < x.1 + x.2)
  let queue (e : Nat × Queue) : Nat × Queue :=
    (e.1, { e.2 with entries := (e.2.entries.zip (List.range e.2.entries.length)).map (fun x =>
      if areaBad s area (0x4900 + 16 * (firstEntry p e.1 + x.2)) 16 then { x.1 with tok := { x.1.tok with poison := true } }
      else x.1) })
  let pe (e : Nat × Pe) : Nat × Pe :=
    let at_ := 0x6900 + 0x500 * e.1
    let bad := ((List.range 16).filter (fun r => areaBad s area (at_ + 64 * r) 64)) ++
      ((List.range 8).filter (fun r => areaBad s area (at_ + 0x400 + 8 * r) 8)).map (fun r => 0x10 + r) ++
      (if areaBad s area (at_ + 0x440) 64 then [0x18] else [])
    (e.1, { e.2 with bad := e.2.bad ++ bad })
  let psn := (List.range 4).filter (fun a =>
    areaBad s area (0xC900 + 0x4000 * a) 0x4000 || areaBad s area (0x1C900 + 0x4000 * a) 0x4000)
  { p with
    home := id, scratch := p.scratch.filter (fun x => inSpan x.1), sundef := p.sundef.filter (fun x => inSpan x.1)
    spoison := (c.spoison.filter (fun k => !(savedSector i k))) ++
      ((List.range 0x5800).filter (fun k => savedSector i k && areaBad s area (0x2C900 + 32 * k) 32))
    ptrs := c.ptrs, copies := c.copies, lows := c.lows, store := []
    queues := p.queues.map queue, pes := p.pes.map pe
    graphs := p.graphs.map (fun g => (g.1, { g.2 with moved := s.cyc, edges := g.2.edges.map (fun e => { e with moved := s.cyc }) }))
    matrix := { p.matrix with apsn := psn.foldl (fun t a => Tab.put t a true) p.matrix.apsn } }

/-- Faults of a restored thread name its new core. -/
def Retry.moved (core m : Nat) : Retry → Retry
  | .instr => .instr
  | .copy _ id => .copy m id
  | .stream _ u => .stream core u
  | .graph _ g => .graph core g
  | .array _ => .array core
  | .monitor _ => .monitor core
  | .hub id => .hub id
def FaultRec.moved (core m : Nat) (f : FaultRec) : FaultRec := { f with retry := f.retry.moved core m }

def restoredThread (core m : Nat) (th : Thread) : Thread :=
  { th with held := none, credit := 0, yieldTo := 0, waited := 0, overdue := false, busyTo := 0
            parked := th.parked.map (FaultRec.moved core m), waiting := th.waiting.map (FaultRec.moved core m) }

/-- One saved copy is issued again, whole, with order `id` (R277, R422 step 5). -/
def reissue (s : State) (key id : Nat) (c : Copy) : State :=
  let n := c.size s
  let c := { c with id, thr := key, left := if n = 0 then [] else [(0, n)], got := [], withheld := [], taken := false,
                    drains := false, stopped := false, away := [], far := [], list := [], odd := [], fills := none }
  s.modCore (key / 8) (fun k => { k with copies := k.copies ++ [c] })

/-- Saved copies are issued again in record order: copy number i gets the order base + 1 + 2 i. -/
def reissueAll (s : State) (keyOf : Nat → Nat) (l : List Copy) : State :=
  (l.zip (List.range l.length)).foldl (fun s e => reissue s (keyOf e.1.thr) (s.nextId + 1 + 2 * e.2) e.1) s

/-- The new order of the open slot of a saved `cpe`: after as many of the home engine's copies into its ring as before (08 R248, 09 R309). -/
def reopenedOrder (base : Nat) (saved : List Copy) (u : FUnit) : Nat :=
  let mine := (saved.zip (List.range saved.length)).filter (fun e =>
    e.1.thr < 4 && e.1.isSlot && e.1.ring == bits u.node.c 2 0)
  match (mine.filter (fun e => e.1.id < u.slotId)).length with
  | 0 => base
  | n + 1 => base + 2 + 2 * (mine.map (·.2)).getD n 0

/-- The open slot of a restored `cpe` takes its order, and its bytes are owed again on its token (09 R297). -/
def reopen (s : State) (core base : Nat) (saved : List Copy) : State :=
  (s.core core).graphs.foldl (fun s g =>
    let u := s.unit core g.1 cpeKey
    if (Tab.find g.2.units cpeKey).isNone ∨ u.released ∨ u.slotId = 0 then s
    else addPend (s.modUnit core g.1 cpeKey (fun u => { u with slotId := reopenedOrder base saved u })) core g.1 u
      (u.owed (cpePayload (s.core core) u))) s

/-! ### Continuing a parked thread (R414) -/

/-- A fault of the arrays that its anchor has not dealt with: withheld, parked on, or in its handler (R401, R404). The trap of an empty
queue freezes nothing (11 R363). -/
def State.arrayFaultOpen (s : State) (core : Nat) : Bool :=
  let th := s.thr (anchorKey core)
  let own (f : FaultRec) : Bool := f.retry == .array core && f.cause != 0x0B
  th.arrayHandler || th.parked.any own || th.waiting.any own || (s.core core).matrix.pend.isSome

/-- The arrays run again (R404, R414); with a second fault of theirs still open they stay frozen until that one is dealt with, too: the
withheld bundle or pair is not retried before (R401, R408: DEDUCED, log 39). -/
def unfreezeArrays (s : State) (core : Nat) : State :=
  if s.arrayFaultOpen core then s else
  let s := s.modCore core (fun c => { c with arrayFrozen := false })
  if (s.core core).matrix.state = 3 then restartMatrix s core else s

/-- The continuation that fits a fault's source. -/
def retryFault (s : State) : Retry → State
  | .instr => s
  | .copy m id => retryWithheld s m id
  | .stream core u => resumeStream s core u
  | .graph core g => resumeGraph s core g
  | .array core => unfreezeArrays s core
  | .monitor core => s.modCore core (fun c => { c with mutualSince := 0 })
  | .hub _ => s

/-- `resume.retry` for one thread. -/
def retryThread (s : State) (k : Nat) : State :=
  match (s.thr k).parked with
  | none => s
  | some f => retryFault (s.modThr k (fun th => { th with parked := none })) f.retry

/-- `resume.deliver` for one thread: trap entry with EPC its pc (R414). -/
def deliverThread (s : State) (k : Nat) : State :=
  let th := s.thr k
  match th.parked with
  | none => s
  | some f =>
    let isArray := match f.retry with | .array _ => true | _ => false
    (s.retryTrapped f).setThr k { th.takeTrap (s.taskOf th.task).trapvec f th.pc with arrayHandler := isArray }

/-! ### The task on its new core -/

/-- The key of a saved thread on its new core. -/
def newKey (core : Nat) (hosts : Tab Nat) (slot : Nat) : Nat :=
  if slot < 4 then thrKey core slot else Tab.get 0 hosts (slot - 4)

/-- The saved threads that have not ended. -/
def Task.savedSlots (t : Task) : List Nat := (t.privThreads.filter (fun e => e.2.life != .ended)).map (·.1)

/-- The continuation chosen for a saved thread while its task was off its core. -/
def applyChoice (s : State) (core : Nat) (hosts : Tab Nat) (x : Nat × Nat × Retry) : State :=
  let k := newKey core hosts x.1
  if x.2.1 = 2 then deliverThread s k else retryThread s k

/-- Steps 3 to 5 of R422, once row stores and role data are loaded. -/
def restoreTask (s : State) (id : Nat) : State :=
  let t := s.taskOf id
  let core := t.core
  match t.priv with
  | none => s
  | some p =>
    let hosts := t.helperAt
    let s := t.savedSlots.foldl (fun s n =>
      let k := newKey core hosts n
      s.setThr k (poisonThread s t.area (restoredThread core (k / 8) (Tab.get {} t.privThreads n)))) s
    let base := s.nextId
    let s : State := { reissueAll s (newKey core hosts) p.copies with nextId := base + 2 * p.copies.length + 2 }
    let s := reopen s core base p.copies
    let s := t.choices.foldl (fun s x => applyChoice s core hosts x) s
    let s := s.modCore core (fun c => { c with streams := c.streams.map (fun x => (x.1, { x.2 with fail := s.cyc })) })
    let s := (List.range 8).foldl (fun s u =>
      let x := (s.core core).stream u
      if x.busy then s.streamWindow core u x true else s) s
    let s := if (s.core core).matrix.state = 1 ∨ (s.core core).matrix.state = 2 then restartMatrix s core else s
    let life : TaskLife := if (Tab.get {} t.privThreads 0).life = .exiting then .draining else .live
    s.modTask id (fun t => { t with life := life, priv := none, choices := [], caller := none,
                                    badWords := t.badWords ++ poisonWords s t.area,
                                    privThreads := t.privThreads.filter (fun e => e.2.life == .ended) })

end Sys2Proof.Machine
end

