-- ==== Sys2Proof/Machine/Launch.lean ====
section
/-! DEFINITION. Launching: `launch`, the host launch ports, the package launch queue and its placement rounds, the launch
unit, and `spawn`'s and `resume.task`'s way back to a core (11 R346 to R352; 13 R422, R423, R425, R472; 02 R77 to R80). -/

namespace Sys2Proof.Machine

/-! ## `launch` (R346) -/

/-- A fault of an instruction's unit: a precise trap, or the freeze of its master. -/
def State.failed (s : State) (ag : Agent) (need : Need) : Fail → State
  | .trap c v => s.trap c v
  | .denied t u => s.deny ag.master t u need.rd need.wr

/-- The job a `launch` names: its own, or x[d] on a service core. -/
def launchJob (d : Reg) (s : State) : Nat := if s.me.svc then bits (s.rx d) 63 48 else s.agent.job

/-- Who reads the image: the issuer, through the named job's translation (DEDUCED, log 25). -/
def launchAgent (d : Reg) (s : State) : Agent :=
  if s.me.svc then { s.agent with job := launchJob d s, phys := false } else s.agent

def launch (d a : Reg) (s : State) : State :=
  let rec_ := s.rx a
  let own := s.agent
  if rec_.toNat % 128 ≠ 0 then s.trap 0x04 rec_
  else
    match agentCheck s own rec_ 128 needRead with
    | .error f => s.failed own needRead f
    | .ok acc =>
      match agentCheck s own (rec_ + 72) 8 needWrite with
      | .error f => s.failed own needWrite f
      | .ok out =>
        match tryLaunch (commitAccess s own needRead acc) (launchAgent d s) (launchJob d s) (hubRead s acc) with
        | .error f => s.failed own needRead f
        | .ok (s', n) =>
          let s' := if n = 0 then hubWrite (commitAccess s' own needWrite out) out (toBytes 8 (s.nextLid (launchJob d s)))
            else s'
          s'.result d (word n)

def execLaunch (d a : Reg) (s : State) : Out := .next (s.reading (if s.me.svc then [d, a] else [a]) (launch d a s))

/-- HOST_LAUNCH: a write of LCTL (R351); for how long BUSY stands is left open. -/
def hostLaunch (port : Nat) (lctl : Word) (s : State) : State :=
  let p := Tab.get {} s.ports port
  if 16 ≤ port ∨ s.cyc < p.busyTo ∨ s.pkg.safe then s
  else
    let job := bits lctl 15 0
    let rec_ := (List.range 14).flatMap (fun i => toBytes 8 (Tab.get 0 p.dw i).toNat) ++ List.replicate 16 0
    let busyTo := s.cyc + 1 + Config.freeNat s.tick 9 port % 256
    let ended (s : State) (p : Port) (n : Nat) : State :=
      { s with ports := Tab.put s.ports port { p with status := n, busyTo } }
    match tryLaunch s { master := 0x1058, job, svc := true } job rec_ with
    | .error (.denied t u) => ended (s.deny 0x1058 t u true false) p 0x04
    | .error (.trap _ _) => ended s p 0x04
    | .ok (s', n) =>
      ended s' (if n = 0 then { p with dw := Tab.put p.dw 9 (word (s.nextLid job)) } else p) n

def execHostLaunch (port : Nat) (lctl : Word) (s : State) : Out := .next (hostLaunch port lctl s)

/-! ## The launch unit -/

/-- The queues and rings an image declares, and nothing else of a task. -/
def startCore (i : Image) (id : Nat) (c : Core) : Core :=
  { c.vacated 0 with
    home := id
    queues := (i.queues.zip (List.range 16)).map (fun e => (e.2, { decl := e.1.decl, xa := e.1.xa, cap := e.1.cap }))
    rings := (i.rings.zip (List.range 8)).map (fun e =>
      (e.2, { decl := e.1.decl, slot := e.1.slot, depth := e.1.depth, base := e.1.base })) }

/-- A thread at its start (02 R77). -/
def startThread (l : Launch) (id slot t : Nat) (entry : Nat) : Thread :=
  { life := .running, helper := 4 ≤ slot, task := id, slot
    regs := [(1, word t), (2, l.arg), (3, l.image)], pc := l.image + word entry }

/-- Bundles of 32 bytes each. -/
def bundlesOf (n : Nat) (bs : List Byte) : List Bundle :=
  (List.range n).map (fun i => BitVec.ofNat 256 (bytesAt bs (32 * i) 32))

/-- The row stores from the row sections; bundles past ROW_LEN stay END (02 R80). -/
def loadRows (i : Image) (rows : List (List Byte)) (c : Core) : Core :=
  (List.range 4).foldl (fun c r =>
    ((bundlesOf (i.rowLen.getD r 0) (rows.getD r [])).zip (List.range 512)).foldl
      (fun c e => { c with store := Tab.put c.store (512 * r + e.2) e.1 }) c) { c with store := [] }

/-- Role data entries that reach a role; at resume only those of regions without SAVE (02 R79). -/
def Image.roleSpans (i : Image) (role : Nat) (resumed : Bool) : List RoleData :=
  i.roleData.filter (fun e => e.lo ≤ role && role ≤ e.hi &&
    !(resumed && i.scratch.any (fun x => x.save && x.base ≤ e.dest && e.dest + e.len ≤ x.base + x.size)))

/-- At task start every slot's descriptor reads zero, so the ring is empty (01 R26). -/
def clearSlots (i : Image) (c : Core) : Core :=
  i.rings.foldl (fun c r =>
    if r.decl then
      (List.range r.depth).foldl (fun c k =>
        c.scrWrite (r.base + k * (256 + slotBytes r.slot)) (List.replicate 8 0)) c
    else c) c

/-- The reads of row sections and role data for a starting or resumed task; a fault withholds them (R472 kind 1). -/
def loadTask (s : State) (id : Nat) (hub : Option Nat) : State :=
  let t := s.taskOf id
  let l := s.launchOf t.lid
  let i := l.img
  let resumed := t.priv.isSome
  let spans := i.roleSpans t.role resumed
  let rows := (i.rowOff.zip i.rowLen).map (fun e => (l.image + word e.1, 32 * e.2))
  match loadSpans s (hubAgent t.core l.job) (rows ++ spans.map (fun e => (l.image + word e.src, e.len))) with
  | .error f => withholdHub s t.core 1 l.job id needRead (.load t.lid id) ((hub.bind (Tab.find s.hub)).map (·.since)) hub f
  | .ok (s, bs) =>
    let c := loadRows i bs (s.core t.core)
    let c := if resumed then c else (List.range 4).foldl (fun c r => arrive c r 0) (clearSlots i c)
    (dropHub s hub).setCore t.core ((spans.zip (bs.drop 4)).foldl (fun c e => c.scrWrite e.1.dest e.2) c)

/-- The tasks of a launch start together, once nothing is left to read; a resumed task starts alone (R349, R472). -/
def startLoaded (s : State) (lid : Nat) : State :=
  let mine := (s.tasks.filter (fun e => handleLid e.1 == lid && e.2.life == .starting))
  startFirst
    (((mine.filter (fun e => e.2.priv.isSome && !(s.loading e.1))).map (·.1)).foldl (fun s id => begun (restoreTask s id) id) s) lid

/-! ## Placement (R348, R349) -/

/-- A chain is live from the start of its source task (R366). -/
def startChains (s : State) (lid : Nat) (l : Launch) (role : Nat) : State :=
  (l.chains.filter (fun c => c.srole == role)).foldl (fun s c =>
    { s with chains := Tab.put s.chains s.nextId { desc := c, slid := lid, flight := [] }, nextId := s.nextId + 1 }) s

/-- A task bound to its core, with its threads. -/
def bindTask (s : State) (lid : Nat) (l : Launch) (p : Plan) (role core : Nat) : State :=
  let id := lid + role
  let helpers := (p.helpers.filter (fun e => e.1 == role)).map (fun e => e.2)
  let s := s.setTask id { lid, role, image := l.image, arg := l.arg, life := .starting, core, helperAt := helpers }
  let s := s.modCore core (startCore l.img id)
  let s := (List.range l.img.threads).foldl (fun s t => s.setThr (thrKey core t) (startThread l id t t l.img.accessOff)) s
  let s := helpers.foldl (fun s e =>
    s.setThr e.2 (startThread l id (4 + e.1) (e.2 % 8) ((l.img.helpers[e.1]?.map (·.entry)).getD 0))) s
  startChains s lid l role

/-- A launch placed whole: bindings first, then what its tasks read, then their common start. -/
def bindLaunch (s : State) (lid : Nat) (p : Plan) : State :=
  let l := s.launchOf lid
  let s := s.setLaunch lid { l with waiting := false, bind := p.roles.map (fun e => (e.1, e.2 + 1)) }
  let s := { s with reservation := if s.reservation = some lid then none else s.reservation }
  let s := p.roles.foldl (fun s e => bindTask s lid l p e.1 e.2) s
  startLoaded (p.roles.foldl (fun s e => loadTask s (lid + e.1) none) s) lid

/-- Every named predecessor has ended. -/
def State.predsEnded (s : State) (l : Launch) : Bool := l.preds.all (fun p => (Tab.find s.launches p).isNone)

def placeLaunch (s : State) (lid : Nat) : State :=
  let l := s.launchOf lid
  if !l.waiting || !(s.predsEnded l) then s
  else
    match placeBlocks s l.img (List.range l.img.blocks) {} with
    | none => s
    | some p => bindLaunch s lid p

/-! ### Continued tasks (R352, R423) -/

/-- The clusters a continued task may go to: that of its block's live tasks, else any. -/
def taskClusters (s : State) (t : Task) : List Nat :=
  match (s.launchOf t.lid).bind.find? (fun e => e.1 / 64 == t.role / 64 && e.2 != 0) with
  | some e => [(e.2 - 1) / 64]
  | none => List.range 64

/-- The helpers of a saved task on a cluster; `core` is to be its own. -/
def rehostHelpers (s : State) (t : Task) (c core : Nat) : List Nat → Plan → Option Plan
  | [], p => some p
  | slot :: l, p =>
    let n := slot - 4
    let off := (((s.launchOf t.lid).img.helpers[n]?).map (·.roff)).getD 0
    let role := ((t.role : Int) + off).toNat
    let host : Option Nat :=
      match s.bound t.lid role with
      | some h =>
        if h / 64 = c then freeHelper s p h
        else ((s.clusterCores c).filter (· != core)).findSome? (freeHelper s p)
      | none => ((s.clusterCores c).filter (· != core)).findSome? (freeHelper s p)
    match host with
    | none => none
    | some k => rehostHelpers s t c core l { p with helpers := p.helpers ++ [(t.role, n, k)] }

def placeTaskIn (s : State) (t : Task) (c : Nat) : Option (Nat × Plan) :=
  let i := (s.launchOf t.lid).img
  let free := (s.clusterCores c).filter s.coreFree
  if (i.dies (t.role / 64)).any (fun d => d != c / 8) then none
  else
    match free with
    | [] => none
    | core :: _ =>
      (rehostHelpers s t c core (t.savedSlots.filter (4 ≤ ·)) { roles := [(t.role, core)] }).map (fun p => (free.length, p))

/-- A continued task is bound to its new core, and what it reads again is read (R422 steps 1 to 3). -/
def bindSaved (s : State) (id core : Nat) (p : Plan) : State :=
  let t := s.taskOf id
  let l := s.launchOf t.lid
  let s := s.setLaunch t.lid { l with bind := Tab.put l.bind t.role (core + 1) }
  let helpers := p.helpers.map (fun e => e.2)
  let s := s.setTask id { t with life := .starting, core, helperAt := helpers }
  let s := s.modCore core (fun c => match t.priv with | some k => restoredCore s t.area l.img id k c | none => c)
  let s := helpers.foldl (fun s e => s.modThr e.2 (fun _ => { life := .running, helper := true, task := id, slot := 4 + e.1 })) s
  startLoaded (loadTask s id none) t.lid

def placeTask (s : State) (id : Nat) : State :=
  let t := s.taskOf id
  match bestFit ((taskClusters s t).filterMap (placeTaskIn s t)) with
  | some (_, p) => (match p.roles with | (_, core) :: _ => bindSaved s id core p | [] => s)
  | none => s

/-! ### Rounds -/

/-- An entry of the package launch queue: effective class, age, order of joining, and whether it is a continued task. -/
structure Waiter where
  eff : Nat
  joined : Nat
  ord : Nat
  id : Nat
  saved : Bool
deriving DecidableEq, Repr

def Waiter.ahead (a b : Waiter) : Bool :=
  b.eff < a.eff || (a.eff == b.eff && (a.joined < b.joined || (a.joined == b.joined && a.ord ≤ b.ord)))

def insertWaiter (x : Waiter) : List Waiter → List Waiter
  | [] => [x]
  | y :: l => if x.ahead y then x :: y :: l else y :: insertWaiter x l

/-- The package launch queue in its order (R348). -/
def State.launchQueue (s : State) : List Waiter :=
  let l := (s.launches.filter (fun e => e.2.waiting)).map (fun e => (⟨e.2.eff, e.2.joined, e.2.ord, e.1, false⟩ : Waiter))
  let t := (s.tasks.filter (fun e => e.2.life == .queued && e.2.saving.isNone)).map
    (fun e => (⟨e.2.eff, e.2.joined, e.2.ord, e.1, true⟩ : Waiter))
  (l ++ t).foldl (fun q x => insertWaiter x q) []

def placeWaiter (s : State) (w : Waiter) : State := if w.saved then placeTask s w.id else placeLaunch s w.id

/-- PLACEMENT_ROUND: in a cycle in which a core has become free or a launch has joined; no other launch is placed before a reserved one.
While OVERCAP is set the hub holds the queue (17 R466). -/
def execPlacementRound (s : State) : Out :=
  .next (if !s.dirty || s.pkg.overcap then s
    else
      let s := { s with dirty := false }
      match s.reservation with
      | some lid =>
        let s := placeLaunch s lid
        if s.reservation.isSome then s else s.launchQueue.foldl placeWaiter s
      | none => s.launchQueue.foldl placeWaiter s)

/-- LAUNCH_RESERVATION: the oldest launch of effective class 3 whose predecessors have ended has waited 2^22 cycles. -/
def execLaunchReservation (s : State) : Out :=
  .next (if s.reservation.isSome then s
    else
      match s.launchQueue.find? (fun w => !w.saved && w.eff == 3 && s.predsEnded (s.launchOf w.id)) with
      | none => s
      | some w => if w.joined + 2 ^ 22 ≤ s.cyc then { s with reservation := some w.id } else s)

/-- min(3, CLASS + floor(W / 2^20)). -/
def agedClass (cls joined cyc : Nat) : Nat := min 3 (cls + (cyc - joined) / 2 ^ 20)

/-- EFFECTIVE_CLASS_AGING of a waiting launch, or of a continued task, which waits in the class of its launch. -/
def execEffectiveClassAging (lid : Nat) (s : State) : Out :=
  .next (match Tab.find s.launches lid with
    | some l => if l.waiting then s.setLaunch lid { l with eff := agedClass l.cls l.joined s.cyc } else s
    | none =>
      match Tab.find s.tasks lid with
      | some t =>
        if t.life = .queued then s.setTask lid { t with eff := agedClass (s.launchOf t.lid).cls t.joined s.cyc } else s
      | none => s)

/-! ## Continuation records: `spawn` and `resume.task` -/

/-- Save areas lie on a 4 KiB boundary of populated memory of this package (R415). -/
def areaOk (pa : Nat) : Bool := pa % 4096 == 0 && populated pa areaBytes

/-- The save and restore paths reach HBM at the stack controllers, else through the LPDDR target (12 R386). -/
def pathTargets (pa : Nat) : List Nat :=
  if pa < 2 ^ 40 then [2 * (pa / 2 ^ 37), 2 * (pa / 2 ^ 37) + 1] else [0x22]

/-- The first target and unit that deny the path. -/
def pathDenied (s : State) (master pa n : Nat) (rd wr : Bool) : Option (Nat × Nat) :=
  (List.range ((n + 4095) / 4096)).findSome? (fun i =>
    (pathTargets pa).findSome? (fun t =>
      if accAllows s t master (pa / 4096 + i) rd wr then none else some (t, pa / 4096 + i)))

/-- The saved task whose area lies at `pa`, when the header names it (R421). -/
def savedAt (s : State) (pa reason : Nat) : Option Nat :=
  if !(areaOk pa) || s.poisonedIn pa 0x10 then none
  else
    let h := s.dword pa
    let id := s.dword (pa + 8)
    let t := s.taskOf id
    if h / 2 ^ 48 = reason ∧ h / 2 ^ 32 % 2 ^ 16 = 1 ∧ h % 2 ^ 32 = 0x53415645 ∧ t.area = pa ∧ t.life = .saved ∧ t.saving.isNone
    then some id else none

/-- A continued task joins the launch queue. -/
def queueTask (s : State) (id pa : Nat) : State :=
  let cls := (s.launchOf (handleLid id)).cls
  { s.modTask id (fun t => { t with life := .queued, area := pa, joined := s.cyc, ord := s.nextId, eff := cls }) with
    nextId := s.nextId + 1, dirty := true }

/-- The reply of a system call reaches the calling thread's registers (R425). -/
def reply (t : Task) (status ret : Nat) : Task :=
  match t.caller with
  | none => t
  | some (slot, a) =>
    let th := (Tab.get {} t.privThreads slot).setReg (BitVec.ofNat 6 a) (word status)
    let th := if 1 ≤ a ∧ a ≤ 62 then th.setReg (BitVec.ofNat 6 (a + 1)) (word ret) else th
    { t with privThreads := Tab.put t.privThreads slot th }

/-- A task continued after its system call; its call is finished (13 R428). -/
def continueCall (s : State) (id pa : Nat) : State :=
  let status := s.dword (pa + 0x90) % 2 ^ 32
  let ret := s.dword (pa + 0x98)
  let s := s.modTask id (fun t => reply t status ret)
  queueTask { s with sup := { s.sup with calls := s.sup.calls.filter (fun c => c.2.d1 != word id) } } id pa

/-- The reads of a continuation record go through the restore path of the service core. -/
def withPath (pa : Nat) (s k : State) : State :=
  if areaOk pa then
    match pathDenied s s.cur.m pa areaBytes true false with
    | some (t, u) => s.deny s.cur.m t u true false
    | none => k
  else k

def spawn (d a : Reg) (s : State) : State :=
  let pa := (s.rx a).toNat
  if !s.me.svc then s.result d 0x0C
  else
    withPath pa s
      (match savedAt s pa 0x18 with
       | none => s.result d 0x09
       | some id => if 4096 ≤ s.waiting then s.result d 0x0B else (continueCall s id pa).result d 0)

def execSpawn (d a : Reg) (s : State) : Out := .next (s.reading [a] (spawn d a s))

/-- `resume.task`: status 1 for a malformed area, 2 for a full queue, 3 when its task is not pre-empted (R422). When several hold, they are
judged in the order 1, 3, 2, and an area whose header is poisoned is malformed: DESIGN CHOICE, log 38. -/
def resumeTask (d a : Reg) (s : State) : State :=
  let pa := (s.rx a).toNat
  let h := s.dword pa
  if !(areaOk pa) then s.result d 1
  else
    withPath pa s
      (if s.poisonedIn pa 0x10 || h / 2 ^ 48 != 0x17 || h / 2 ^ 32 % 2 ^ 16 != 1 || h % 2 ^ 32 != 0x53415645 then s.result d 1
       else
         match savedAt s pa 0x17 with
         | none => s.result d 3
         | some id => if 4096 ≤ s.waiting then s.result d 2 else (queueTask s id pa).result d 0)

def execResumeTask (d a : Reg) (s : State) : Out := .next (s.supervisor (s.reading [a] (resumeTask d a s)))

/-! ## Hub work made again (13 R472) -/

/-- A withheld access is made again, and the work goes on from it; a frozen master makes none. -/
def hubAgain (s : State) (k : Nat) : State :=
  match Tab.find s.hub k with
  | none => s
  | some w =>
    if s.frozen.contains w.master then s
    else
      match w.act with
      | .load lid id => startLoaded (loadTask s id (some k)) lid
      | .count _ step id =>
        if step = 0 then launchCount s w.master id (some k)
        else if step = 1 then graphCount s w.master id (some k) else jobCount s w.master id (some k)
      | .payload msg pkt port =>
        (match Tab.find s.msgs msg with
         | some m => sendPacket s msg pkt port m (some k)
         | none => dropHub s (some k))
      | .record msg _ fails retries done =>
        (match Tab.find s.msgs msg with
         | some m => countRecord s msg m fails retries done (some k)
         | none => dropHub s (some k))
      | .place p => placePacket s p (some k)

/-- `resume.kill` of hub work, by its kind. -/
def hubKill (s : State) (k : Nat) : State :=
  match Tab.find s.hub k with
  | none => s
  | some w =>
    let s := dropHub s (some k)
    match w.act with
    | .load lid id => if (s.taskOf id).priv.isSome then cancelTask s id else s.cancelLid lid
    | .count _ step id =>
      if step = 0 then taskCounted (s.modTask id (fun t => { t with life := .ended })) w.master (handleLid id)
      else if step = 1 then graphDone s w.master id else s
    | .payload msg _ _ =>
      (match Tab.find s.msgs msg with
       | some m => countRecord s msg m 1 0 1 none
       | none => s)
    | .record msg _ _ _ done => if done = 0 then s else { s with msgs := Tab.del s.msgs msg }
    | .place p =>
      let key := ringKey p.rjob p.ring
      let s := match s.recvRing key with
        | some x => s.setRecv key { x with recs := x.recs.filter (fun y => !(y.src == p.src && y.msg == p.msg)) }
        | none => s
      s.answer p .refusedForGood

end Sys2Proof.Machine
end

