-- ==== Sys2Proof/Machine/Chains.lean ====
section
/-! DEFINITION. Chained queues (11 R366, R367). -/

namespace Sys2Proof.Machine

def State.modChain (s : State) (id : Nat) (f : Chain → Chain) : State :=
  match Tab.find s.chains id with
  | none => s
  | some c => { s with chains := Tab.put s.chains id (f c) }

/-- The core that runs a chain's source task, when it runs (pre-emption stops the chain engine). -/
def chainCore (s : State) (c : Chain) : Option Nat :=
  match (s.taskOf (c.slid + c.desc.srole)).life with
  | .live | .draining => s.bound c.slid c.desc.srole
  | _ => none

/-- The head of SQ leaves it. -/
def popSource (s : State) (core q : Nat) : State := s.modCore core (fun k => k.setQueue q (k.queue q).pop)

/-- A refused entry stays at the source for 1,250 cycles. -/
def refuse (s : State) (id : Nat) : State := s.modChain id (fun c => { c with refused := true, resendAt := s.cyc + 1250 })

/-- CHAIN_SEND: the chain engine sends the head of SQ, unless a stream's write of an entry before it is under way. A destination of another package takes it, refuses it or has
ended, as comes back from outside (assumption log 7). -/
def execChainSend (id : Nat) (s : State) : Out :=
  .next (match Tab.find s.chains id with
    | none => s
    | some c =>
      match chainCore s c with
      | none => s
      | some core =>
        match ((s.core core).queue c.desc.sq).head s.cyc with
        | none => s
        | some e =>
          let other := s.chains.any (fun x => x.2.slid == c.slid && x.2.desc.srole == c.desc.srole &&
            x.2.desc.sq == c.desc.sq && x.2.flight != [])
          if s.frozen.contains core || other || ((s.core core).queue c.desc.sq).lent != [] then s
          else if c.dead then popSource s core c.desc.sq
          else if c.desc.dpkg = 0xFF then s.modChain id (fun c => { c with flight := [e.tok] })
          else
            let x : ChainFlit := { fromHere := none, dlid := c.desc.dlid, drole := c.desc.drole, dq := c.desc.dq,
                                   kind := e.tok.kind, poison := e.tok.poison, data := e.tok.data }
            match Config.freeNat s.tick 14 id % 3 with
            | 0 => popSource { s with out := s.out ++ [.flit c.desc.dpkg x] } core c.desc.sq
            | 1 => refuse (s.modChain id (fun c => { c with flight := [e.tok] })) id
            | _ => popSource (s.modChain id (fun c => { c with dead := true })) core c.desc.sq)

/-- What becomes of an arriving entry. -/
inductive Taken where
  | yes (s : State)
  | refused
  | ended
deriving DecidableEq, Repr

/-- The spill ring of a destination queue, keyed by 16 × task handle + queue. -/
def spillKey (task q : Nat) : Nat := 16 * task + q

/-- An entry enters the spill ring, allocated at the first arrival; whether it can be allocated is left open. -/
def spill (s : State) (task q : Nat) (t : Tok) : Taken :=
  match Tab.find s.spills (spillKey task q) with
  | some l => if l.length < 4096 then .yes { s with spills := Tab.put s.spills (spillKey task q) (l ++ [t]) } else .refused
  | none =>
    if Config.freeNat s.tick 15 0 % 2 = 0 then .refused
    else .yes { s with spills := Tab.put s.spills (spillKey task q) [t] }

/-- The table of R367. A queue that is not a declared ax queue has no place for it. -/
def arriveChain (s : State) (x : ChainFlit) : Taken :=
  match Tab.find s.launches x.dlid with
  | none => .ended
  | some l =>
    let id := x.dlid + x.drole
    let tok : Tok := ⟨x.kind, x.poison, x.data⟩
    let declared := match l.img.queues[x.dq]? with | some q => q.decl && !q.xa | none => false
    if !declared || l.img.groupsz ≤ x.drole then .ended
    else if l.waiting then spill s id x.dq tok
    else
      match (s.taskOf id).life with
      | .ended | .counting => .ended
      | .live | .draining =>
        let core := (s.taskOf id).core
        let q := (s.core core).queue x.dq
        if q.isFull || Tab.get [] s.spills (spillKey id x.dq) != [] then spill s id x.dq tok
        else .yes (s.modCore core (fun k => k.setQueue x.dq (q.push { tok, ready := s.cyc + 1 })))
      | _ => spill s id x.dq tok

/-- CHAIN_ARRIVAL: an entry of a chain of this package, or of another, reaches its destination. -/
def execChainArrival (x : ChainFlit) (s : State) : Out :=
  .next (match x.fromHere with
    | none =>
      (match arriveChain s x with
       | .yes s => { s with out := s.out ++ [.flitReply true x] }
       | .ended => { s with out := s.out ++ [.flitReply true x] }
       | .refused => { s with out := s.out ++ [.flitReply false x] })
    | some id =>
      match Tab.find s.chains id with
      | none => s
      | some c =>
        match c.flight, chainCore s c with
        | t :: _, some core =>
          if c.refused || x != { fromHere := some id, dlid := c.desc.dlid, drole := c.desc.drole, dq := c.desc.dq,
                                 kind := t.kind, poison := t.poison, data := t.data } then s
          else
            let landed (s : State) : State := popSource (s.modChain id (fun c => { c with flight := [] })) core c.desc.sq
            (match arriveChain s x with
             | .yes s => landed s
             | .ended => landed (s.modChain id (fun c => { c with dead := true }))
             | .refused => refuse s id)
        | _, _ => s)

/-- CHAIN_RESEND: 1,250 cycles after a refusal the entry is sent again. -/
def execChainResend (id : Nat) (s : State) : Out :=
  .next (match Tab.find s.chains id with
    | none => s
    | some c =>
      if c.refused ∧ c.resendAt ≤ s.cyc then
        s.modChain id (fun c => { c with refused := false, flight := if c.desc.dpkg = 0xFF then c.flight else [] })
      else s)

/-- SPILL_RING_DRAIN: the oldest spilled entry enters DQ when there is room. -/
def execSpillRingDrain (core q : Nat) (s : State) : Out :=
  .next (let id := (s.core core).home
    let x := (s.core core).queue q
    match Tab.get [] s.spills (spillKey id q), (s.taskOf id).life with
    | t :: l, .live | t :: l, .draining =>
      if x.isFull then s
      else
        State.modCore { s with spills := Tab.put s.spills (spillKey id q) l } core
          (fun k => k.setQueue q (x.push { tok := t, ready := s.cyc + 1 }))
    | _, _ => s)

end Sys2Proof.Machine
end

