-- ==== Sys2Proof/Machine/Control.lean ====
section
/-! DEFINITION. Control flow (04 R129 to R134). -/

namespace Sys2Proof.Machine

/-- The target of a B-format instruction (02 R43). -/
def State.target (s : State) (disp : Word32) : Word := s.me.pc + (sext64 disp <<< 3)

/-- CheckTarget of R133: a target that is not canonical traps ADDR_NONCANON before any effect. -/
def State.checkTarget (s : State) (target : Word) (k : State) : State :=
  if canonical target then k else s.trap 0x03 target

/-- R129. -/
def branch (taken : Word → Word → Bool) (a b : Reg) (disp : Word32) (s : State) : State :=
  s.reading [a, b]
    (if taken (s.rx a) (s.rx b) then s.checkTarget (s.target disp) (s.goto (s.target disp)) else s.next)

/-- A transfer with link (R130, R131). -/
def link (d : Reg) (target : Word) (s : State) : State :=
  s.checkTarget target ((s.wx d (s.me.pc + 8)).goto target)

def execBeq (a b : Reg) (disp : Word32) (s : State) : Out := .next (branch (fun A B => A == B) a b disp s)
def execBne (a b : Reg) (disp : Word32) (s : State) : Out := .next (branch (fun A B => A != B) a b disp s)
def execBlt (a b : Reg) (disp : Word32) (s : State) : Out := .next (branch (fun A B => A.toInt < B.toInt) a b disp s)
def execBge (a b : Reg) (disp : Word32) (s : State) : Out := .next (branch (fun A B => B.toInt ≤ A.toInt) a b disp s)
def execBltu (a b : Reg) (disp : Word32) (s : State) : Out := .next (branch (fun A B => A.toNat < B.toNat) a b disp s)
def execBgeu (a b : Reg) (disp : Word32) (s : State) : Out := .next (branch (fun A B => B.toNat ≤ A.toNat) a b disp s)
def execJ (disp : Word32) (s : State) : Out := .next (s.checkTarget (s.target disp) (s.goto (s.target disp)))
def execJal (d : Reg) (disp : Word32) (s : State) : Out := .next (link d (s.target disp) s)

/-- R131: an unaligned target traps ALIGN. -/
def execJalr (d a : Reg) (imm : Word32) (s : State) : Out :=
  .next (s.reading [a]
    (let target := s.rx a + sext64 imm
     if target.toNat % 8 ≠ 0 then s.trap 0x04 target else link d target s))

/-- R132. -/
def execLoop (a : Reg) (disp : Word32) (s : State) : Out :=
  .next (s.reading [a]
    (let n := s.rx a - 1
     if n ≠ 0 then s.checkTarget (s.target disp) ((s.wx a n).goto (s.target disp)) else (s.wx a 0).next))

end Sys2Proof.Machine
end

