-- ==== Sys2Proof/Machine/Firmware.lean ====
section
/-! DEFINITION. Service firmware: start, verification and the switch under running work (13 R428, R433). -/

namespace Sys2Proof.Machine

/-- The digest a firmware image is signed over: of its header and its body (R433). -/
def imageDigest (v : FwImage) : List Byte :=
  Config.sha3 (toBytes 8 v.length ++ toBytes 8 v.entry.toNat ++ toBytes 8 v.version ++ v.body)

/-- Length of the signature (R433). -/
def signatureBytes : Nat := 2420

/-- The image at a physical address of service memory: header of three dwords, signature, body of the header's length; none where
it does not lie in service memory. The order and the widths are PRESUMED (log 10). -/
def State.imageAt (s : State) (pa : Nat) : Option FwImage :=
  let n := s.dword pa
  let body := pa + 24 + signatureBytes
  if serviceBase ≤ pa ∧ body + n ≤ serviceBase + 0x4000000 then
    some { length := n, entry := word (s.dword (pa + 8)), version := s.dword (pa + 16), signature := s.bytes (pa + 24) signatureBytes,
           body := s.bytes body n }
  else none

/-- The checks of R433. -/
def imageVerified (v : FwImage) : Bool :=
  Config.mldsaVerify (imageDigest v) v.signature && Config.fusedVersion ≤ v.version

/-- Measurement register `i` is extended. -/
def Pkg.extend (g : Pkg) (i : Nat) (digest : List Byte) : Pkg :=
  { g with measure := Tab.put g.measure i (Config.sha3 (Tab.get (List.replicate 32 0) g.measure i ++ digest)) }

/-- The service cores self-test has passed: SVCS of them, the lowest numbered (DESIGN CHOICE, log 3). -/
def State.svcMasters (s : State) : List Nat := (List.range (min s.pkg.svcs 32)).map (0x1000 + ·)

/-- A service thread at an image's entry; its supervisor words are kept (R428). -/
def svcThread (old : Thread) (entry : Word) : Thread :=
  { life := .running, svc := true, pc := entry, phys := old.phys, sctxJob := old.sctxJob, svec := old.svec }

/-! ## Pieces of a migration (12 R384) -/

/-- Poison is carried with a piece; a sector of the new frame keeps its own (13 R430). -/
def movePoison (l : List Nat) (old new n : Nat) : List Nat :=
  (List.range (n / 32)).foldl (fun l i => if l.contains (old / 32 + i) then addSector l (new / 32 + i) else l) l

/-- Copies of a page's leaf, and the table entries above it, leave the caches (R381, R382). -/
def State.uncache (s : State) (job va size : Nat) : State :=
  { s with cache := s.cache.filter (fun c => !(c.job == job && c.va < va + size && va < c.va + levelSize c.level))
           walks := s.walks.filter (fun e => !(e.job == job && e.va < va + size && va < e.va + entrySize e.level)) }

/-- The next piece moves; with the last one the leaf names the new frame. The old frame keeps its bytes, which are undefined to the program:
DESIGN CHOICE, log 9. -/
def migrateNext (s : State) (m : Migration) : State :=
  let s := s.uncache m.job m.va (levelSize m.level)
  let old := m.old + 4096 * m.next
  let new := m.frame + 4096 * m.next
  let bs := s.bytes old 4096
  let s := s.write new bs
  let s : State := { s with poison := movePoison s.poison old new 4096 }
  let rest := s.migrations.filter (fun x => x.thr != m.thr)
  if 4096 * (m.next + 1) < levelSize m.level then { s with migrations := { m with next := m.next + 1 } :: rest }
  else
    State.writeDword { s with migrations := rest } m.leafAt (setBits (s.dword m.leafAt) 43 12 (m.frame / 4096))

/-- All the pieces left. -/
def migrateRest : (n : Nat) → State → Nat → State
  | 0, s, _ => s
  | n + 1, s, thr =>
    match s.migrations.find? (fun m => m.thr == thr) with
    | none => s
    | some m => migrateRest n (migrateNext s m) thr

/-- Migrations whose service threads stop are completed. -/
def State.endMigrations (s : State) : State :=
  s.migrations.foldl (fun s m => migrateRest (levelSize m.level / 4096) s m.thr) s

/-- Every service core stops, and all their threads begin at the image's entry (log 3). -/
def State.startService (s : State) (entry : Word) : State :=
  let s := s.endMigrations
  let old := s
  let s : State := { s with
    threads := s.threads.filter (fun (e : Nat × Thread) => e.1 / 8 < 0x1000)
    frozen := s.frozen.filter (fun m => m < 0x1000 || 0x1020 ≤ m)
    remotes := s.remotes.filter (fun (e : Nat × Remote) => e.2.m < 0x1000)
    cores := s.cores.filter (fun (e : Nat × Core) => e.1 < 0x1000) }
  s.svcMasters.foldl (fun s m => (List.range 8).foldl (fun s t => s.setThr (thrKey m t) (svcThread (old.thr (thrKey m t)) entry)) s) s

/-- GO: verification of the image at IMAGE begins, unless a switch is under way. -/
def fwGo (s : State) : State :=
  match s.sup.fwstate with
  | .verifying | .draining | .completing => s
  | _ => { s with sup := { s.sup with fwstate := .verifying, fwfrom := s.sup.fwimage, fwgo := some s.cyc } }

/-- The calls that have been taken: CQHEAD has passed their entries. -/
def Sup.takenCalls (x : Sup) : List (Nat × PendEntry) :=
  x.calls.filter (fun c => (x.cqhead + 2 ^ 32 - c.1 - 1) % 2 ^ 32 < 2 ^ 31)

/-- STATE returns to 0 once the held entries are written (R428 step 5). -/
def Sup.settled (x : Sup) : Sup :=
  if x.fwstate = .completing ∧ x.fwheld = (0, 0) then { x with fwstate := .idle } else x

/-- Steps 3 to 5: the new image starts; taken and unfinished calls are written again, ahead of the held entries. -/
def changeover (s : State) : State :=
  let again := s.sup.takenCalls
  { s.startService s.sup.fwentry with
    waitCq := again.map (fun c => c.2) ++ s.waitCq
    sup := Sup.settled { s.sup with fwstate := .completing, fwheld := (s.waitFq.length, again.length + s.waitCq.length)
                                    calls := s.sup.calls.filter (fun c => !(again.contains c)) } }

def fwDrained (s : State) : State := if s.sup.fwstate = .draining then changeover s else s

def execFwGo (s : State) : Out := .next (fwGo s)
def execFwDrained (s : State) : Out := .next (fwDrained s)

/-- FW_DRAIN_TIMEOUT: 1 ms after STATE became 2. -/
def execFwDrainTimeout (s : State) : Out :=
  .next (if s.sup.fwstate = .draining ∧ s.sup.fwsince + 1250000 ≤ s.cyc then changeover s else s)

/-- FW_VERIFY_DONE: the controller has verified the image at 4 KiB page `image`, IMAGE as it was at GO; a refusal changes nothing but
STATE. One that does not lie in service memory is refused: DEDUCED, log 10. -/
def execFwVerifyDone (image : Nat) (s : State) : Out :=
  .next (let refused : State := { s with sup := { s.sup with fwstate := .refused } }
    if s.sup.fwstate ≠ .verifying then s
    else
      match s.imageAt (image * 4096) with
      | none => refused
      | some v =>
        if imageVerified v then
          { s with sup := { s.sup with fwstate := .draining, fwentry := v.entry, fwsince := s.cyc }
                   pkg := { s.pkg.extend 2 (imageDigest v) with versions := Tab.put s.pkg.versions 2 v.version } }
        else refused)

end Sys2Proof.Machine
end

