-- ==== Sys2Proof/Machine/Integer.lean ====
section
/-! DEFINITION. Register-to-register integer instructions, immediates and `lea` (04 R124 to R128). -/

namespace Sys2Proof.Machine

/-- A 32-bit result sign-extended to a dword. -/
def sextWord (v : Word) : Word := sext64 (v.setWidth 32)
def shiftOf (b : Word) : Nat := b.toNat % 64
def signedMin (a b : Word) : Word := if a.toInt ≤ b.toInt then a else b
def signedMax (a b : Word) : Word := if a.toInt ≤ b.toInt then b else a
def unsignedMin (a b : Word) : Word := if a.toNat ≤ b.toNat then a else b
def unsignedMax (a b : Word) : Word := if a.toNat ≤ b.toNat then b else a
/-- Zero bits below the lowest 1 bit of the low `n` bits of `v`; `n` when there is none. -/
def trailing (v : Nat) : Nat → Nat
  | 0 => 0
  | n + 1 => if v % 2 = 1 then 0 else 1 + trailing (v / 2) n
def reverseBits (v : Word) : Word := v.reverse
def countOnes (v : Nat) : Nat → Nat
  | 0 => 0
  | n + 1 => v % 2 + countOnes (v / 2) n
def swapBytes (v : Word) : Word := word (ofBytes (toBytes 8 v.toNat).reverse)

/-- The quotients and remainders of R125. -/
def divSigned (a b : Word) : Word :=
  if b = 0 then wrap64 (-1) else if a.toInt = -2 ^ 63 ∧ b.toInt = -1 then wrap64 (-2 ^ 63) else wrap64 (a.toInt.tdiv b.toInt)
def remSigned (a b : Word) : Word :=
  if b = 0 then a else if a.toInt = -2 ^ 63 ∧ b.toInt = -1 then 0
  else wrap64 (a.toInt - a.toInt.tdiv b.toInt * b.toInt)
def divUnsigned (a b : Word) : Word := if b = 0 then wrap64 (-1) else word (a.toNat / b.toNat)
def remUnsigned (a b : Word) : Word := if b = 0 then a else word (a.toNat % b.toNat)

def execAdd (d a b : Reg) (s : State) : Out := .next (binary (fun A B => A + B) d a b s)
def execSub (d a b : Reg) (s : State) : Out := .next (binary (fun A B => A - B) d a b s)
def execAddw (d a b : Reg) (s : State) : Out := .next (binary (fun A B => sextWord (A + B)) d a b s)
def execSubw (d a b : Reg) (s : State) : Out := .next (binary (fun A B => sextWord (A - B)) d a b s)
def execAnd (d a b : Reg) (s : State) : Out := .next (binary (fun A B => A &&& B) d a b s)
def execOr (d a b : Reg) (s : State) : Out := .next (binary (fun A B => A ||| B) d a b s)
def execXor (d a b : Reg) (s : State) : Out := .next (binary (fun A B => A ^^^ B) d a b s)
def execAndn (d a b : Reg) (s : State) : Out := .next (binary (fun A B => A &&& ~~~B) d a b s)
def execOrn (d a b : Reg) (s : State) : Out := .next (binary (fun A B => A ||| ~~~B) d a b s)
def execXnor (d a b : Reg) (s : State) : Out := .next (binary (fun A B => ~~~(A ^^^ B)) d a b s)
def execSll (d a b : Reg) (s : State) : Out := .next (binary (fun A B => A <<< shiftOf B) d a b s)
def execSrl (d a b : Reg) (s : State) : Out := .next (binary (fun A B => A >>> shiftOf B) d a b s)
def execSra (d a b : Reg) (s : State) : Out := .next (binary (fun A B => A.sshiftRight (shiftOf B)) d a b s)
def execRol (d a b : Reg) (s : State) : Out := .next (binary (fun A B => A.rotateLeft (shiftOf B)) d a b s)
def execRor (d a b : Reg) (s : State) : Out := .next (binary (fun A B => A.rotateRight (shiftOf B)) d a b s)
def execMul (d a b : Reg) (s : State) : Out := .next (binary (fun A B => A * B) d a b s)
def execMulh (d a b : Reg) (s : State) : Out :=
  .next (binary (fun A B => wrap64 (A.toInt * B.toInt / 2 ^ 64)) d a b s)
def execMulhu (d a b : Reg) (s : State) : Out :=
  .next (binary (fun A B => word (A.toNat * B.toNat / 2 ^ 64)) d a b s)
def execMulhsu (d a b : Reg) (s : State) : Out :=
  .next (binary (fun A B => wrap64 (A.toInt * (B.toNat : Int) / 2 ^ 64)) d a b s)
def execMulw (d a b : Reg) (s : State) : Out := .next (binary (fun A B => sextWord (A * B)) d a b s)
def execMadd (d a b c : Reg) (s : State) : Out := .next (ternary (fun A B C => A * B + C) d a b c s)
def execDiv (d a b : Reg) (s : State) : Out := .next (dividing divSigned d a b s)
def execDivu (d a b : Reg) (s : State) : Out := .next (dividing divUnsigned d a b s)
def execRem (d a b : Reg) (s : State) : Out := .next (dividing remSigned d a b s)
def execRemu (d a b : Reg) (s : State) : Out := .next (dividing remUnsigned d a b s)
def execMin (d a b : Reg) (s : State) : Out := .next (binary signedMin d a b s)
def execMax (d a b : Reg) (s : State) : Out := .next (binary signedMax d a b s)
def execMinu (d a b : Reg) (s : State) : Out := .next (binary unsignedMin d a b s)
def execMaxu (d a b : Reg) (s : State) : Out := .next (binary unsignedMax d a b s)
def execSlt (d a b : Reg) (s : State) : Out := .next (binary (fun A B => boolWord (A.toInt < B.toInt)) d a b s)
def execSltu (d a b : Reg) (s : State) : Out := .next (binary (fun A B => boolWord (A.toNat < B.toNat)) d a b s)
def execSeq (d a b : Reg) (s : State) : Out := .next (binary (fun A B => boolWord (A == B)) d a b s)
def execSne (d a b : Reg) (s : State) : Out := .next (binary (fun A B => boolWord (A != B)) d a b s)
def execSel (d a b c : Reg) (s : State) : Out := .next (ternary (fun A B C => if C ≠ 0 then A else B) d a b c s)
def execClz (d a : Reg) (s : State) : Out := .next (unary (fun A => word (trailing (reverseBits A).toNat 64)) d a s)
def execCtz (d a : Reg) (s : State) : Out := .next (unary (fun A => word (trailing A.toNat 64)) d a s)
def execPopc (d a : Reg) (s : State) : Out := .next (unary (fun A => word (countOnes A.toNat 64)) d a s)
def execBrev (d a : Reg) (s : State) : Out := .next (unary reverseBits d a s)
def execBswap (d a : Reg) (s : State) : Out := .next (unary swapBytes d a s)
def execBfx (d a b c : Reg) (s : State) : Out :=
  .next (ternary (fun A B C => signedField A (shiftOf B) (shiftOf C + 1)) d a b c s)
def execBfxu (d a b c : Reg) (s : State) : Out :=
  .next (ternary (fun A B C => unsignedField A (shiftOf B) (shiftOf C + 1)) d a b c s)
def execBfi (d a b c : Reg) (s : State) : Out :=
  .next (quaternary (fun D A B C => insertField D A (shiftOf B) (shiftOf C + 1)) d a b c s)

/-- `lea` (R49, R128). -/
def execLea (d a b : Reg) (shift : BitVec 3) (disp : BitVec 29) (s : State) : Out :=
  .next (binary (fun A B => A + (B <<< shift.toNat) + sext64 disp) d a b s)

def immPos (imm : Word32) : Nat := bits imm 5 0
def immLen (imm : Word32) : Nat := bits imm 13 8 + 1

def execAddi (d a : Reg) (imm : Word32) (s : State) : Out := .next (withImm (fun A i => A + sext64 i) d a imm s)
def execAddiw (d a : Reg) (imm : Word32) (s : State) : Out :=
  .next (withImm (fun A i => sextWord (A + sext64 i)) d a imm s)
def execAndi (d a : Reg) (imm : Word32) (s : State) : Out := .next (withImm (fun A i => A &&& zext64 i) d a imm s)
def execOri (d a : Reg) (imm : Word32) (s : State) : Out := .next (withImm (fun A i => A ||| zext64 i) d a imm s)
def execXori (d a : Reg) (imm : Word32) (s : State) : Out := .next (withImm (fun A i => A ^^^ zext64 i) d a imm s)
def execSlli (d a : Reg) (imm : Word32) (s : State) : Out := .next (withImm (fun A i => A <<< i.toNat) d a imm s)
def execSrli (d a : Reg) (imm : Word32) (s : State) : Out := .next (withImm (fun A i => A >>> i.toNat) d a imm s)
def execSrai (d a : Reg) (imm : Word32) (s : State) : Out :=
  .next (withImm (fun A i => A.sshiftRight i.toNat) d a imm s)
def execSlti (d a : Reg) (imm : Word32) (s : State) : Out :=
  .next (withImm (fun A i => boolWord (A.toInt < i.toInt)) d a imm s)
def execSltiu (d a : Reg) (imm : Word32) (s : State) : Out :=
  .next (withImm (fun A i => boolWord (A.toNat < (sext64 i).toNat)) d a imm s)
def execLi (d : Reg) (imm : Word32) (s : State) : Out := .next (s.result d (sext64 imm))
def execLih (d a : Reg) (imm : Word32) (s : State) : Out :=
  .next (withImm (fun A i => (i ++ A.setWidth 32 : BitVec 64)) d a imm s)
def execMuli (d a : Reg) (imm : Word32) (s : State) : Out := .next (withImm (fun A i => A * sext64 i) d a imm s)
def execBfxi (d a : Reg) (imm : Word32) (s : State) : Out :=
  .next (withImm (fun A i => signedField A (immPos i) (immLen i)) d a imm s)
def execBfxui (d a : Reg) (imm : Word32) (s : State) : Out :=
  .next (withImm (fun A i => unsignedField A (immPos i) (immLen i)) d a imm s)
def execBfii (d a : Reg) (imm : Word32) (s : State) : Out :=
  .next (withImmOld (fun D A i => insertField D A (immPos i) (immLen i)) d a imm s)

end Sys2Proof.Machine
end

