-- ==== Sys2Proof/Machine/System.lean ====
section
/-! DEFINITION. The system family: control words (04 R118 to R123, 12 R371, 13 R406, R410), software traps and their
return (13 R404, R405), system calls (R425, R427), and the fault and call queues (R411, R412). -/

namespace Sys2Proof.Machine

/-! ## Control words -/

/-- Queue and matrix words are those of the thread's task (R121). -/
def State.taskCore (s : State) : Core := s.core s.myTask.core

/-- A word every thread has. -/
def State.commonWord (s : State) (n : Nat) : Option Word :=
  match n with
  | 0x000 => some (word (s.me.status s.cur.t))
  | 0x001 => some s.me.epc
  | 0x002 => some s.me.tcause
  | 0x003 => some s.me.tval
  | 0x006 => some s.me.prio
  | 0x013 => some (word s.cyc)
  | _ => none

/-- MSTAT as reads of this cycle see it (04 R122). -/
def State.mstatSeen (s : State) (m : Nat) : Word :=
  match Tab.find s.prior m with
  | some p => if p.cyc = s.cyc then p.mstat else (s.core m).matrix.mstat s.cyc
  | none => (s.core m).matrix.mstat s.cyc

/-- A word only threads of tasks have. -/
def State.taskWord (s : State) (n : Nat) : Option Word :=
  let t := s.myTask
  let c := s.taskCore
  match n with
  | 0x004 => some t.trapvec
  | 0x005 => some t.trapen
  | 0x007 => some s.me.watchq
  | 0x008 => some s.me.lodcnt
  | 0x009 => some s.me.lodcyc
  | 0x00A => some s.me.qfullcnt
  | 0x00B => some (zext64 t.tflags)
  | 0x010 => some (word t.role)
  | 0x011 => some (word s.me.task)
  | 0x012 => some (word (s.launchOf t.lid).img.groupsz)
  | 0x050 => some (s.mstatSeen s.myTask.core)
  | 0x051 => some c.matrix.misscnt
  | 0x052 => some (word c.matrix.dla)
  | 0x053 => some (word c.matrix.dlb)
  | _ =>
    let q := c.queue (n % 16)
    if n / 16 = 2 then some (word (if q.decl then q.cap else 0))
    else if n / 16 = 3 then some (word (bits (s.queueSeen s.myTask.core (n % 16)) 6 0))
    else if n / 16 = 4 then some (if q.decl then Tab.get 0 t.qempty (n % 16) else 0)
    else none

def FwState.code : FwState → Nat
  | .idle => 0 | .verifying => 1 | .draining | .completing => 2 | .refused => 3

/-- A supervisor word. -/
def State.svcWord (s : State) (n : Nat) : Option Word :=
  let p := s.sup
  match n with
  | 0x800 => some (word (p.jobtab * 2 ^ 22))
  | 0x801 => some (word ((if s.me.phys then 2 ^ 63 else 0) + s.me.sctxJob))
  | 0x802 => some (word (p.lwmtab * 2 ^ 22))
  | 0x810 => some p.fqbase
  | 0x811 => some (word p.fqhead)
  | 0x812 => some (word p.fqtail)
  | 0x813 => some p.cqbase
  | 0x814 => some (word p.cqhead)
  | 0x815 => some (word p.cqtail)
  | 0x816 => some s.me.svec
  | 0x817 => some (word (p.fwstate.code * 2 ^ 60 + p.fwimage * 2 ^ 12))
  | 0x818 => some (word (p.savepool * 2 ^ 4))
  | _ => none

def State.cword (s : State) (n : Nat) : Option Word :=
  match s.commonWord n with
  | some v => some v
  | none => if s.me.svc then s.svcWord n else s.taskWord n

/-- BASE and LOG2N. -/
def queueBase (v : Word) : Word := word (bits v 43 12 * 4096 + bits v 4 0)

/-- A word written field by field; none where the word is read-only. -/
def State.writeSvc (s : State) (n : Nat) (v : Word) : Option State :=
  let p := s.sup
  match n with
  | 0x800 => some { s with sup := { p with jobtab := bits v 43 22 } }
  | 0x801 => some (s.modMe (fun th => { th with phys := bit v 63, sctxJob := bits v 15 0 }))
  | 0x802 => some { s with sup := { p with lwmtab := bits v 43 22 } }
  | 0x810 => some { s with sup := { p with fqbase := queueBase v } }
  | 0x811 => some { s with sup := { p with fqhead := bits v 31 0 } }
  | 0x813 => some { s with sup := { p with cqbase := queueBase v } }
  | 0x814 => some { s with sup := { p with cqhead := bits v 31 0 } }
  | 0x816 => some (s.modMe (fun th => { th with svec := word (bits v 63 3 * 8) }))
  | 0x817 =>
    let s' : State := { s with sup := { p with fwimage := bits v 43 12 } }
    let s' := if bit v 0 then fwGo s' else s'
    some (if bit v 1 then fwDrained s' else s')
  | 0x818 => some { s with sup := { p with savepool := bits v 43 4 } }
  | _ => none

/-- The same for a word of a task's thread. TRAPVEC [2:0] is ignored (04 R118): it is not kept, and reads zero (DEDUCED, log 39). -/
def State.writeTask (s : State) (n : Nat) (v : Word) : Option State :=
  let core := s.myTask.core
  match n with
  | 0x004 => some (s.modMyTask (fun t => { t with trapvec := word (bits v 63 3 * 8) }))
  | 0x005 => some (s.modMyTask (fun t =>
      { t with trapen := word (bits v 63 16 * 2 ^ 16 + bits v 2 0), trapenOld := (s.cyc + 1, t.trapenAt s.cyc) }))
  | 0x007 => some (s.modMe (fun th => { th with watchq := word (bits v 4 0) }))
  | 0x008 => some (s.modMe (fun th => { th with lodcnt := v }))
  | 0x009 => some (s.modMe (fun th => { th with lodcyc := v }))
  | 0x00A => some (s.modMe (fun th => { th with qfullcnt := v }))
  | 0x00B => some (s.modMyTask (fun t => { t with tflags := t.tflags &&& ~~~(v.setWidth 6) }))
  | 0x051 => some (s.modCore core (fun c => { c with matrix := { c.matrix with misscnt := v } }))
  | _ =>
    if n / 16 = 4 ∧ !s.me.helper ∧ ((s.core core).queue (n % 16)).decl then
      some (s.modMyTask (fun t => { t with qempty := Tab.put t.qempty (n % 16) v }))
    else none

def State.writeCword (s : State) (n : Nat) (v : Word) : Option State :=
  match n with
  | 0x001 => some (s.modMe (fun th => { th with epc := v }))
  | 0x002 => some (s.modMe (fun th => { th with tcause := word (bits v 15 12 * 2 ^ 12 + bits v 7 0) }))
  | 0x003 => some (s.modMe (fun th => { th with tval := v }))
  | 0x006 => some (s.modMe (fun th => { th with prio := word (bits v 1 0) }))
  | _ => if s.me.svc then s.writeSvc n v else s.writeTask n v

/-- Words 0x800 to 0xFFF need supervisor state; then the word must be assigned (R118). -/
def State.naming (s : State) (n : Nat) (k : State) : State := if 0x800 ≤ n ∧ !s.me.svc then s.trap PRIV 0 else k

/-- A written word holds good data again (R429). -/
def State.mend (s : State) (n : Nat) : State :=
  let s := s.modMe (fun th => { th with badWords := th.badWords.filter (· != n) })
  if s.me.svc then s else s.modMyTask (fun t => { t with badWords := t.badWords.filter (· != n) })

def getcw (d : Reg) (n : Nat) (s : State) : State :=
  s.naming n
    (match s.cword n with
     | none => s.trap ILLOP 0
     | some v => s.readingWord n (s.result d v))

def setcw (n : Nat) (a : Reg) (s : State) : State :=
  s.naming n
    (match s.next.writeCword n (s.rx a) with
     | none => s.trap ILLOP 0
     | some s' => s.reading [a] (s'.mend n))

def execGetcw (d : Reg) (cw : BitVec 12) (s : State) : Out := .next (getcw d cw.toNat s)
def execSetcw (cw : BitVec 12) (a : Reg) (s : State) : Out := .next (setcw cw.toNat a s)
def execCyc (d : Reg) (s : State) : Out := .next (s.readingWord 0x013 (s.result d (word s.cyc)))

/-! ## Traps -/

/-- SWTRAP with EPC the next instruction (R405). -/
def execTrap (imm : BitVec 16) (s : State) : Out := .next (s.trapAt 0x19 (zext64 imm) (s.me.pc + 8))

def rte (s : State) : State :=
  let th := s.me
  s.readingWord 0x000
    (if !th.intrap then s.trap ILLOP 0
     else
       s.readingWord 0x001
         (if th.epc.toNat % 8 ≠ 0 then s.trap 0x04 th.epc
          else
            s.checkTarget th.epc
              (let s' := s.modMe Thread.returnFromTrap
               if th.arrayHandler then unfreezeArrays s' s.myTask.core else s')))

def execRte (s : State) : Out := .next (rte s)

/-! ## System calls -/

/-- Reads in flight of a task are discarded; stores and atomics complete (13 R416), and so do the chunks of its copies (08 R277). -/
def discardReads (s : State) (id : Nat) : State :=
  let mine (r : Remote) : Bool :=
    r.m < 0x1000 && (match r.act with
      | .element core _ | .token core _ _ => (s.core core).home == id
      | .chunkRead .. | .chunkWrite .. => false
      | _ => (s.thr (thrKey r.m r.t)).task == id)
  let gone (r : Remote) : Bool := mine r && (match r.req with | .read _ _ => true | _ => false)
  let ids := (s.remotes.filter (fun e => gone e.2)).map (·.1)
  { s with
    remotes := s.remotes.filter (fun e => !(gone e.2))
    threads := s.threads.map (fun e =>
      if e.2.remote.any (fun i => ids.contains i) then (e.1, { e.2 with remote := none }) else e) }

/-- Stores and atomics of a task that are still on their way. -/
def sendsLeft (s : State) (id : Nat) : Bool :=
  s.remotes.any (fun e => e.2.m < 0x1000 &&
    (match e.2.act with
     | .element core _ | .token core _ _ => (s.core core).home == id
     | .chunkRead m i _ _ | .chunkWrite m i _ _ => ((s.core m).copyById i).any (fun c => c.task == id)
     | _ => (s.thr (thrKey e.2.m e.2.t)).task == id))

/-- A task begins to save itself: its units stop, and its binding is withdrawn (13 R416, 01 R31); its threads stop at their boundaries
(07 R229). -/
def beginSave (s : State) (id : Nat) (v : Saving) : State :=
  let s := (s.unbind id).modTask id (fun t => { t with saving := some { v with begun := s.cyc }, life := .saved })
  discardReads { s with threads := s.threads.map (fun e =>
    if e.2.task = id ∧ e.1 / 8 < 0x1000 then (e.1, e.2.stopAt s.cyc) else e) } id

/-- PopSavePool (R427): the popped area, none while the pool is empty. -/
def popPool (s : State) : Option (State × Nat) :=
  let at_ := s.sup.savepool * 16
  let v := ofBytes (s.bytes at_ 16)
  if poolTop v = 0 then none
  else
    some (s.write at_ (toBytes 16 (setBits v 95 64 (poolTop v - 1))),
      s.dword ((poolStack v).toNat + 8 * (poolTop v - 1)))

/-- The step ends: the caller goes on after the `syscall`, and the task saves itself (R425). Which service core drives the
save path is left open. -/
def syscall (a : Reg) (imm : BitVec 16) (s : State) : State :=
  match popPool s with
  | none => s.hold (.syscall a imm)
  | some (s', area) =>
    beginSave s'.next s.me.task
      { area, reason := 0x18, call := imm.toNat, slot := s.me.slot, reg := a.toNat, argp := s.rx a,
        svcCore := 0x1000 + Config.freeNat s.tick 7 0 % 32 }

def execSyscall (a : Reg) (imm : BitVec 16) (s : State) : Out := .next (s.homeOnly (s.reading [a] (syscall a imm s)))

/-- SAVEPOOL_REREAD: the held caller reads the header again every 4,096 cycles. -/
def execSavepoolReread (s : State) : Out :=
  .next (match s.me.held with
    | some (.syscall a imm) =>
      if s.me.heldFrom < s.cyc ∧ (s.cyc - s.me.heldFrom) % 4096 = 0 then s.reading [a] (syscall a imm s) else s
    | _ => s)

/-! ## The fault queue and the call queue (R412) -/

/-- Dwords 1 to 3, then dword 0. -/
def writeEntry (s : State) (base : Word) (seq : Nat) (e : PendEntry) : State :=
  let a := fqAddr base seq
  let s := ((s.writeDword (a + 8) e.d1.toNat).writeDword (a + 16) e.d2.toNat).writeDword (a + 24) e.d3.toNat
  s.writeDword a e.d0

/-- One of the entries held through a firmware switch is written (R428). -/
def State.heldWritten (s : State) (calls : Bool) : State :=
  { s with sup := Sup.settled { s.sup with
      fwheld := if calls then (s.sup.fwheld.1, s.sup.fwheld.2 - 1) else (s.sup.fwheld.1 - 1, s.sup.fwheld.2) } }

/-- The oldest waiting fault makes its entry, or merges into an entry opened since. -/
def writeFault (s : State) : State :=
  match s.waitFq with
  | [] => s
  | e :: l =>
    let s' : State := { s with waitFq := l }
    match e.fault.bind (fun f => s'.mergeFault f) with
    | some s'' => s''.heldWritten false
    | none =>
      let p := s.sup
      if fqRoom p.fqbase p.fqhead p.fqtail ∧ p.fwstate ≠ .draining then
        let s' := writeEntry s' p.fqbase p.fqtail e
        let opened : List OpenEntry := match e.fault with
          | some f => [⟨p.fqtail, f.cause, f.job, f.tval.toNat / 4096, [f]⟩]
          | none => []
        State.heldWritten { s' with sup := { p with fqtail := (p.fqtail + 1) % 2 ^ 32 }
                                    openEntries := s'.openEntries ++ opened } false
      else s

/-- A call entry is held while the old image drains, and one whose call was made in the cycle of GO from then on (R428, R436). -/
def Sup.holdsCall (p : Sup) (e : PendEntry) : Bool :=
  p.fwstate == .draining || (p.fwstate == .verifying && p.fwgo == some e.begun)

/-- The oldest waiting call makes its entry. -/
def writeCall (s : State) : State :=
  match s.waitCq with
  | [] => s
  | e :: l =>
    let p := s.sup
    if fqRoom p.cqbase p.cqhead p.cqtail ∧ p.holdsCall e = false then
      State.heldWritten { writeEntry { s with waitCq := l } p.cqbase p.cqtail e with
        sup := { p with cqtail := (p.cqtail + 1) % 2 ^ 32, calls := p.calls ++ [(p.cqtail, e)] } } true
    else s

def execFaultEntryWrite (calls : Bool) (s : State) : Out := .next (if calls then writeCall s else writeFault s)

end Sys2Proof.Machine
end

