-- ==== Sys2Proof/Machine/Management.lean ====
section
/-! DEFINITION. The package and its management: commands over MCTP, register writes, memory errors, scrubbing, power,
temperature and reset (13 R429 to R435, 17 R464 to R471). -/

namespace Sys2Proof.Machine

def State.modPkg (s : State) (f : Pkg → Pkg) : State := { s with pkg := f s.pkg }

/-! ## Management commands (17 R469) -/

def State.answerMgmt (s : State) (bs : List Byte) : State := s.modPkg (fun g => { g with reply := bs })

def execGetStatus (s : State) : Out := .next (s.answerMgmt (toBytes 8 (s.hubDword 0)))

/-- At most 1,024 bytes of the test log; what a longer request returns is not stated (log 29). -/
def execGetLog (off len : Nat) (s : State) : Out :=
  .next (s.answerMgmt (if len ≤ 1024 then (s.pkg.log.drop off).take len else [Config.freeByte s.tick 4 0]))

/-- The report of 13 R433: the nonce, the eight measurement registers and the security versions, of the boot image and of the last
switch, with their signature. The order of the parts is PRESUMED (log 29). -/
def attestReport (g : Pkg) (nonce : List Byte) : List Byte :=
  nonce ++ (List.range 8).flatMap (fun i => Tab.get (List.replicate 32 0) g.measure i) ++ toBytes 8 (Tab.get 0 g.versions 1) ++
    toBytes 8 (Tab.get 0 g.versions 2)

def execAttest (nonce : List Byte) (s : State) : Out :=
  .next (let r := attestReport s.pkg nonce
    s.answerMgmt (r ++ Config.mldsaSign r))

def execReadReg (off : Nat) (s : State) : Out := .next (s.answerMgmt (toBytes 8 (s.hubDword (off / 8 * 8))))

/-- Acts with RWS rights, and is refused in the safe state; the code of that status is not stated (log 29). -/
def execWriteReg (off : Nat) (v : Word) (s : State) : Out :=
  .next (if s.pkg.safe then s.answerMgmt [Config.freeByte s.tick 5 0]
    else (s.hubWrite (off / 8 * 8) v.toNat v.toNat).answerMgmt [0])

/-- RESET is answered, and package reset follows within 10 ms; a launch of its cycle is dropped and never counted. -/
def execReset (s : State) : Out :=
  .next { s with
    pkg := { s.pkg with reply := [0], resetDue := some ((s.pkg.resetDue.map (·.1)).getD s.cyc, s.cyc) }
    launches := s.launches.filter (fun e => !(e.2.waiting && e.2.joined == s.cyc)) }

def execUnsupportedCommand (_code : Byte) (s : State) : Out := .next (s.answerMgmt [2])

/-! ## Register writes (00 R6, 17 R465, R470, 11 R351) -/

/-- A host write through BAR0: launch ports take their record and LCTL; every other register ignores it. -/
def hostRegister (off : Nat) (v : Word) (s : State) : State :=
  if off < 0x10000 ∨ 0x10000 + 128 * 16 ≤ off then s
  else
    let n := (off - 0x10000) / 128
    let i := off % 128 / 8
    if i = 14 then s else s.portWrite n i v

def execRegisterWrite (src : RegSource) (off : Nat) (v : Word) (s : State) : Out :=
  .next (match src with
    | .host => hostRegister (off / 8 * 8) v s
    | .supervisor => s.hubWrite (off / 8 * 8) v.toNat v.toNat)

def execVctlWrite (die : Nat) (v : Word) (s : State) : Out :=
  .next (if die < 8 then s.hubWrite (0x100 + 8 * die) v.toNat v.toNat else s)

/-- A step of the aging monitor keeps CUR between LO and HI: from a CUR outside bounds written since, it sets the code nearest to its target
that they allow (DEDUCED, log 39). -/
def execAgingMonitorStep (die : Nat) (up : Bool) (s : State) : Out :=
  .next (if 8 ≤ die then s
    else s.modPkg (fun g =>
      let v := Tab.get {} g.vctl die
      let cur := max v.lo (min v.hi (if up then v.cur + 1 else v.cur - 1))
      { g with vctl := Tab.put g.vctl die { v with cur } }))

/-! ## Errors and scrubbing (13 R429, R430, R435) -/

/-- A 32-bit counter that saturates (17 R471). -/
def saturated (n : Nat) : Nat := min (n + 1) (2 ^ 32 - 1)

def execCorrectedError (s : State) : Out := .next (s.modPkg (fun g => { g with corr := saturated g.corr }))

def addBad (l : List Nat) (n : Nat) : List Nat := if l.contains n then l else l ++ [n]

/-- Control words held per thread (04 R118, R121). -/
def threadWord (n : Nat) : Bool := n < 4 || (6 ≤ n && n ≤ 0x0A) || 0x800 ≤ n

/-- What an uncorrectable error does to the state it strikes; x0 holds nothing, and a dead granule reads zero without poison (08 R264). -/
def strike (site : ErrSite) (s : State) : State :=
  match site with
  | .memory k => if s.isDead (k * 32) then s else { s with poison := addSector s.poison k }
  | .scratchpad core k => s.modCore core (fun c => { c with spoison := addSector c.spoison k })
  | .queueEntry core q i =>
    s.modCore core (fun c =>
      let x := c.queue q
      c.setQueue q { x with entries := (x.entries.zip (List.range x.entries.length)).map (fun e =>
        if e.2 = i then { e.1 with tok := { e.1.tok with poison := true } } else e.1) })
  | .accumulator core a => s.modCore core (fun c => { c with matrix := { c.matrix with apsn := Tab.put c.matrix.apsn a true } })
  | .register m t r =>
    if r = 0 then s else s.modThr (thrKey m t) (fun th => { th with badRegs := addBad th.badRegs r.toNat })
  | .controlWord m t cw =>
    let k := thrKey m t
    if threadWord cw.toNat || (s.thr k).svc then s.modThr k (fun th => { th with badWords := addBad th.badWords cw.toNat })
    else s.modTask (s.thr k).task (fun x => { x with badWords := addBad x.badWords cw.toNat })
  | .peRegister core pe code =>
    s.modCore core (fun c => c.setPe pe { c.pe pe with bad := addBad (c.pe pe).bad code.toNat })
  | .rowStore _ _ => s

/-- A row store is refetched, and its error is never visible. -/
def execUncorrectableError (site : ErrSite) (s : State) : Out :=
  .next (match site with
    | .rowStore _ _ => s
    | _ => (strike site s).modPkg (fun g => { g with uncorr := saturated g.uncorr }))

/-- The scrub takes hold of a sector, or lets go; which one is left open. It skips dead granules (08 R264). -/
def execScrub (s : State) : Out :=
  .next (let n := Config.freeNat s.tick 16 0
    { s with scrubHeld := if n % 2 = 0 ∨ s.isDead (n / 2 * 32) then none else some (n / 2), scrubDone := [] })

/-! ## Power and temperature (17 R466, R467) -/

/-- New averages of 10 ms and 1 ms, in 0.1 W. -/
def execPowerAverage (avg10 avg1 : Nat) (s : State) : Out :=
  .next (s.modPkg (fun g =>
    { g with avg := avg10 % 2 ^ 32, peak := max g.peak (avg1 % 2 ^ 32)
             overcap := if g.pwrcap < avg10 then true else if 100 * avg10 < 95 * g.pwrcap then false else g.overcap }))

/-- What reset keeps: the model's counter, the host's own memory, and what has already left the package. -/
def State.cleared (s : State) : State :=
  { State.reset with tick := s.tick, mem := s.mem.filter (fun c => hostBase ≤ c.1), out := s.out }

/-- The record of a trip in the test log; its form is not stated (log 29). -/
def tripRecord (sensor : Nat) : Byte := Config.freeByte 0 6 sensor

/-- THERMAL_TRIP: sensor `sensor` reads 110 °C; every rail but VAUX is held off. -/
def execThermalTrip (sensor : Nat) (s : State) : Out :=
  .next (if s.pkg.off ∨ 72 ≤ sensor then s
    else
      let g := s.pkg
      { s.cleared with
        pkg := { g with ready := false, overcap := false, off := true, trip := true, svcs := 0
                        log := g.log ++ [tripRecord sensor]
                        temp := Tab.put g.temp (sensor / 8) (max 110 (Tab.get 0 g.temp (sensor / 8))) } })

/-! ## Reset (17 R468, 13 R432 to R434) -/

/-- The test log as service memory shows it (13 R432). -/
def State.placeLog (s : State) : State := s.write (serviceBase + Config.logAt) s.pkg.log

/-- Step 6: the boot image is placed, measured, and the service cores start (log 3). -/
def boot (v : FwImage) (s : State) : State :=
  let s := s.write serviceBase v.body
  let s := s.modPkg (fun g => { g.extend 1 (imageDigest v) with versions := Tab.put g.versions 1 v.version, ready := true })
  s.startService v.entry

/-- PACKAGE_RESET, with what self-test finds; refused after a trip until every sensor reads below 85 °C. A critical
failure or a refused image leaves the package in the safe state. -/
def execPackageReset (r : ResetInfo) (s : State) : Out :=
  .next (if s.pkg.off && s.pkg.temp.any (fun e => 85 ≤ e.2) then s
    else
      let g : Pkg := { trip := s.pkg.trip, log := r.log, mappedOut := r.failedCores, svcs := min r.svcs 32
                       pertorOff := r.failedPertor, ethernetOff := r.failedEthernet }
      let s' := State.placeLog { s.cleared with pkg := g }
      if r.critical ∨ r.svcs < 8 ∨ !(imageVerified r.image) then s'.modPkg (fun g => { g with safe := true })
      else boot r.image s')

/-- VAUX_POWER_UP: the first power-up, or one after VAUX was lost; TRIP reads 0 (R471). -/
def execVauxPowerUp (s : State) : Out := .next s.cleared

end Sys2Proof.Machine
end

