-- ==== Sys2Proof/Machine/Supervisor.lean ====
section
/-! DEFINITION. The supervisor family: translation invalidation, migration, access tables, freeze and thaw (12 R382 to
R390), pre-emption and the continuation of faults (13 R414 to R416, R425). -/

namespace Sys2Proof.Machine

/-! ## Invalidation (R382) -/

/-- V of a job's entry. -/
def State.jobValid (s : State) (job : Nat) : Bool := s.dword (s.sup.jobtab * 2 ^ 22 + 64 * job) % 2 = 1

/-- [a, a + k) and [lo, lo + n) meet. -/
def meets (a k lo n : Nat) : Bool := a < lo + n && lo < a + k

/-- The chunk of a copy whose write is under way was read from [lo, lo + n). -/
def State.sentFrom (s : State) (act : RemoteAct) (lo n : Nat) : Bool :=
  match act with
  | .chunkWrite m id p q => ((s.core m).copyById id).any (fun c => meets (c.srcAddr p).toNat (q - p) lo n)
  | _ => false

/-- Accesses of a job that are on their way to or from another package and translated through [lo, lo + n): a copy's chunk counts until
its last byte is delivered. -/
def State.awayIn (s : State) (job lo n : Nat) : Bool :=
  s.remotes.any (fun e =>
    (s.agentOf (thrKey e.2.m e.2.t)).job == job && (meets e.2.ea.toNat e.2.locs.length lo n || s.sentFrom e.2.act lo n)) ||
  s.cores.any (fun e => e.2.copies.any (fun c =>
    (copyAgent s c).job == job && c.far.any (fun f => meets f.ea f.bytes.length lo n)))

/-- A page under migration is not invalidated before its end. -/
def State.movingIn (s : State) (job lo n : Nat) : Bool :=
  s.migrations.any (fun m => m.job == job && m.va < lo + n && lo < m.va + levelSize m.level)

/-- Accesses on their way that translated through a leaf which covers a byte of [lo, lo + n): anywhere in that leaf (R382). -/
def State.awayThrough (s : State) (job lo n : Nat) : Bool :=
  s.awayIn job lo n ||
  s.cache.any (fun c => c.job == job && meets c.va (levelSize c.level) lo n && s.awayIn job c.va (levelSize c.level))

/-- The invalidation of [lo, lo + n) of a job: it waits for what translated through it. -/
def invalidate (i : Instr) (d : Reg) (job lo n : Nat) (s : State) : State :=
  if s.awayThrough job lo n || s.movingIn job lo n then s.hold i else (s.uncache job lo n).result d 0

/-- Statuses 3 and 1. -/
def jobStatus (s : State) (v : Word) : Option Nat :=
  if v.toNat / 2 ^ 16 ≠ 0 then some 3 else if s.jobValid v.toNat then none else some 1

def withJob (d a : Reg) (s : State) (k : Nat → State) : State :=
  match jobStatus s (s.rx a) with
  | some n => s.result d (word n)
  | none => k (s.rx a).toNat

def execTlbinvPage (d a b : Reg) (s : State) : Out :=
  .next (s.supervisor (s.reading [a, b]
    (withJob d a s (fun job => invalidate (.tlbinvPage d a b) d job ((s.rx b).toNat / 4096 * 4096) 4096 s))))

def execTlbinvRange (d a b c : Reg) (s : State) : Out :=
  .next (s.supervisor (s.reading [a, b, c]
    (withJob d a s (fun job =>
      let n := (s.rx c).toNat
      if n = 0 ∨ spanBad (s.rx b) n then s.result d 2
      else invalidate (.tlbinvRange d a b c) d job (s.rx b).toNat n s))))

def execTlbinvJob (d a : Reg) (s : State) : Out :=
  .next (s.supervisor (s.reading [a]
    (withJob d a s (fun job => invalidate (.tlbinvJob d a) d job 0 (2 ^ 64) s))))

def execTlbinvAll (d : Reg) (s : State) : Out :=
  .next (s.supervisor
    (if s.remotes != [] || s.cores.any (fun e => e.2.copies.any (fun c => c.far != [])) || s.migrations != [] then
       s.hold (.tlbinvAll d)
     else State.result { s with cache := [], walks := [], jobs := [] } d 0))

/-! ## Migration (R384) -/

/-- The refusals, the job before the leaf (DEDUCED, log 26), or the migration. -/
def migrateCheck (s : State) (va : Word) (frame job : Nat) : Except Nat Migration :=
  if 2 ^ 16 ≤ job ∨ !(s.jobValid job) then .error 5
  else
    match if canonical va && !inAperture va.toNat then walk s job va.toNat else .error 0x05 with
    | .error _ => .error 1
    | .ok tr =>
      let size := levelSize tr.level
      let base := va.toNat / size * size
      if frame % size ≠ 0 ∨ !(populated frame size) then .error 2
      else if leafRpkg tr.leaf ≠ 0xFF then .error 3
      else if 8 ≤ s.migrations.length ∨ s.movingIn job base size then .error 4
      else .ok { thr := s.curKey, job, va := base, level := tr.level, leafAt := tr.leafAt, old := leafPfn tr.leaf * 4096,
                 frame, next := 0 }

/-- Each time it is tried, one more piece moves, once what is under way in it is done. -/
def migrate (d a b c : Reg) (s : State) : State :=
  let go (s : State) (m : Migration) : State :=
    let s' := if s.awayIn m.job (m.va + 4096 * m.next) 4096 then
        { s with migrations := m :: s.migrations.filter (fun x => x.thr != m.thr) }
      else migrateNext s m
    if s'.migrations.any (fun x => x.thr == m.thr) then s'.hold (.migrate d a b c) else s'.result d 0
  match s.migrations.find? (fun m => m.thr == s.curKey) with
  | some m => go s m
  | none =>
    match migrateCheck s (s.rx a) (s.rx b).toNat (s.rx c).toNat with
    | .error n => s.result d (word n)
    | .ok m => go s m

def execMigrate (d a b c : Reg) (s : State) : Out := .next (s.supervisor (s.reading [a, b, c] (migrate d a b c s)))

/-! ## Access tables, freeze and thaw (R387 to R390) -/

/-- The targets of R386. -/
def isTarget (t : Nat) : Bool :=
  t < 0x18 || (0x20 ≤ t && t ≤ 0x23) || t == 0x30 || (0x1000 ≤ t && t ≤ 0x1FFF)

def accOf (lo hi : Word) : AccEntry :=
  { limit := bits lo 63 32, base := bits lo 31 0, v := bit hi 63, w := bit hi 62, r := bit hi 61, mhi := bits hi 25 13,
    mlo := bits hi 12 0 }

def acctabStatus (a hi : Word) (e : AccEntry) : Nat :=
  if !(isTarget (bits a 31 16)) then 1
  else if bits a 63 32 ≠ 0 ∨ bits a 15 6 ≠ 0 then 2
  else if bits hi 60 26 ≠ 0 then 3
  else if e.v && (e.limit < e.base || e.mhi < e.mlo) then 4
  else 0

def execAcctab (d a b c : Reg) (s : State) : Out :=
  .next (s.supervisor (s.reading [a, b, c]
    (let v := s.rx a
     let e := accOf (s.rx b) (s.rx c)
     match acctabStatus v (s.rx c) e with
     | 0 =>
       let k := 64 * bits v 31 16 + bits v 5 0
       let old := if (Tab.find s.accOld k).isSome then s.accOld else Tab.put s.accOld k (s.accEntry (bits v 31 16) (bits v 5 0))
       State.result { s with acc := Tab.put s.acc k e, accOld := old } d 0
     | n => s.result d (word n))))

/-- The master numbers of R385. -/
def isMaster (m : Nat) : Bool :=
  m < 0x1020 || (0x1040 ≤ m && m ≤ 0x1047) || (0x1050 ≤ m && m ≤ 0x1053) || m == 0x1058 ||
    (0x1100 ≤ m && m ≤ 0x11BF)

def freezeOp (d a : Reg) (s : State) : State :=
  let m := (s.rx a).toNat
  if !(isMaster m) then s.result d 1
  else if s.frozen.contains m then s.result d 2
  else State.freezeMaster { s.result d 0 with frozeAt := Tab.put s.frozeAt m (s.cyc + 1) } m

/-- A freeze of this cycle's denial stands (R395). -/
def thawOp (d a : Reg) (s : State) : State :=
  let m := (s.rx a).toNat
  if !(isMaster m) then s.result d 1
  else if !(s.frozen.contains m) || Tab.get 0 s.deniedAt m == s.cyc + 1 then s.result d 2
  else
    State.result { s with frozen := s.frozen.filter (· != m), dirty := true
                          threads := s.threads.map (fun e => if e.1 / 8 = m then (e.1, { e.2 with stopIn := none }) else e) } d 0

def execFreeze (d a : Reg) (s : State) : Out := .next (s.supervisor (s.reading [a] (freezeOp d a s)))
def execThaw (d a : Reg) (s : State) : Out := .next (s.supervisor (s.reading [a] (thawOp d a s)))

/-! ## Pre-emption (R415, R416) -/

/-- The lowest status that holds, or acceptance. -/
def preemptStatus (s : State) (id area : Nat) : Nat :=
  match Tab.find s.tasks id with
  | none => 1
  | some t =>
    if t.life = .ended then 1
    else if !(areaOk area) then 2
    else if t.life = .counting ∨ t.saving.any (fun v => v.reason == 0x17) then 3
    else if t.saving.isSome ∨ t.life = .saved ∨ t.life = .queued then 4
    else 0

/-- Acceptance: a task that is still being loaded saves itself when it is. -/
def acceptPreempt (s : State) (id area : Nat) : State :=
  let v : Saving := { area, reason := 0x17, call := 0, slot := 0, reg := 0, argp := 0, svcCore := s.cur.m }
  if (s.taskOf id).life = .starting then (s.unbind id).modTask id (fun t => { t with saving := some v })
  else beginSave s id v

def preempt (d a b : Reg) (s : State) : State :=
  let id := (s.rx a).toNat
  let area := (s.rx b).toNat
  match preemptStatus s id area with
  | 0 => acceptPreempt (s.result d 0) id area
  | n => s.result d (word n)

def execPreempt (d a b : Reg) (s : State) : Out := .next (s.supervisor (s.reading [a, b] (preempt d a b s)))

/-- The matrix array has reached a boundary at which R202 stops it. -/
def Matrix.settled (m : Matrix) : Bool :=
  m.drains == [] && m.pend.isNone &&
  (match m.phase with
   | .pairRun | .finishing | .zeroing | .loading | .draining | .ending => false
   | _ => true)

/-- Chunks of a task's copies that are in flight: on their way, or come back and to be written (08 R277); one whose ring has no slot for
it any more is not waited for. -/
def chunksLeft (s : State) (id : Nat) : Bool :=
  s.cores.any (fun e => e.2.copies.any (fun c => c.task == id && !c.orphan && (c.away != [] || (c.far != [] && copyFits s e.1 c))))

/-- Every unit of a task that saves itself has stopped. -/
def saveReady (s : State) (id : Nat) : Bool :=
  (s.core (s.taskOf id).core).matrix.settled && !(sendsLeft s id) && !(chunksLeft s id)

/-- `Reachable` of R425. -/
def reachable (a : Word) : Bool := ordinary a 64

/-- What follows the last byte of the save area. -/
def afterSave (s : State) (id core : Nat) (v : Saving) : State :=
  if v.reason = 0x17 then
    s.queueEntry { d0 := entryWord 0x17 7 0 core, d1 := word id, d2 := word v.area,
                   d3 := if v.cancelled then 1 else 0, fault := none }
  else if v.cancelled then s
  else if v.reg ≠ 0 ∧ !(reachable v.argp) then continueCall (s.writeDword (v.area + 0x90) 1) id v.area
  else
    { s with waitCq := s.waitCq ++ [{ d0 := entryWord 0x18 0 v.slot core, d1 := word id, d2 := word v.area,
                                       d3 := word v.call, fault := none, begun := v.begun }] }

/-- PREEMPT_SAVE_COMPLETE: the last byte of the save area has been written. A cancelled task's save stops, and the task ends
(R436). -/
def execPreemptSaveComplete (task : Nat) (s : State) : Out :=
  .next (match (s.taskOf task).saving with
    | none => s
    | some v =>
      if (s.taskOf task).life ≠ .saved ∨ !(saveReady s task) ∨ s.frozen.contains v.svcCore then s
      else
        match pathDenied s v.svcCore v.area areaBytes false true with
        | some (t, u) => s.deny v.svcCore t u false true
        | none =>
          let core := (s.taskOf task).core
          let hwt (slot : Nat) : Nat := (Tab.get 0 (s.taskOf task).helperAt (slot - 4)) % 8
          let s := (capture s task).modTask task (fun t =>
            { t with saving := none, area := v.area, caller := if v.reason = 0x18 ∧ v.reg ≠ 0 then some (v.slot, v.reg) else none })
          if v.cancelled then
            taskCounted (endChains ((afterSave s task core v).modTask task (fun t => { t with life := .ended })) task) core
              (handleLid task)
          else
            let t := s.taskOf task
            let s := writeArea s task t v (t.priv.getD {}) (fun slot => if slot < 4 then slot else hwt slot)
            afterSave s task core v)

/-! ## `resume` of open entries (R414) -/

/-- A waiter that is a thread of a saved task. -/
def savedWaiter (s : State) (f : FaultRec) : Bool :=
  (s.keyOf f.task f.slot).isNone && (Tab.find s.tasks f.task).isSome &&
    ((Tab.find (s.taskOf f.task).privThreads f.slot).any (fun th => th.parked.isSome))

/-- The thread of a waiter, live or saved. -/
def waiterThread (s : State) (f : FaultRec) : Option Thread :=
  match s.keyOf f.task f.slot with
  | some k => some (s.thr k)
  | none => if savedWaiter s f then Tab.find (s.taskOf f.task).privThreads f.slot else none

/-- A saved thread takes the chosen continuation when its task resumes. -/
def chooseLater (s : State) (f : FaultRec) (mode : Nat) : State :=
  if savedWaiter s f then s.modTask f.task (fun t => { t with choices := t.choices ++ [(f.slot, mode, f.retry)] }) else s

def retryWaiter (s : State) (f : FaultRec) : State :=
  match f.retry with
  | .hub k => hubAgain { s with hub := s.hub.map (fun e => if e.1 = k then (k, { e.2 with since := s.cyc, reported := false }) else e) } k
  | _ =>
    match s.keyOf f.task f.slot with
    | some k => retryThread s k
    | none => chooseLater s f 1

def deliverWaiter (s : State) (f : FaultRec) : State :=
  match s.keyOf f.task f.slot with
  | some k => deliverThread s k
  | none => chooseLater s f 2

def killWaiter (s : State) (f : FaultRec) : State :=
  match f.retry with
  | .hub k => hubKill s k
  | _ => cancelTask s f.task

/-- Status 2 of `resume.deliver`. -/
def undeliverable (s : State) (f : FaultRec) : Bool :=
  match f.retry with
  | .hub _ => true
  | _ =>
    match waiterThread s f with
    | none => false
    | some th => (s.taskOf f.task).trapvec == 0 || th.intrap

/-- The entry is closed, and every waiter continues. -/
def resumeEntry (d a : Reg) (refused : State → FaultRec → Bool) (f : State → FaultRec → State) (s : State) : State :=
  let seq := bits (s.rx a) 31 0
  match s.openEntries.find? (fun e => e.seq == seq) with
  | none => s.result d 1
  | some e =>
    if e.waiters.any (refused s) then s.result d 2
    else
      let s' : State := { s with openEntries := s.openEntries.filter (fun x => x.seq != seq) }
      e.waiters.foldl f (s'.result d 0)

def execResumeRetry (d a : Reg) (s : State) : Out :=
  .next (s.supervisor (s.reading [a] (resumeEntry d a (fun _ _ => false) retryWaiter s)))
def execResumeDeliver (d a : Reg) (s : State) : Out :=
  .next (s.supervisor (s.reading [a] (resumeEntry d a undeliverable deliverWaiter s)))
def execResumeKill (d a : Reg) (s : State) : Out :=
  .next (s.supervisor (s.reading [a] (resumeEntry d a (fun _ _ => false) killWaiter s)))

end Sys2Proof.Machine
end

