-- ==== Sys2Proof/Machine/Remote.lean ====
section
/-! DEFINITION. Accesses to other packages over Pertor, and the requests that reach this one from outside (07 R213, 12 R386,
R389; 10 R328, R338). -/

namespace Sys2Proof.Machine

/-- The acting agent for the rest of a step. -/
def State.actAs (s : State) (m t : Nat) : State := { s with cur := { s.cur with m := m, t := t } }

/-- The bytes of an access whose far bytes came back as `data`, its other bytes read here. -/
def mergeData (s : State) : List Loc → List PByte → List PByte
  | [], _ => []
  | .far _ _ :: t, b :: bs => b :: mergeData s t bs
  | .far _ _ :: t, [] => (0, false) :: mergeData s t []
  | l :: t, bs => s.seen l :: mergeData s t bs

/-- The bytes of a store that lie in this package. -/
def nearWrites (locs : List Loc) (data : List PByte) : List (Loc × Byte) :=
  ((locs.zip data).filter (fun e => match e.1 with | .far _ _ => false | _ => true)).map (fun e => (e.1, e.2.1))

/-- The data of a write. -/
def reqData : PhysReq → List PByte
  | .write _ d => d
  | _ => []

/-- A read of a copy came back: its chunk is tried again with it; a write has delivered its chunk. -/
def copyBack (s : State) (r : Remote) (m id lo hi : Nat) (wr : Bool) (bytes : List PByte) : State :=
  match (s.core m).copyById id with
  | none => s
  | some c =>
    if !(c.away.any (fun a => a.1 == lo)) then s
    else if wr then chunkDone s m id lo hi (reqData r.req) []
    else
      s.modCore m (fun k => k.modCopy id (fun c =>
        { c with away := c.away.filter (fun a => a.1 != lo), far := ⟨lo, hi, r.ea.toNat, bytes⟩ :: c.far }))

/-- The element of a stream unit has been read, and waits for room in its queue, or it has been written: it fails no longer (R260). -/
def elementBack (s : State) (r : Remote) (id core u : Nat) (bytes : List PByte) : State :=
  let x := (s.core core).stream u
  if x.away != some id then s
  else if x.store then
    let q := (s.core core).queue x.q
    let s := s.modCore core (fun c => c.setQueue x.q (q.repaid u))
    match q.lent.find? (fun e => e.1 == u) with
    | none => elementDone s core u
    | some e => writeElement s core u r.locs e.2
  else s.modCore core (fun c => c.setStream u { x with away := none, got := some bytes, state := .running })

/-- A unit of a killed graph has no read outstanding any more; with the last one the nodes are released (09 R291). -/
def settleKilled (s : State) (core gid key : Nat) : State :=
  let s := s.modUnit core gid key (fun u => { u with away := none })
  if (s.graph core gid).units.any (fun e => e.2.away.isSome) then s else buryGraph s core gid

/-- A read of a fibre unit came back: its decision is taken with it. -/
def tokenBack (s : State) (r : Remote) (id core gid key : Nat) (bytes : List PByte) : State :=
  if (s.unit core gid key).away != some id then s
  else if (s.graph core gid).dying then settleKilled s core gid key
  else s.modUnit core gid key (fun u => { u with away := none, got := (r.ea.toNat, bytes) :: u.got })

/-- The access comes back with poison that its thread's read traps on (R212). -/
def Remote.trapsOn (r : Remote) (bytes : List PByte) : Bool :=
  anyBad bytes && (match r.act with
    | .load .. | .rmw _ | .wait | .barrier .. | .fetch => true
    | _ => false)

/-- What an instruction's completed access `r` does, its bytes `bytes` at hand: a read of poison traps (R212). A thread stopped since keeps
the arrival of its `bar` (R234). -/
def completeThread (r : Remote) (bytes : List PByte) (s : State) : State :=
  let v := bytesOf bytes
  let read (k : State) : State := if anyBad bytes then s.trap 0x09 r.ea else k
  match r.act with
  | .load d sign => read (s.result d (loadValue sign r.locs.length v))
  | .store => (s.writeLocs (nearWrites r.locs (reqData r.req))).next
  | .opens => ((s.writeLocs (nearWrites r.locs (reqData r.req))).modMe (fun th => th.setGen none)).next
  | .rmw d => read (s.result d (word v))
  | .line => s.next
  | .wait =>
    read (match s.me.held with
      | some (.waita d a b dword cond) => waitaRead d b dword cond (.waita d a b dword cond) r.locs v s
      | some (.bar a b sc) =>
        match s.me.theGen with
        | some (g, _) => barReread (.bar a b sc) g v s
        | none => s
      | _ => s)
  | .barrier a b sc =>
    let n := barCount (s.rx b)
    read (if s.threadActs s.curKey then
        barArrived (.bar a b sc) n v
          (fun w s => (barStopped n v s).sendRemote s.agent needBoth ⟨r.locs, []⟩ r.ea (.write 0 (clean (toBytes 8 w))) .opens) s
      else barStopped n v s)
  | .fetch => read (s.modMe (fun th => { th with fetched := some (word v) }))
  | _ => s

/-- The access completes with the bytes that came back (R213); the leaves it uses are marked, unless it faults (12 R379). -/
def completeRemote (s : State) (id : Nat) (r : Remote) (data : List PByte) : State :=
  let bytes := mergeData s r.locs data
  let s := if r.trapsOn bytes then s else s.markLeaves r.marks
  match r.act with
  | .chunkRead m i lo hi => copyBack s r m i lo hi false bytes
  | .chunkWrite m i lo hi => copyBack s r m i lo hi true bytes
  | .element core u => elementBack s r id core u bytes
  | .token core gid key => tokenBack s r id core gid key bytes
  | _ => completeThread r bytes ((s.actAs r.m r.t).modMe (fun th => { th with remote := none }))

/-- The access is an instruction's or a fetch. -/
def RemoteAct.ofThread : RemoteAct → Bool
  | .chunkRead .. | .chunkWrite .. | .element .. | .token .. => false
  | _ => true

/-- The access will not be performed: the instruction traps REMOTE_TIMEOUT; an engine withholds its work. -/
def timeoutRemote (s : State) (id : Nat) (r : Remote) : State :=
  match r.act with
  | .chunkRead m i lo _ | .chunkWrite m i lo _ =>
    s.modCore m (fun k => k.modCopy i (fun c => if c.away.any (fun a => a.1 == lo) then withhold s.cyc lo 0x14 r.ea c else c))
  | .element core u => if ((s.core core).stream u).away = some id then withholdElement s core u 0x14 r.ea else s
  | .token core gid key =>
    if (s.unit core gid key).away != some id then s
    else if (s.graph core gid).dying then settleKilled s core gid key
    else failUnit s core gid key 0 0x14 (some r.ea) false
  | _ => ((s.actAs r.m r.t).modMe (fun th => { th with remote := none })).trap 0x14 r.ea

/-- The access `id` is over, and `k` follows where its thread still waits for it, or an engine made it. -/
def State.remoteEnds (s : State) (id : Nat) (k : State → Remote → State) : State :=
  match Tab.find s.remotes id with
  | none => s
  | some r =>
    let s' : State := { s with remotes := Tab.del s.remotes id }
    if r.act.ofThread && (s.thr (thrKey r.m r.t)).remote != some id then s' else k s' r

def execRemoteAccessCompletion (id : Nat) (data : List PByte) (s : State) : Out :=
  .next (s.remoteEnds id (fun s r => completeRemote s id r data))

/-- A keep-waiting notice of a target that parks the request (R213). -/
def execRemoteKeepWaiting (id : Nat) (s : State) : Out :=
  .next (match Tab.find s.remotes id with
    | none => s
    | some r => { s with remotes := Tab.put s.remotes id { r with noticed := r.noticed + 1 } })

/-- 10 ms in cycles of the arithmetic clock. -/
def remoteLimit : Nat := 12500000

/-- 10 ms from issue without completion: the requester sends a cancel (R213). -/
def execRemoteGiveUp (id : Nat) (s : State) : Out :=
  .next (match Tab.find s.remotes id with
    | none => s
    | some r =>
      if r.cancelSent ∨ s.cyc < r.issued + remoteLimit then s
      else
        { s with remotes := Tab.put s.remotes id { r with cancelSent := true }
                 out := s.out ++ (farRuns 0 r.locs).map (fun x => .cancel x.1 id) })

/-- The target's answer to a cancel: discarded unperformed, the instruction traps REMOTE_TIMEOUT; performed before,
it completes normally (R213). -/
def execRemoteCancelReply (id : Nat) (performed : Option (List PByte)) (s : State) : Out :=
  .next (s.remoteEnds id (fun s r =>
    match performed with
    | some data => completeRemote s id r data
    | none => timeoutRemote s id r))

/-! ## Requests from outside -/

def requestSpan : PhysReq → Nat × Nat
  | .read pa n => (pa, n)
  | .write pa d => (pa, d.length)
  | .rmw _ pa n _ _ => (pa, n)
def requestRights : PhysReq → Bool × Bool
  | .read _ _ => (true, false)
  | .write _ _ => (false, true)
  | .rmw .. => (true, true)

/-- Bytes with the addresses they go to. -/
def placed (pa : Nat) (d : List PByte) : List (Loc × PByte) :=
  (d.zip (List.range d.length)).map (fun (e : PByte × Nat) => (Loc.mem (pa + e.2), e.1))

/-- A byte that a write of this master does not reach: of a register with RWS fields, as none from outside is made in supervisor state (00 R6;
DEDUCED, log 28); for the host, of every register but the launch ports (17 R470). -/
def closedByte (master : Nat) : Loc → Bool
  | .mem pa => isHub pa && (hubRws (pa - hubBase) || (master == 0x1058 && !(isPort (pa - hubBase))))
  | _ => false

/-- A read of the host through BAR0, which maps the first 16 MiB of the hub register range (17 R470). -/
def hostRead (off n : Nat) (s : State) : State :=
  if off + n ≤ 2 ^ 24 then
    { s with out := s.out ++ [.reply 0x1058 (some ((List.range n).map (fun i => (s.byteAt (hubBase + off + i), false))))] }
  else s

/-- Bytes written from outside with their poison; only what moves whole sectors mends one (13 R430). -/
def State.writeIn (s : State) (master : Nat) (whole : Bool) (l : List (Loc × PByte)) : State :=
  let l := l.filter (fun e => !(closedByte master e.1))
  if whole then s.writeP l
  else
    l.foldl (fun s e => match e.1 with
      | .mem pa => if e.2.2 then { s with poison := addSector s.poison (pa / 32) } else s
      | _ => s) (s.writeLocs (l.map (fun e => (e.1, e.2.1))))

/-- The request is performed, and a read or atomic answered; an atomic on a poisoned sector writes nothing (07 R212, 13 R431). -/
def performRequest (s : State) (master : Nat) (whole : Bool) (r : PhysReq) : State :=
  match r with
  | .read pa n =>
    { s with out := s.out ++ [.reply master (some ((List.range n).map (fun i => s.seen (.mem (pa + i)))))] }
  | .write pa d => s.writeIn master whole (placed pa d)
  | .rmw op pa n o c =>
    let old := (List.range n).map (fun i => (s.byteAt (pa + i), s.poisoned (pa + i)))
    let s' : State := match if anyBad old then none else atomicNew op n (bytesOf old) o c with
      | some v => s.writeIn master false (placed pa (clean (toBytes n v)))
      | none => s
    { s' with out := s'.out ++ [.reply master (some old)] }

/-- The units of 4 KiB a request touches. -/
def requestUnits (r : PhysReq) : List Nat :=
  let p := requestSpan r
  (List.range ((p.1 + p.2 - 1) / 4096 - p.1 / 4096 + 1)).map (p.1 / 4096 + ·)

/-- PERTOR_REQUEST_IN: judged at the ingress, target 0x30, a hole by the target that it belongs to; a frozen ingress discards it. -/
def execPertorRequestIn (pkg : Nat) (r : PhysReq) (s : State) : Out :=
  .next (let m := 0x1100 + pkg
    let rt := requestRights r
    if 192 ≤ pkg || s.frozen.contains m then s
    else
      match (requestUnits r).find? (fun u => isHole (u * 4096) || !(accAllows s 0x30 m u rt.1 rt.2)) with
      | some u => s.deny m (if isHole (u * 4096) then targetOf (u * 4096) else 0x30) u rt.1 rt.2
      | none => performRequest s m true r)

/-- HOST_MEMORY_REQUEST: the host through CXL.mem, or a controller behind a PCIe port. A request of a frozen master is
answered with an error, or dropped when posted. The host's own memory is not checked (DEDUCED, log 28). -/
def execHostMemoryRequest (master : Nat) (r : PhysReq) (s : State) : Out :=
  .next (let rt := requestRights r
    let refused (s : State) : State :=
      if rt.1 || master == 0x1058 then { s with out := s.out ++ [.reply master none] } else s
    if !(master == 0x1058 || (0x1050 ≤ master && master ≤ 0x1053)) then s
    else if master == 0x1058 && hostBase ≤ (requestSpan r).1 then performRequest s master false r
    else if s.frozen.contains master then refused s
    else
      match (requestUnits r).findSome? (fun u => denied s master rt.1 rt.2 (.mem (u * 4096))) with
      | some (t, u) => refused (s.deny master t u rt.1 rt.2)
      | none => performRequest s master (master != 0x1058) r)

/-- HOST_RECALL: copies move between the host and the device; no value changes (10 R338). -/
def execHostRecall (_pa : Nat) (s : State) : Out := .next s

end Sys2Proof.Machine
end

