-- ==== Sys2Proof/Machine/Units.lean ====
section
/-! DEFINITION. Units of rows (05 R138 to R148, R167 to R169): which slots issue, whether the unit holds, which fault
stops it; the row controls of a cycle; the mutual wait of 11 R364; places that free in an engine's FIFO (08 R239). -/

namespace Sys2Proof.Machine

/-! ## The bundle a row meets -/

/-- The fields of a PE operation, and whether it reads SRCB and SRCC; `accs` has an immediate in SRCB (R161). -/
def peOp : Instr → Option (PeF × Bool × Bool)
  | .fadd f | .fsub f | .fmul f | .fmin f | .fmax f | .fceq f | .fclt f | .fcle f | .iadd f | .isub f | .imul f
  | .imulh f | .iand f | .ior f | .ixor f | .ishl f | .ishr f | .isra f | .imin f | .imax f | .iceq f | .iclt f
  | .iaddsat f | .pk8 f | .upk8 f | .bscale f | .lshuf f | .lbcast f | .lrot f => some (f, true, false)
  | .ffma f | .ffms f | .fnfma f | .peSel f => some (f, true, true)
  | .fabs f | .fneg f | .frcp f | .frsq f | .fexp2 f | .flog2 f | .iabs f | .cvt f | .cvtSat f | .mov f | .redadd f
  | .redmax f | .redmin f | .accs f | .qdrop f | .tkind f => some (f, false, false)
  | _ => none

def isAccs : Instr → Bool
  | .accs _ => true
  | _ => false

/-- `accs` and `qdrop` issue until they finish (R138). -/
def isTokenOp : Instr → Bool
  | .accs _ | .qdrop _ => true
  | _ => false

/-- A poisoned entry is no fault (R148). -/
def keepsPoison : Instr → Bool
  | .mov f => f.push != 0
  | .qdrop _ | .tkind _ => true
  | _ => false

def codesOf (x : PeF × Bool × Bool) : List (BitVec 6) :=
  x.1.a :: ((if x.2.1 then [x.1.b] else []) ++ (if x.2.2 then [x.1.c] else []))

/-- The bundle at a row's PC. -/
def Core.here (c : Core) (r : Nat) : Bundle := c.bundle r (c.row r).pc
def Core.form (c : Core) (r : Nat) : Option BundleForm :=
  match decodeBundle (c.here r) with
  | .ok f => some f
  | .error _ => none

/-! ## Breaches (R167, R181, R192) -/

/-- A declared queue of direction ax, or xa. -/
def Core.isQueue (c : Core) (q : Nat) (xa : Bool) : Bool := (c.queue q).decl && (c.queue q).xa == xa

/-- The queues and the immediate of a PE operation. -/
def slotAdmits (c : Core) (imm : Word32) (i : Instr) : Bool :=
  match peOp i with
  | none => true
  | some x =>
    (codesOf x).all (fun k => !(isPop k || isPeek k) || c.isQueue (k.toNat % 16) false) &&
      (x.1.push == 0 || c.isQueue x.1.dst.toNat true) && (!(isAccs i) || imm.toNat ≤ 6)

def controlAdmits (c : Core) : Option Instr → Bool
  | some (.brTok q _ _) => c.isQueue q.toNat false
  | _ => true

/-- A declared ring with slots of one of these codes. -/
def Core.isRing (c : Core) (r : BitVec 3) (slots : List Nat) : Bool :=
  (c.ring r.toNat).decl && slots.contains (c.ring r.toNat).slot

/-- RA and RB of `mma` and `simmer`. -/
def operandRings (c : Core) (f : MatF) : Bool := f.ra != f.rb && c.isRing f.ra [0] && c.isRing f.rb [0]

/-- The demand target that TROLE and TTHREAD name exists (R192). -/
def targetAdmits (s : State) (task : Nat) (f : MatF) : Bool :=
  let t := s.taskOf task
  let img := (s.launchOf t.lid).img
  let tr := f.trole.toNat
  tr < img.groupsz && tr / 64 == t.role / 64 &&
    (if tr = t.role then f.tthread.toNat < img.threads
     else match img.helpers[f.tthread.toNat]? with
       | some h => (t.role : Int) + h.roff == (tr : Int)
       | none => false)

def matrixAdmits (s : State) (core : Nat) : Instr → Bool
  | .mma f => operandRings (s.core core) f
  | .mload f => (s.core core).isRing f.ra (if f.mfmt = 4 then [2] else [1, 2])
  | .mdrain f => (s.core core).isRing f.rd [1, 2]
  | .simmer f =>
    let c := s.core core
    operandRings c f && c.isRing f.rd (if f.mfmt = 4 then [2] else [1, 2]) && f.rd != f.ra && f.rd != f.rb &&
      f.la.toNat < (c.ring f.ra.toNat).depth && f.lb.toNat < (c.ring f.rb.toNat).depth && targetAdmits s c.home f
  | _ => true

/-- The SLOT of the first part of a row's bundle in breach: the matrix command or layout, the row control, then the
PE slots (R167). -/
def breach (s : State) (core r : Nat) : Option Nat :=
  let c := s.core core
  let b := c.here r
  match decodeBundle b with
  | .ok (.matrix _ i) => if matrixAdmits s core i then none else some 5
  | .ok .theEnd => none
  | .ok (.normal _ ops rc imm) =>
    if !(controlAdmits c rc) then some 4
    else ((List.range 4).zip ops).findSome? (fun e => if slotAdmits c imm e.2 then none else some e.1)
  | .error 5 => some 5
  | .error 4 => some 4
  | .error _ =>
    match decodeRowControl b.header with
    | .error _ => some 4
    | .ok rc =>
      if !(controlAdmits c rc) then some 4
      else (List.range 4).find? (fun k =>
        match decodePe (b.slot k) with
        | .error _ => true
        | .ok i => !(slotAdmits c (c.imm r) i))

/-! ## Issue cycles (R138, R139) -/

/-- One slot that issues in an issue cycle. -/
structure SlotOp where
  row : Nat
  slot : Nat
  rep : Nat
  op : Instr
deriving DecidableEq, Repr

/-- Slot `k` has finished within the bundle. -/
def slotDone (x : Row) (k : Nat) (i : Instr) : Bool :=
  if isTokenOp i then x.tkfin.testBit k
  else match peOp i with
    | some y => y.1.rep.toNat < x.issue
    | none => 0 < x.issue

/-- The row has taken the last issue cycle of its bundle: a MATRIX bundle's one, in which its command is accepted. -/
def Core.finished (c : Core) (r : Nat) : Bool :=
  let x := c.row r
  match c.form r with
  | some (.normal _ ops _ _) => 0 < x.issue && ((List.range 4).zip ops).all (fun e => slotDone x e.1 e.2)
  | some (.matrix ..) => x.taken && 0 < x.issue
  | some .theEnd | none => false

/-- The slots that issue in the row's next issue cycle. -/
def Core.issuing (c : Core) (r : Nat) : List SlotOp :=
  let x := c.row r
  match c.form r with
  | some (.normal _ ops _ _) =>
    (((List.range 4).zip ops).filter (fun e => !(slotDone x e.1 e.2) && (peOp e.2).isSome)).map
      (fun e => { row := r, slot := e.1, rep := x.issue, op := e.2 })
  | _ => []

/-- The matrix command of a row's bundle. -/
def Core.matrixOp (c : Core) (r : Nat) : Option Instr :=
  match c.form r with
  | some (.matrix _ i) => some i
  | _ => none

/-! ## Whether a unit holds, and why it faults (R145 to R148, R161, R168) -/

/-- A judgement under way: pops and pushes so far by queue, rows that are short with their queue and slot, rows that find a queue
full, PEs whose operation reads poison, and faults by row, slot and cause. -/
structure Judged where
  pops : Tab Nat := []
  pushes : Tab Nat := []
  short : List (Nat × Nat × Nat) := []
  full : List (Nat × Nat) := []
  psn : List (Nat × Nat) := []
  faults : List (Nat × Nat × Nat) := []
deriving DecidableEq, Repr

/-- The entry a pop or peek reads, counting the unit's earlier pops; none for another source. -/
def judgeRead (s : State) (c : Core) (row slot : Nat) (j : Judged) (code : Nat) : Judged × Option QEntry :=
  if code < 0x20 then (j, none)
  else
    let q := code % 16
    let landed := (c.queue q).landed s.cyc
    if code < 0x30 then
      let n := Tab.get 0 j.pops q
      let j := { j with pops := Tab.put j.pops q (n + 1) }
      match landed[n]? with
      | some e => (j, some e)
      | none => ({ j with short := j.short ++ [(row, q, slot)] }, none)
    else
      match landed.head? with
      | some e => (j, some e)
      | none => ({ j with short := j.short ++ [(row, q, slot)] }, none)

def judgeReads (s : State) (c : Core) (row slot : Nat) : Judged → List Nat → Judged × List QEntry
  | j, [] => (j, [])
  | j, k :: l =>
    match judgeRead s c row slot j k with
    | (j, none) => judgeReads s c row slot j l
    | (j, some e) =>
      match judgeReads s c row slot j l with
      | (j, es) => (j, e :: es)

/-- A register or neighbour that an uncorrectable error has struck (13 R429). -/
def badSource (c : Core) (row slot code : Nat) : Bool :=
  if code < 0x18 then (c.pe (peIndex row slot)).bad.contains code
  else if code < 0x1C then (c.pe (neighbour code row slot)).bad.contains 0x18
  else false

/-- Entries a slot pushes in this issue cycle. -/
def slotPushes (c : Core) (o : SlotOp) (f : PeF) (es : List QEntry) : Nat :=
  if isAccs o.op then
    match es with
    | e :: _ => accsPushes f (c.imm o.row).toNat e.tok.kind
    | [] => 0
  else if f.push = 0 then 0 else 1

/-- One slot: an operation that faults pushes nothing. An `accs` whose entry is both poisoned and malformed raises POISON: DESIGN CHOICE,
log 38 (R148, R161). -/
def judgeSlot (s : State) (c : Core) (j : Judged) (o : SlotOp) : Judged :=
  match peOp o.op with
  | none => j
  | some x =>
    let codes := (codesOf x).map (stepped x.1 o.rep)
    match judgeReads s c o.row o.slot j codes with
    | (j, es) =>
      let q := x.1.dst.toNat
      let poison := es.any (fun e => e.tok.poison) && !(keepsPoison o.op)
      let cause :=
        if poison || codes.any (badSource c o.row o.slot) then 0x09
        else if isAccs o.op && es.any (fun e => accsMalformed (c.pe (peIndex o.row o.slot)) e.tok.kind) then 0x0D
        else 0
      let n := if cause = 0 then slotPushes c o x.1 es else 0
      let p := Tab.get 0 j.pushes q + n
      let j := if n = 0 then j else { j with pushes := Tab.put j.pushes q p }
      let j := if n ≠ 0 ∧ (c.queue q).cap < (c.queue q).taken + p then { j with full := j.full ++ [(o.row, q)] }
               else j
      let j := if poison then { j with psn := j.psn ++ [(o.row, o.slot)] } else j
      if cause = 0 then j else { j with faults := j.faults ++ [(o.row, o.slot, cause)] }

/-- The judgement of a unit's next issue cycle, in the order row, slot, source. -/
def judge (s : State) (core : Nat) (unit : List Nat) : Judged :=
  let c := s.core core
  (unit.flatMap (fun r => c.issuing r)).foldl (judgeSlot s c) {}

def Judged.holds (j : Judged) : Bool := j.short != [] || j.full != []

/-- The heads that a unit's peeks see (R145). -/
def unitHeads (s : State) (core : Nat) : Tab QEntry :=
  (s.core core).queues.filterMap (fun e => (e.2.head s.cyc).map (fun h => (e.1, h)))

/-- The issue cycle of a unit does not take place because of a fault. Of several slots the record names the first in the order row, slot:
DESIGN CHOICE, log 38 (R169). -/
def faultUnit (s : State) (core : Nat) (j : Judged) : State :=
  s.modCore core (fun c =>
    let c := j.psn.foldl (fun c e => c.setPe (peIndex e.1 e.2) ((c.pe (peIndex e.1 e.2)).setFlags fPSN)) c
    match j.faults with
    | [] => c
    | e :: _ => c.fault { row := e.1, cause := e.2.2, slot := e.2.1, bundle := (c.row e.1).pc })

/-- An issue cycle of row `r`'s unit has taken place; the row's own ISSUE counts it when its bundle has one, up to 64. -/
def issueTaken (s : State) (core r : Nat) : State :=
  s.modCore core (fun c =>
    let x := c.row r
    c.setRow r (if c.finished r then { x with tookAt := s.cyc + 1 }
                else { x with issue := min (x.issue + 1) 64, began := x.startOf s.cyc, tookAt := s.cyc + 1, counted := [], handed := false }))

/-! ## Sync groups (R140) -/

def Core.isSync (c : Core) (r : Nat) : Bool := (c.here r).sync
def Core.running (c : Core) : List Nat := (List.range 4).filter (fun r => (c.row r).run == .running)
/-- The rows inside the group's bundle, or the rows that form the group now. -/
def Core.members (c : Core) : List Nat :=
  if c.group = [] then c.running.filter c.isSync else c.group.filter (fun r => (c.row r).run == .running)
/-- A row that waits to join the group at its boundary. -/
def Core.joining (c : Core) (r : Nat) : Bool := c.group != [] && !c.group.contains r && c.isSync r

/-- Units in ascending order of their lowest row (R145). -/
def Core.units (c : Core) : List (List Nat) :=
  let g := c.members
  (List.range 4).filterMap (fun r =>
    if g.head? = some r then some g
    else if g.contains r || (c.row r).run != .running then none
    else some [r])

/-! ## Row controls of a cycle (R138, R140, R164 to R166, R169) -/

/-- The row completes its issue cycle of this cycle although the array freezes (R169), or the task leaves the core (03 R101). -/
def mayControl (s : State) (c : Core) (r : Nat) : Bool :=
  (c.xfault.isNone && !c.arrayFrozen && !(s.taskSaving c.home)) || (c.row r).tookAt == s.cyc + 1

/-- The control of a row's bundle; none where the bundle has none. -/
def Core.control (c : Core) (r : Nat) : Option Instr :=
  match c.form r with
  | some (.normal _ _ rc _) => rc
  | _ => none

/-- An `mfence` that waits for the array (R189). -/
def Core.fenced (c : Core) (r : Nat) : Bool := c.matrixOp r == some .mfence && !c.matrix.idle

/-- A row that must wait at the end of its bundle: `br.tok` without an entry, `bqpush` without room, `mfence`. -/
def controlWaits (s : State) (c : Core) (r : Nat) : Bool :=
  match c.control r with
  | some (.brTok q _ _) => ((c.queue q.toNat).head s.cyc).isNone
  | some (.bqpush ..) => 8 ≤ c.bq.length
  | _ => c.fenced r

/-- The value of a `bqpush` is fixed at the end of the last issue cycle (R166). -/
def latchRow (s : State) (core r : Nat) : State :=
  let back := s.cur
  match (s.core core).control r with
  | some (.bqpush pe x) =>
    let s := latchBq { s with cur := { m := core, t := 0, row := r } } pe x
    { s with cur := back }
  | _ => s

/-! ## Mutual wait (11 R364, R365) -/

/-- The queues a thread waits on in `qpush`, `qpushi` or `qpop`, also when a freeze has stopped it there (12 R391); `bq` is number 16. -/
def threadWaits (s : State) (k : Nat) : Option Nat :=
  let th := s.thr k
  let c := s.core (k / 8)
  match th.held.orElse (fun _ => th.stopIn) with
  | some (.qpush _ _ q) | some (.qpushi _ _ q) => if (c.queue q.toNat).isFull then some q.toNat else none
  | some (.qpop _ _ q) => if ((c.queue q.toNat).head s.cyc).isNone then some q.toNat else none
  | some (.bqpop _) => if (c.bqHead s.cyc).isNone then some 16 else none
  | _ => none

/-- The queues a row itself waits on. -/
def rowWaits (s : State) (core r : Nat) (j : Judged) : List Nat :=
  let c := s.core core
  if c.finished r then
    if controlWaits s c r then
      match c.control r with
      | some (.brTok q _ _) => [q.toNat]
      | some (.bqpush ..) => [16]
      | _ => []
    else []
  else ((j.short.map (fun e => (e.1, e.2.1)) ++ j.full).filter (fun e => e.1 == r)).map (·.2)

/-- A row that waits for the matrix array. -/
def Core.arrayHolds (c : Core) (r : Nat) : Bool := (c.matrixOp r).isSome && (!(c.row r).taken || c.fenced r)

/-- A row held by nothing but its sync group. -/
def groupHolds (s : State) (core r : Nat) : Bool :=
  let c := s.core core
  let g := c.members
  c.joining r ||
    (g.contains r && g.length != 1 && !(c.arrayHolds r) &&
      g.any (fun x => x != r && (rowWaits s core x (judge s core g) != [] || c.arrayHolds x)))

/-- Queues on which row `r` waits; none where it is not held by a queue or its group. -/
def rowHeld (s : State) (core r : Nat) : Option (List Nat) :=
  let c := s.core core
  let u := if c.members.contains r then c.members else [r]
  let w := if c.joining r then [] else rowWaits s core r (judge s core u)
  if w != [] then some w else if groupHolds s core r then some [] else none

/-- Condition M (R364); a parked thread counts as held (13 R402). -/
def mutualWait (s : State) (core : Nat) : Bool :=
  let c := s.core core
  let id := c.home
  let home := (List.range 4).map (fun t => thrKey core t)
  id != 0 && ((s.taskOf id).life == .live || (s.taskOf id).life == .draining) && !c.arrayFrozen &&
    home.all (fun k =>
      let th := s.thr k
      th.life == .idle || th.life == .ended || th.parked.isSome ||
        (th.waiting == [] && ((threadWaits s k).isSome || (th.life == .exiting && k == anchorKey core)))) &&
    c.running != [] && c.running.all (fun r => (rowHeld s core r).isSome) &&
    (List.range 8).all (fun u => !(c.stream u).busy) &&
    c.graphs.all (fun g => g.2.units.all (fun u => u.1 / 16 != 5)) &&
    s.chains.all (fun e =>
      !((e.2.slid + e.2.desc.srole == id && e.2.flight != []) ||
        (e.2.desc.dpkg == 0xFF && e.2.desc.dlid + e.2.desc.drole == id && e.2.flight != []))) &&
    s.spills.all (fun e => e.2 == [] ||
      (e.1 / 16 != id && s.chains.all (fun x =>
        !(x.2.slid + x.2.desc.srole == id && x.2.desc.dpkg == 0xFF && spillKey (x.2.desc.dlid + x.2.desc.drole) x.2.desc.dq == e.1)))) &&
    c.queues.all (fun e => e.2.entries.all (fun x => x.ready ≤ s.cyc)) && c.bq.all (fun e => e.1 ≤ s.cyc)

/-- The word of R365. -/
def mutualWord (s : State) (core : Nat) : Word :=
  let thr := (List.range 4).map (fun t => threadWaits s (thrKey core t))
  let rows := (List.range 4).map (fun r =>
    if (s.core core).running.contains r then (rowHeld s core r).getD [] else [])
  let qs := thr.filterMap id ++ rows.flatten
  let mask (l : List Bool) : Nat := (l.zip (List.range l.length)).foldl (fun n e => if e.1 then n + 2 ^ e.2 else n) 0
  word (mask (thr.map (·.isSome)) * 2 ^ 24 + mask (rows.map (· != [])) * 2 ^ 20 +
    (if qs.contains 16 then 2 ^ 16 else 0) + mask ((List.range 16).map qs.contains))

/-- DECOUPLE_DEADLOCK: M is looked at in this cycle; when it has held for 4,096 cycles the anchor gets the fault. -/
def execDecoupleDeadlock (s : State) : Out :=
  .next (let m := s.cur.m
    let c := s.core m
    let since (n : Nat) (s : State) : State := s.modCore m (fun c => { c with mutualSince := n })
    if !(mutualWait s m) then since 0 s
    else if c.mutualSince = 0 then since (s.cyc + 1) s
    else if c.mutualSince + 4095 = s.cyc + 1 then
      let w := mutualWord s m
      s.raise (anchorKey m) (mkFault s (anchorKey m) 0x0C 8 w w (.monitor m))
    else s)

/-! ## Engine FIFOs (08 R239) -/

/-- ENGINE_FIFO_PLACE_FREES: the command in which the acting thread is held is pushed, when it can be; it reads its registers again (13
R429). -/
def execEngineFifoPlaceFrees (s : State) : Out :=
  .next (match s.me.held with
    | some (.copy d a b c e) => s.reading (copyRegs 0 d a b c) (retryCopy s 0 d a b c 0 e)
    | some (.copy2 d a b c e) => s.reading (copyRegs 1 d a b c) (retryCopy s 1 d a b c 0 e)
    | some (.copyr d a b c ring e) => s.reading (copyRegs 2 d a b c) (retryCopy s 2 d a b c ring e)
    | some (.copyrg d a b c ring e) => s.reading (copyRegs 3 d a b c) (retryCopy s 3 d a b c ring e)
    | some (.sbase st a) => s.reading [a] (sbase st a s)
    | some (.sdim st dim a b) => s.reading [a, b] (sdim st dim a b s)
    | some (.sgoLd st q sz sc) => sgo (.sgoLd st q sz sc) st q sz sc false s
    | some (.sgoSt st q sz sc) => sgo (.sgoSt st q sz sc) st q sz sc true s
    | some (.nsend d a sc) => s.reading ((List.range 8).map (regPlus a)) (nsend d a sc s)
    | _ => s)

end Sys2Proof.Machine
end

