-- ==== Sys2Proof/Machine/Dispatch.lean ====
section
/-! DEFINITION. One arm per constructor of Instr: the call of its meaning. -/

namespace Sys2Proof.Machine

def exec (i : Instr) (s : State) : Host.Outcome State Fault Refusal :=
  match i with
  | .add d a b => Sys2Proof.Machine.execAdd d a b s
  | .sub d a b => Sys2Proof.Machine.execSub d a b s
  | .addw d a b => Sys2Proof.Machine.execAddw d a b s
  | .subw d a b => Sys2Proof.Machine.execSubw d a b s
  | .and d a b => Sys2Proof.Machine.execAnd d a b s
  | .or d a b => Sys2Proof.Machine.execOr d a b s
  | .xor d a b => Sys2Proof.Machine.execXor d a b s
  | .andn d a b => Sys2Proof.Machine.execAndn d a b s
  | .orn d a b => Sys2Proof.Machine.execOrn d a b s
  | .xnor d a b => Sys2Proof.Machine.execXnor d a b s
  | .sll d a b => Sys2Proof.Machine.execSll d a b s
  | .srl d a b => Sys2Proof.Machine.execSrl d a b s
  | .sra d a b => Sys2Proof.Machine.execSra d a b s
  | .rol d a b => Sys2Proof.Machine.execRol d a b s
  | .ror d a b => Sys2Proof.Machine.execRor d a b s
  | .mul d a b => Sys2Proof.Machine.execMul d a b s
  | .mulh d a b => Sys2Proof.Machine.execMulh d a b s
  | .mulhu d a b => Sys2Proof.Machine.execMulhu d a b s
  | .mulhsu d a b => Sys2Proof.Machine.execMulhsu d a b s
  | .mulw d a b => Sys2Proof.Machine.execMulw d a b s
  | .madd d a b c => Sys2Proof.Machine.execMadd d a b c s
  | .div d a b => Sys2Proof.Machine.execDiv d a b s
  | .divu d a b => Sys2Proof.Machine.execDivu d a b s
  | .rem d a b => Sys2Proof.Machine.execRem d a b s
  | .remu d a b => Sys2Proof.Machine.execRemu d a b s
  | .min d a b => Sys2Proof.Machine.execMin d a b s
  | .max d a b => Sys2Proof.Machine.execMax d a b s
  | .minu d a b => Sys2Proof.Machine.execMinu d a b s
  | .maxu d a b => Sys2Proof.Machine.execMaxu d a b s
  | .slt d a b => Sys2Proof.Machine.execSlt d a b s
  | .sltu d a b => Sys2Proof.Machine.execSltu d a b s
  | .seq d a b => Sys2Proof.Machine.execSeq d a b s
  | .sne d a b => Sys2Proof.Machine.execSne d a b s
  | .sel d a b c => Sys2Proof.Machine.execSel d a b c s
  | .clz d a => Sys2Proof.Machine.execClz d a s
  | .ctz d a => Sys2Proof.Machine.execCtz d a s
  | .popc d a => Sys2Proof.Machine.execPopc d a s
  | .brev d a => Sys2Proof.Machine.execBrev d a s
  | .bswap d a => Sys2Proof.Machine.execBswap d a s
  | .bfx d a b c => Sys2Proof.Machine.execBfx d a b c s
  | .bfxu d a b c => Sys2Proof.Machine.execBfxu d a b c s
  | .bfi d a b c => Sys2Proof.Machine.execBfi d a b c s
  | .lea d a b shift disp => Sys2Proof.Machine.execLea d a b shift disp s
  | .addi d a imm => Sys2Proof.Machine.execAddi d a imm s
  | .addiw d a imm => Sys2Proof.Machine.execAddiw d a imm s
  | .andi d a imm => Sys2Proof.Machine.execAndi d a imm s
  | .ori d a imm => Sys2Proof.Machine.execOri d a imm s
  | .xori d a imm => Sys2Proof.Machine.execXori d a imm s
  | .slli d a imm => Sys2Proof.Machine.execSlli d a imm s
  | .srli d a imm => Sys2Proof.Machine.execSrli d a imm s
  | .srai d a imm => Sys2Proof.Machine.execSrai d a imm s
  | .slti d a imm => Sys2Proof.Machine.execSlti d a imm s
  | .sltiu d a imm => Sys2Proof.Machine.execSltiu d a imm s
  | .li d imm => Sys2Proof.Machine.execLi d imm s
  | .lih d a imm => Sys2Proof.Machine.execLih d a imm s
  | .muli d a imm => Sys2Proof.Machine.execMuli d a imm s
  | .bfxi d a imm => Sys2Proof.Machine.execBfxi d a imm s
  | .bfxui d a imm => Sys2Proof.Machine.execBfxui d a imm s
  | .bfii d a imm => Sys2Proof.Machine.execBfii d a imm s
  | .beq a b disp => Sys2Proof.Machine.execBeq a b disp s
  | .bne a b disp => Sys2Proof.Machine.execBne a b disp s
  | .blt a b disp => Sys2Proof.Machine.execBlt a b disp s
  | .bge a b disp => Sys2Proof.Machine.execBge a b disp s
  | .bltu a b disp => Sys2Proof.Machine.execBltu a b disp s
  | .bgeu a b disp => Sys2Proof.Machine.execBgeu a b disp s
  | .j disp => Sys2Proof.Machine.execJ disp s
  | .jal d disp => Sys2Proof.Machine.execJal d disp s
  | .jalr d a imm => Sys2Proof.Machine.execJalr d a imm s
  | .loop a disp => Sys2Proof.Machine.execLoop a disp s
  | .ld d a m off => Sys2Proof.Machine.execLd d a m off s
  | .st d a m off => Sys2Proof.Machine.execSt d a m off s
  | .pf a sc hint off => Sys2Proof.Machine.execPf a sc hint off s
  | .cwb a sc off => Sys2Proof.Machine.execCwb a sc off s
  | .cinv a sc off => Sys2Proof.Machine.execCinv a sc off s
  | .fence ord sc => Sys2Proof.Machine.execFence ord sc s
  | .aadd d a b m off => Sys2Proof.Machine.execAadd d a b m off s
  | .aand d a b m off => Sys2Proof.Machine.execAand d a b m off s
  | .aor d a b m off => Sys2Proof.Machine.execAor d a b m off s
  | .axor d a b m off => Sys2Proof.Machine.execAxor d a b m off s
  | .amin d a b m off => Sys2Proof.Machine.execAmin d a b m off s
  | .amax d a b m off => Sys2Proof.Machine.execAmax d a b m off s
  | .aminu d a b m off => Sys2Proof.Machine.execAminu d a b m off s
  | .amaxu d a b m off => Sys2Proof.Machine.execAmaxu d a b m off s
  | .aswap d a b m off => Sys2Proof.Machine.execAswap d a b m off s
  | .acas d a b c m off => Sys2Proof.Machine.execAcas d a b c m off s
  | .afadd d a b m off => Sys2Proof.Machine.execAfadd d a b m off s
  | .qpush a kind q => Sys2Proof.Machine.execQpush a kind q s
  | .qpushi imm kind q => Sys2Proof.Machine.execQpushi imm kind q s
  | .qpop d b q => Sys2Proof.Machine.execQpop d b q s
  | .qtry d b c q => Sys2Proof.Machine.execQtry d b c q s
  | .bqpop d => Sys2Proof.Machine.execBqpop d s
  | .bqtry d c => Sys2Proof.Machine.execBqtry d c s
  | .qstat d q => Sys2Proof.Machine.execQstat d q s
  | .waita d a b dword cond => Sys2Proof.Machine.execWaita d a b dword cond s
  | .bar a b sc => Sys2Proof.Machine.execBar a b sc s
  | .evwait d => Sys2Proof.Machine.execEvwait d s
  | .evpost a b c => Sys2Proof.Machine.execEvpost a b c s
  | .eventArrival src => Sys2Proof.Machine.execEventArrival src s
  | .copy d a b c e => Sys2Proof.Machine.execCopy d a b c e s
  | .copy2 d a b c e => Sys2Proof.Machine.execCopy2 d a b c e s
  | .copyr d a b c ring e => Sys2Proof.Machine.execCopyr d a b c ring e s
  | .copyrg d a b c ring e => Sys2Proof.Machine.execCopyrg d a b c ring e s
  | .twait k => Sys2Proof.Machine.execTwait k s
  | .tquery d k => Sys2Proof.Machine.execTquery d k s
  | .tqueryCrc d k => Sys2Proof.Machine.execTqueryCrc d k s
  | .copyChunk m id k => Sys2Proof.Machine.execCopyChunk m id k s
  | .copyFaultTimeout m id => Sys2Proof.Machine.execCopyFaultTimeout m id s
  | .sbase st a => Sys2Proof.Machine.execSbase st a s
  | .sdim st dim a b => Sys2Proof.Machine.execSdim st dim a b s
  | .sgoLd st q sz sc => Sys2Proof.Machine.execSgoLd st q sz sc s
  | .sgoSt st q sz sc => Sys2Proof.Machine.execSgoSt st q sz sc s
  | .sstop st => Sys2Proof.Machine.execSstop st s
  | .sresume st => Sys2Proof.Machine.execSresume st s
  | .sbar mask => Sys2Proof.Machine.execSbar mask s
  | .streamElement core u => Sys2Proof.Machine.execStreamElement core u s
  | .streamFaultTimeout core u => Sys2Proof.Machine.execStreamFaultTimeout core u s
  | .alloc d a b => Sys2Proof.Machine.execAlloc d a b s
  | .free a => Sys2Proof.Machine.execFree a s
  | .freeD a => Sys2Proof.Machine.execFreeD a s
  | .nsend d a sc => Sys2Proof.Machine.execNsend d a sc s
  | .nrecv d a => Sys2Proof.Machine.execNrecv d a s
  | .ssubmit d a b sc => Sys2Proof.Machine.execSsubmit d a b sc s
  | .packetSend msg pkt port => Sys2Proof.Machine.execPacketSend msg pkt port s
  | .packetTimeout msg pkt => Sys2Proof.Machine.execPacketTimeout msg pkt s
  | .refusedForNowRetry msg => Sys2Proof.Machine.execRefusedForNowRetry msg s
  | .fnode d a b c utype unit => Sys2Proof.Machine.execFnode d a b c utype unit s
  | .fedge e => Sys2Proof.Machine.execFedge e s
  | .fgo d gid => Sys2Proof.Machine.execFgo d gid s
  | .fwait d gid => Sys2Proof.Machine.execFwait d gid s
  | .fkill gid => Sys2Proof.Machine.execFkill gid s
  | .fresume gid => Sys2Proof.Machine.execFresume gid s
  | .scannerDecision core u => Sys2Proof.Machine.execScannerDecision core u s
  | .sieveDecision core u => Sys2Proof.Machine.execSieveDecision core u s
  | .whiskDecision core u => Sys2Proof.Machine.execWhiskDecision core u s
  | .repeaterDecision core u => Sys2Proof.Machine.execRepeaterDecision core u s
  | .gatherDecision core u => Sys2Proof.Machine.execGatherDecision core u s
  | .gatherRow core u => Sys2Proof.Machine.execGatherRow core u s
  | .fibreFaultTimeout core gid => Sys2Proof.Machine.execFibreFaultTimeout core gid s
  | .graphSkew core gid => Sys2Proof.Machine.execGraphSkew core gid s
  | .graphStall core gid => Sys2Proof.Machine.execGraphStall core gid s
  | .launch d a => Sys2Proof.Machine.execLaunch d a s
  | .cancelTask a => Sys2Proof.Machine.execCancelTask a s
  | .cancelLaunch a => Sys2Proof.Machine.execCancelLaunch a s
  | .cancelGraph a => Sys2Proof.Machine.execCancelGraph a s
  | .cancelJob a => Sys2Proof.Machine.execCancelJob a s
  | .spawn d a => Sys2Proof.Machine.execSpawn d a s
  | .effectiveClassAging lid => Sys2Proof.Machine.execEffectiveClassAging lid s
  | .exitDrainComplete task => Sys2Proof.Machine.execExitDrainComplete task s
  | .chainSend id => Sys2Proof.Machine.execChainSend id s
  | .chainArrival x => Sys2Proof.Machine.execChainArrival x s
  | .chainResend id => Sys2Proof.Machine.execChainResend id s
  | .spillRingDrain core q => Sys2Proof.Machine.execSpillRingDrain core q s
  | .syscall a imm => Sys2Proof.Machine.execSyscall a imm s
  | .trap imm => Sys2Proof.Machine.execTrap imm s
  | .getcw d cw => Sys2Proof.Machine.execGetcw d cw s
  | .setcw cw a => Sys2Proof.Machine.execSetcw cw a s
  | .cyc d => Sys2Proof.Machine.execCyc d s
  | .faultEntryWrite calls => Sys2Proof.Machine.execFaultEntryWrite calls s
  | .remoteGiveUp id => Sys2Proof.Machine.execRemoteGiveUp id s
  | .hubWorkTimeout id => Sys2Proof.Machine.execHubWorkTimeout id s
  | .tlbinvPage d a b => Sys2Proof.Machine.execTlbinvPage d a b s
  | .tlbinvRange d a b c => Sys2Proof.Machine.execTlbinvRange d a b c s
  | .tlbinvJob d a => Sys2Proof.Machine.execTlbinvJob d a s
  | .tlbinvAll d => Sys2Proof.Machine.execTlbinvAll d s
  | .acctab d a b c => Sys2Proof.Machine.execAcctab d a b c s
  | .freeze d a => Sys2Proof.Machine.execFreeze d a s
  | .thaw d a => Sys2Proof.Machine.execThaw d a s
  | .migrate d a b c => Sys2Proof.Machine.execMigrate d a b c s
  | .preempt d a b => Sys2Proof.Machine.execPreempt d a b s
  | .preemptSaveComplete task => Sys2Proof.Machine.execPreemptSaveComplete task s
  | .resumeTask d a => Sys2Proof.Machine.execResumeTask d a s
  | .resumeRetry d a => Sys2Proof.Machine.execResumeRetry d a s
  | .resumeDeliver d a => Sys2Proof.Machine.execResumeDeliver d a s
  | .resumeKill d a => Sys2Proof.Machine.execResumeKill d a s
  | .fadd f => Sys2Proof.Machine.execFadd f s
  | .fsub f => Sys2Proof.Machine.execFsub f s
  | .fmul f => Sys2Proof.Machine.execFmul f s
  | .ffma f => Sys2Proof.Machine.execFfma f s
  | .ffms f => Sys2Proof.Machine.execFfms f s
  | .fnfma f => Sys2Proof.Machine.execFnfma f s
  | .fmin f => Sys2Proof.Machine.execFmin f s
  | .fmax f => Sys2Proof.Machine.execFmax f s
  | .fabs f => Sys2Proof.Machine.execFabs f s
  | .fneg f => Sys2Proof.Machine.execFneg f s
  | .fceq f => Sys2Proof.Machine.execFceq f s
  | .fclt f => Sys2Proof.Machine.execFclt f s
  | .fcle f => Sys2Proof.Machine.execFcle f s
  | .frcp f => Sys2Proof.Machine.execFrcp f s
  | .frsq f => Sys2Proof.Machine.execFrsq f s
  | .fexp2 f => Sys2Proof.Machine.execFexp2 f s
  | .flog2 f => Sys2Proof.Machine.execFlog2 f s
  | .iadd f => Sys2Proof.Machine.execIadd f s
  | .isub f => Sys2Proof.Machine.execIsub f s
  | .imul f => Sys2Proof.Machine.execImul f s
  | .imulh f => Sys2Proof.Machine.execImulh f s
  | .iand f => Sys2Proof.Machine.execIand f s
  | .ior f => Sys2Proof.Machine.execIor f s
  | .ixor f => Sys2Proof.Machine.execIxor f s
  | .ishl f => Sys2Proof.Machine.execIshl f s
  | .ishr f => Sys2Proof.Machine.execIshr f s
  | .isra f => Sys2Proof.Machine.execIsra f s
  | .imin f => Sys2Proof.Machine.execImin f s
  | .imax f => Sys2Proof.Machine.execImax f s
  | .iceq f => Sys2Proof.Machine.execIceq f s
  | .iclt f => Sys2Proof.Machine.execIclt f s
  | .iabs f => Sys2Proof.Machine.execIabs f s
  | .iaddsat f => Sys2Proof.Machine.execIaddsat f s
  | .cvt f => Sys2Proof.Machine.execCvt f s
  | .cvtSat f => Sys2Proof.Machine.execCvtSat f s
  | .pk8 f => Sys2Proof.Machine.execPk8 f s
  | .upk8 f => Sys2Proof.Machine.execUpk8 f s
  | .bscale f => Sys2Proof.Machine.execBscale f s
  | .mov f => Sys2Proof.Machine.execMov f s
  | .lshuf f => Sys2Proof.Machine.execLshuf f s
  | .lbcast f => Sys2Proof.Machine.execLbcast f s
  | .lrot f => Sys2Proof.Machine.execLrot f s
  | .redadd f => Sys2Proof.Machine.execRedadd f s
  | .redmax f => Sys2Proof.Machine.execRedmax f s
  | .redmin f => Sys2Proof.Machine.execRedmin f s
  | .peSel f => Sys2Proof.Machine.execPeSel f s
  | .accs f => Sys2Proof.Machine.execAccs f s
  | .qdrop f => Sys2Proof.Machine.execQdrop f s
  | .tkind f => Sys2Proof.Machine.execTkind f s
  | .jmp target => Sys2Proof.Machine.execJmp target s
  | .brTok q kind target => Sys2Proof.Machine.execBrTok q kind target s
  | .loopRow l count => Sys2Proof.Machine.execLoopRow l count s
  | .endloop l target => Sys2Proof.Machine.execEndloop l target s
  | .bqpush pe sr => Sys2Proof.Machine.execBqpush pe sr s
  | .peResultLands core pe => Sys2Proof.Machine.execPeResultLands core pe s
  | .mma f => Sys2Proof.Machine.execMma f s
  | .mzero f => Sys2Proof.Machine.execMzero f s
  | .mload f => Sys2Proof.Machine.execMload f s
  | .mdrain f => Sys2Proof.Machine.execMdrain f s
  | .simmer f => Sys2Proof.Machine.execSimmer f s
  | .blockedPushTakesEffect => Sys2Proof.Machine.execBlockedPushTakesEffect s
  | .blockedPopTakesEffect => Sys2Proof.Machine.execBlockedPopTakesEffect s
  | .waitaReread => Sys2Proof.Machine.execWaitaReread s
  | .engineFifoPlaceFrees => Sys2Proof.Machine.execEngineFifoPlaceFrees s
  | .cpeSlotPublish => Sys2Proof.Machine.execCpeSlotPublish s
  | .exit => Sys2Proof.Machine.execExit s
  | .exitAbort => Sys2Proof.Machine.execExitAbort s
  | .yield => Sys2Proof.Machine.execYield s
  | .yieldWindowEnd => Sys2Proof.Machine.execYieldWindowEnd s
  | .placementRound => Sys2Proof.Machine.execPlacementRound s
  | .launchReservation => Sys2Proof.Machine.execLaunchReservation s
  | .threadExitComplete => Sys2Proof.Machine.execThreadExitComplete s
  | .threadOverdue => Sys2Proof.Machine.execThreadOverdue s
  | .decoupleDeadlock => Sys2Proof.Machine.execDecoupleDeadlock s
  | .savepoolReread => Sys2Proof.Machine.execSavepoolReread s
  | .rte => Sys2Proof.Machine.execRte s
  | .nop => Sys2Proof.Machine.execNop s
  | .halt => Sys2Proof.Machine.execHalt s
  | .endRow => Sys2Proof.Machine.execEndRow s
  | .simstop => Sys2Proof.Machine.execSimstop s
  | .mstat => Sys2Proof.Machine.execMstat s
  | .mfence => Sys2Proof.Machine.execMfence s
  | .matrixCommandAccept => Sys2Proof.Machine.execMatrixCommandAccept s
  | .mmaPairStart => Sys2Proof.Machine.execMmaPairStart s
  | .mmaPairEnd => Sys2Proof.Machine.execMmaPairEnd s
  | .mmaComplete => Sys2Proof.Machine.execMmaComplete s
  | .mzeroComplete => Sys2Proof.Machine.execMzeroComplete s
  | .mloadComplete => Sys2Proof.Machine.execMloadComplete s
  | .mdrainComplete => Sys2Proof.Machine.execMdrainComplete s
  | .simmerAttempt => Sys2Proof.Machine.execSimmerAttempt s
  | .beatEnd => Sys2Proof.Machine.execBeatEnd s
  | .simmerDrainPublish => Sys2Proof.Machine.execSimmerDrainPublish s
  | .fwGo => Sys2Proof.Machine.execFwGo s
  | .fwDrained => Sys2Proof.Machine.execFwDrained s
  | .fwDrainTimeout => Sys2Proof.Machine.execFwDrainTimeout s
  | .scrub => Sys2Proof.Machine.execScrub s
  | .getStatus => Sys2Proof.Machine.execGetStatus s
  | .reset => Sys2Proof.Machine.execReset s
  | .correctedError => Sys2Proof.Machine.execCorrectedError s
  | .vauxPowerUp => Sys2Proof.Machine.execVauxPowerUp s
  | .packetArrival p => Sys2Proof.Machine.execPacketArrival p s
  | .ackReceived k => Sys2Proof.Machine.execAckReceived k s
  | .remoteAccessCompletion id data => Sys2Proof.Machine.execRemoteAccessCompletion id data s
  | .remoteKeepWaiting id => Sys2Proof.Machine.execRemoteKeepWaiting id s
  | .remoteCancelReply id performed => Sys2Proof.Machine.execRemoteCancelReply id performed s
  | .pertorRequestIn pkg r => Sys2Proof.Machine.execPertorRequestIn pkg r s
  | .hostMemoryRequest master r => Sys2Proof.Machine.execHostMemoryRequest master r s
  | .hostLaunch port lctl => Sys2Proof.Machine.execHostLaunch port lctl s
  | .fwVerifyDone image => Sys2Proof.Machine.execFwVerifyDone image s
  | .uncorrectableError site => Sys2Proof.Machine.execUncorrectableError site s
  | .packageReset r => Sys2Proof.Machine.execPackageReset r s
  | .thermalTrip sensor => Sys2Proof.Machine.execThermalTrip sensor s
  | .powerAverage avg10 avg1 => Sys2Proof.Machine.execPowerAverage avg10 avg1 s
  | .agingMonitorStep die up => Sys2Proof.Machine.execAgingMonitorStep die up s
  | .vctlWrite die v => Sys2Proof.Machine.execVctlWrite die v s
  | .registerWrite src off v => Sys2Proof.Machine.execRegisterWrite src off v s
  | .getLog off len => Sys2Proof.Machine.execGetLog off len s
  | .attest nonce => Sys2Proof.Machine.execAttest nonce s
  | .readReg off => Sys2Proof.Machine.execReadReg off s
  | .writeReg off v => Sys2Proof.Machine.execWriteReg off v s
  | .unsupportedCommand code => Sys2Proof.Machine.execUnsupportedCommand code s
  | .hostRecall pa => Sys2Proof.Machine.execHostRecall pa s

end Sys2Proof.Machine
end

