-- ==== Sys2Proof/Machine/Plan.lean ====
section
/-! DEFINITION. What happens in a cycle, and in which order: the issue of a thread with its fetch, a unit of rows, the
issue order of threads (11 R357 to R361), and the moves of every other unit. Where the spec bounds a latency without fixing
it, or leaves a rate or an order open, Config chooses (assumption log 1). -/

namespace Sys2Proof.Machine

/-- The state of an outcome; none of the meanings stops. -/
def outState (s : State) : Out → State
  | .next s' => s'
  | .fault _ => s
  | .refused _ => s

/-! ## Which units run -/

/-- A thread that can issue now (R357). -/
def State.runnable (s : State) (k : Nat) : Bool :=
  let th := s.thr k
  th.life == .running && th.held.isNone && th.parked.isNone && th.remote.isNone && th.busyTo ≤ s.cyc && s.threadActs k

/-! ## Fetch and issue of a thread (02 R44, R59; 04 R133) -/

/-- The service cores' code store (10 R330). -/
def inService (pc : Word) : Bool := serviceBase ≤ pc.toNat && pc.toNat + 8 ≤ serviceBase + 0x4000000

/-- The dword at the pc, in a state whose translation it has marked; the scratchpad aperture holds no instructions (01 R30). -/
def State.fetch (s : State) (k : State → Word → Out) : Out :=
  let th := s.me
  let pc := th.pc
  match th.fetched with
  | some w => k (s.modMe (fun th => { th with fetched := none })) w
  | none =>
    let ag : Agent := if th.svc then { s.agent with phys := true } else s.agent
    if (if th.svc then !(inService pc) else inAperture pc.toNat) then .next (s.trap 0x06 pc)
    else
      match checkAccess s ag pc 8 needFetch false with
      | .error (.trap c _) => .next (s.trap c pc)
      | .error (.denied t u) => .next (s.deny ag.master t u true false)
      | .ok acc =>
        if acc.poisoned s false then .next (s.trap 0x09 pc)
        else if acc.far.isSome then .next (s.sendRemote ag needFetch acc pc (.read 0 8) .fetch)
        else k (commitAccess s ag needFetch acc) (word (s.valueSeen acc.locs))

/-- The part of a cycle in which `tquery` reads its token, after the copy engines (08 R278), and a helper reaches control words, after its
task's home threads (01 R21, 04 R122). -/
def latePhase : Nat := 8

/-- A `resume` that names an entry acts after every fault of its cycle, which merges first (13 R436). -/
def actsLast : Instr → Bool
  | .resumeRetry .. | .resumeDeliver .. | .resumeKill .. => true
  | _ => false

def State.defers (s : State) : Instr → Bool
  | .tquery .. | .tqueryCrc .. | .resumeRetry .. | .resumeDeliver .. | .resumeKill .. => true
  | .getcw .. | .setcw .. => s.me.helper
  | _ => false

/-- R44 for a fetched dword, then the instruction. -/
def issueWord (s : State) (w : Word) : Out :=
  if w.toNat / 2 ^ 56 = 0x90 ∧ !s.me.svc then .next (s.trap PRIV 0)
  else
    match decode w with
    | .error _ => .next (s.trap ILLOP 0)
    | .ok i =>
      if s.defers i && s.agenda.contains (.phase latePhase) then .next { s with late := s.late ++ [(s.curKey, i)] }
      else exec i s

/-- Thread `t` of master `m` issues, unless something has stopped it since it was picked. -/
def issueThread (m t : Nat) (s : State) : Out :=
  let s : State := { s with cur := { m := m, t := t } }
  if s.runnable s.curKey then s.fetch issueWord else .next s

/-! ## Units of rows (05 R138 to R148, R167 to R169) -/

/-- The slots of the issue cycle execute, in the order row, slot. -/
def issueSlots (core : Nat) (peek : Tab QEntry) : List SlotOp → State → State
  | [], s => s
  | o :: l, s =>
    let s : State := { s with cur := { m := core, t := 0, row := o.row, pe := o.slot, rep := o.rep, peek } }
    issueSlots core peek l (outState s (exec o.op s))

/-- An occupying command of row `r` that the array has not taken. -/
def Core.occupying (c : Core) (r : Nat) : Bool := !(c.row r).taken && ((c.matrixOp r).bind commandOf).isSome

/-- A lower-numbered row, by itself and later in the order of units than `r`'s sync group, hands over an occupying command in this cycle
(06 R204). -/
def lowerHands (s : State) (core r : Nat) (unit : List Nat) : Bool :=
  let c := s.core core
  (List.range r).any (fun x =>
    !(unit.contains x) && unit.any (· < x) && (c.row x).run == .running && c.occupying x && (breach s core x).isNone && !(c.joining x))

/-- Row `r` hands its command over: the array takes it, or it waits (06 R180). -/
def offer (core r : Nat) (unit : List Nat) (s : State) : State :=
  let c := s.core core
  match c.matrixOp r with
  | none => s
  | some i =>
    if (c.row r).taken then s
    else if c.occupying r && lowerHands s core r unit then s.modCore core (fun c => c.setRow r { c.row r with handed := true })
    else
      let s : State := { s with cur := { m := core, t := 0, row := r } }
      outState s (exec (if (c.row r).handed && c.matrix.accepts then .matrixCommandAccept else i) s)

/-- A unit that holds hands no command over. -/
def unhand (core : Nat) (unit : List Nat) (s : State) : State :=
  unit.foldl (fun s r => s.modCore core (fun c => c.setRow r { c.row r with handed := false })) s

/-- Every slot of the unit issues, and the array takes its commands. -/
def issueAll (core : Nat) (unit : List Nat) (s : State) : State :=
  let ops := unit.flatMap (fun r => (s.core core).issuing r)
  let peek := unitHeads s core
  let s := unit.foldl (fun s r => offer core r unit s) s
  let s := unit.foldl (fun s r => issueTaken s core r) (issueSlots core peek ops s)
  (unit.filter (fun r => (s.core core).finished r)).foldl (fun s r => latchRow s core r) s

/-- An issue cycle of a unit without a breach: all or nothing, its matrix command included (05 R139, R140). -/
def issueUnit (core : Nat) (unit : List Nat) (s : State) : State :=
  let c := s.core core
  let j := judge s core unit
  if unit.all c.finished then s
  else if j.holds then unhand core unit (j.short.foldl (fun s e => waitEmpty s core e.1 e.2.1 e.2.2) s)
  else if j.faults != [] then unhand core unit (faultUnit s core j)
  else
    match unit.filter c.occupying with
    | [] => issueAll core unit s
    | r :: others =>
      if others == [] && c.matrix.accepts && !(lowerHands s core r unit) then issueAll core unit s else offer core r unit s

/-- A unit of rows in a cycle: an END bundle stops its row, a breach freezes the array, a row that waits to join its group
issues nothing. -/
def runUnit (core : Nat) (unit : List Nat) (s : State) : Out :=
  let s := s.modCore core (fun c => if unit.any c.isSync && c.group == [] then { c with group := unit } else c)
  match unit with
  | [] => .next s
  | r :: rest =>
    if (s.core core).form r == some .theEnd then
      exec .endRow { s with cur := { m := core, t := 0, row := r } }
    else
      match (r :: rest).findSome? (fun r => (breach s core r).map (fun n => (r, n))) with
      | some (r, slot) =>
        .next (s.modCore core (fun c => c.fault { row := r, cause := 0x13, slot, bundle := (c.row r).pc }))
      | none => .next (if (s.core core).joining r then s else issueUnit core (r :: rest) s)

/-! ## Row controls -/

/-- The control of row `r`, or its sequential advance; an `mfence` waits (06 R189). -/
def applyControl (core r : Nat) (s : State) : State :=
  let s : State := { s with cur := { m := core, t := 0, row := r } }
  match (s.core core).control r with
  | some i => outState s (exec i s)
  | none => if (s.core core).fenced r then s else s.nextBundle id

/-- Rows in ascending order, the group's when `goes`; none where a member finds no room after all. -/
def controlPass (core : Nat) (group : List Nat) (goes : Bool) : List Nat → State → Option State
  | [], s => some s
  | r :: l, s =>
    let c := s.core core
    if !(c.finished r) || (c.row r).run != .running || !(mayControl s c r) then controlPass core group goes l s
    else if group.contains r then
      if !goes then controlPass core group goes l s
      else if controlWaits s c r then none
      else controlPass core group goes l (applyControl core r s)
    else controlPass core group goes l (applyControl core r s)

/-- A member that waits for an entry counts its wait (05 R146, R164). -/
def groupWaits (core : Nat) (group : List Nat) (s : State) : State :=
  group.foldl (fun s r =>
    match (s.core core).control r with
    | some (.brTok q _ _) => if controlWaits s (s.core core) r then waitEmpty s core r q.toNat 4 else s
    | _ => s) s

/-- The rows of a group that are ready apply their controls together; the others each by itself. -/
def applyControls (core : Nat) (s : State) : State :=
  let c := s.core core
  let group := c.group.filter (fun r => (c.row r).run == .running)
  let apart (s : State) : State := (controlPass core group false (List.range 4) s).getD s
  if group != [] && group.all (fun r => c.finished r && mayControl s c r) then
    match controlPass core group true (List.range 4) s with
    | some s => s.modCore core (fun c => { c with group := [] })
    | none => apart (groupWaits core group s)
  else apart s

/-- The end of the issue cycles of a core's rows: the DONE gathers, in each issue cycle of a bundle that has popped a DONE (DESIGN CHOICE,
log 38; 03 R102), the row controls, the group boundary, the freeze. -/
def runControls (core : Nat) (s : State) : State :=
  let s := if (s.core core).doneRows s.cyc = [] then s else gatherPes s core
  freezeArray (applyControls core s) core

/-! ## The issue order of threads (R357 to R361) -/

/-- W (R358). -/
def weight (s : State) (k : Nat) : Nat :=
  let th := s.thr k
  if th.svc || !(bit th.watchq 4) then 1
  else
    let q := (s.core (s.taskOf th.task).core).queue (bits th.watchq 3 0)
    if !q.decl then 1 else if q.xa then 1 + q.occ s.cyc else 1 + (q.cap - q.occ s.cyc)

def levelOf (s : State) (k : Nat) : Nat := bits (s.thr k).prio 1 0

/-- The threads in cyclic order from `p`. -/
def cyclicFrom (p : Nat) (l : List Nat) : List Nat :=
  l.filter (fun t => p ≤ t) ++ l.filter (fun t => t < p)

def hasCredit (s : State) (m t : Nat) : Bool := 0 < (s.thr (thrKey m t)).credit

def refill (m : Nat) (cands : List Nat) (s : State) : State :=
  cands.foldl (fun s t => s.modThr (thrKey m t) (fun th =>
    { th with credit := min (th.credit + weight s (thrKey m t)) 128 })) s

def spend (m t : Nat) (s : State) : State := s.modThr (thrKey m t) (fun th => { th with credit := th.credit - 1 })

/-- Rule 2 of R359 at level `lv`. -/
def pickFirst (m lv : Nat) (cands : List Nat) (s : State) : Option (Nat × State) :=
  let s := if cands.any (hasCredit s m) then s else refill m cands s
  match (cyclicFrom (Tab.get 0 (s.core m).ptrs lv) cands).find? (hasCredit s m) with
  | none => none
  | some t =>
    let s := spend m t s
    let p := if hasCredit s m t then t else (t + 1) % 8
    some (t, s.modCore m (fun c => { c with ptrs := Tab.put c.ptrs lv p }))

/-- Rule 3: among the candidates but the first pick. -/
def pickSecond (m first : Nat) (cands : List Nat) (s : State) : Option (Nat × State) :=
  let others := cands.filter (· != first)
  let s := if others.any (hasCredit s m) then s else refill m cands s
  match (cyclicFrom ((first + 1) % 8) others).find? (hasCredit s m) with
  | none => none
  | some t => some (t, spend m t s)

/-- The candidates at the highest level. -/
def topLevel (s : State) (m : Nat) (pool : List Nat) : Nat × List Nat :=
  let lv := pool.foldl (fun n t => max n (levelOf s (thrKey m t))) 0
  (lv, pool.filter (fun t => levelOf s (thrKey m t) == lv))

/-- `n` ordinary picks (rules 2 to 4). -/
def ordinaryPicks (m n : Nat) (pool : List Nat) (s : State) : List Nat × State :=
  if n = 0 ∨ pool = [] then ([], s)
  else
    match topLevel s m pool with
    | (lv, cands) =>
      match pickFirst m lv cands s with
      | none => ([], s)
      | some (t, s) =>
        if n = 1 then ([t], s)
        else
          let second :=
            if cands.length = 1 then
              match topLevel s m (pool.filter (· != t)) with
              | (_, []) => none
              | (lv, cands) => pickFirst m lv cands s
            else pickSecond m t cands s
          match second with
          | none => ([t], s)
          | some (u, s) => ([t, u], s)

/-- Overdue threads in the order of rule 1. -/
def overdueOrder (s : State) (m : Nat) (l : List Nat) : List Nat :=
  l.foldl (fun acc t =>
    let w (x : Nat) : Nat := (s.thr (thrKey m x)).waited
    acc.takeWhile (fun x => w t ≤ w x) ++ [t] ++ acc.dropWhile (fun x => w t ≤ w x)) []

/-- The picks of a core in a cycle, and what they leave. -/
def corePicks (m : Nat) (s : State) : List Nat × State :=
  let ready := (List.range 8).filter (fun t => s.runnable (thrKey m t))
  let late := (overdueOrder s m (ready.filter (fun t => (s.thr (thrKey m t)).overdue))).take 2
  let s := late.foldl (fun s t => spend m t s) s
  let pool := (ready.filter (fun t => !(late.contains t))).filter (fun t =>
    (s.thr (thrKey m t)).yieldTo ≤ s.cyc || ready == [t])
  match ordinaryPicks m (2 - late.length) pool s with
  | (more, s) =>
    let picked := (List.range 8).filter (fun t => late.contains t || more.contains t)
    let s := (List.range 8).foldl (fun s t =>
      let k := thrKey m t
      match Tab.find s.threads k with
      | none => s
      | some th =>
        if picked.contains t || !(ready.contains t) then
          (if th.waited = 0 ∧ !th.overdue then s else s.setThr k { th with waited := 0, overdue := false })
        else s.setThr k { th with waited := th.waited + 1 }) s
    (picked, s)

/-! ## Held threads -/

/-- What tries a held instruction again. -/
def heldEvent : Instr → Instr
  | .qpush .. | .qpushi .. => .blockedPushTakesEffect
  | .qpop .. | .bqpop _ => .blockedPopTakesEffect
  | .waita .. | .bar .. => .waitaReread
  | .syscall .. => .savepoolReread
  | .copy .. | .copy2 .. | .copyr .. | .copyrg .. | .sbase .. | .sdim .. | .sgoLd .. | .sgoSt .. | .nsend .. =>
    .engineFifoPlaceFrees
  | i => i

/-! ## The matrix array in a cycle -/

/-- Completions that are due (06 R182 to R185). -/
def matrixEnds (cyc : Nat) (x : Matrix) : List Instr :=
  if x.state = 3 ∨ cyc < x.due then []
  else
    match x.phase with
    | .finishing => [.mmaComplete]
    | .zeroing => [.mzeroComplete]
    | .loading => [.mloadComplete]
    | _ => []

/-- Drains that are due (06 R186, R195), those that a fault waits for among them (R203). Their writes come last on their core (10 R340). -/
def drainEnds (cyc : Nat) (x : Matrix) : List Instr :=
  let head : Bool := match x.drains with | d :: _ => d.due ≤ cyc | [] => false
  if !head then []
  else if x.mop = 4 then [.simmerDrainPublish]
  else if x.phase = .draining ∧ x.state ≠ 3 then [.mdrainComplete]
  else []

/-- Pairs, beats, attempts and waits that are due; a task that saves itself only ends what is running. -/
def matrixBoundary (cyc : Nat) (saving : Bool) (x : Matrix) : List Instr :=
  if x.state = 3 ∨ cyc < x.due then []
  else
    match x.phase with
    | .pairRun => if x.mop = 4 then (if saving then [.beatEnd] else [.beatEnd, .simmerAttempt]) else [.mmaPairEnd]
    | .pairWait => if saving then [] else [.mmaPairStart]
    | .attempt => if saving then [] else [.simmerAttempt]
    | .drainPoint => if saving then [] else [.beatEnd, .simmerAttempt]
    | .loadWait => [.mloadComplete]
    | .drainWait => if saving then [] else [.mdrainComplete]
    | _ => []

/-! ## Inputs from outside (assumption log 1) -/

/-- What reaches the package from outside: the host, other packages, the fabric, the controller, sensors and errors. -/
def fromOutside : Instr → Bool
  | .packetArrival _ | .ackReceived _ | .remoteAccessCompletion .. | .remoteKeepWaiting _ | .remoteCancelReply ..
  | .pertorRequestIn .. | .hostMemoryRequest .. | .hostLaunch .. | .correctedError
  | .uncorrectableError _ | .thermalTrip _ | .powerAverage .. | .agingMonitorStep .. | .vctlWrite ..
  | .registerWrite .. | .hostRecall _ => true
  | .chainArrival x => x.fromHere.isNone
  | _ => false

/-- What the Jusural controller serves on VAUX alone (17 R464, R467, R469). -/
def atStandby : Instr → Bool
  | .getStatus | .getLog .. | .attest _ | .readReg _ | .writeReg .. | .reset | .unsupportedCommand _ | .packageReset _
  | .vauxPowerUp => true
  | _ => false

/-- The port of a host launch. -/
def launchPort : Instr → Option Nat
  | .hostLaunch port _ => some port
  | _ => none

/-- A command of the management interfaces (17 R469). -/
def isCommand : Instr → Bool
  | .getStatus | .getLog .. | .attest _ | .readReg _ | .writeReg .. | .reset | .unsupportedCommand _ => true
  | _ => false

/-- The place of an input among those of its cycle: the writes of registers; what comes through the hub; the requests of other packages, in
ascending package number (10 R340); the monitors and the errors, so that a bound written, or a count cleared, in their cycle comes before
them (17 R465, R471); what ends the run. -/
def inputRank : Instr → Nat
  | .writeReg .. | .registerWrite .. | .vctlWrite .. => 0
  | .pertorRequestIn pkg _ => 2 + pkg
  | .powerAverage .. | .agingMonitorStep .. | .correctedError | .uncorrectableError _ => 2 ^ 32
  | .thermalTrip _ | .packageReset _ | .vauxPowerUp => 2 ^ 32 + 1
  | i => if isCommand i then 0 else 1

/-- Insertion by a key, after what is there with the same key. -/
def insertBy {α : Type} (key : α → Nat) (x : α) (l : List α) : List α :=
  l.takeWhile (fun y => key y ≤ key x) ++ [x] ++ l.dropWhile (fun y => key y ≤ key x)
def orderBy {α : Type} (key : α → Nat) (l : List α) : List α := l.foldl (fun acc x => insertBy key x acc) []

/-- The package reset that follows a RESET: at some cycle within 10 ms (17 R469); without power the arithmetic clock does not measure
them. -/
def State.dueReset (s : State) : List Move :=
  match s.pkg.resetDue with
  | none => []
  | some (c, _) => if s.pkg.off || c + remoteLimit ≤ s.cyc || Config.moves s.tick 12 0 then [.packageReset] else []

/-- What acts in a cycle of what the outside gives it, host launches apart: an I3C request before one by PCIe (17 R469). -/
def State.outside (s : State) : List Instr :=
  (Config.sideband s.tick).filter isCommand ++ (Config.inputs s.tick).filter (fun i => atStandby i || (fromOutside i && !s.pkg.off))
def State.inputs (s : State) : List Instr :=
  orderBy inputRank (s.outside.filter (fun i => (launchPort i).isNone))

/-- The launches of one cycle, by host or by a write of LCTL, join by port number, after the other events of the cycle (11 R348); those of
RESET's cycle are dropped (17 R469). -/
def State.portLaunches (s : State) : List Instr :=
  if s.pkg.resetDue.any (fun e => e.2 == s.cyc) then []
  else
    (List.range 16).flatMap (fun p =>
      s.outside.filter (fun i => launchPort i == some p) ++
        (s.lctls.filter (fun e => e.1 == p)).map (fun e => .hostLaunch p e.2))

/-! ## The phases of a cycle -/

def events (core : Nat) (l : List Instr) : List Move := l.map (.event core 0)

/-- Cores with a home task that runs. -/
def State.homes (s : State) : List (Nat × Core) := s.cores.filter (fun e => e.2.home != 0 && s.taskRuns e.2.home)

/-- Results that land (05 R145). -/
def landings (s : State) : List Move :=
  s.cores.flatMap (fun e => e.2.pes.flatMap (fun p =>
    if p.2.flight.any (fun f => f.land ≤ s.cyc) then [.event e.1 0 (.peResultLands e.1 p.1)] else []))

/-- A core's home task runs, or saves itself. -/
def State.arrayRuns (s : State) (c : Core) : Bool := c.home != 0 && (s.taskRuns c.home || s.taskSaving c.home)

def arrayMoves (s : State) : List Move :=
  s.cores.flatMap (fun e => if s.arrayRuns e.2 then events e.1 (matrixEnds s.cyc e.2.matrix) else [])

def boundaryMoves (s : State) : List Move :=
  s.cores.flatMap (fun e =>
    if s.arrayRuns e.2 then events e.1 (matrixBoundary s.cyc (!(s.taskRuns e.2.home)) e.2.matrix) else [])

def rowMoves (s : State) : List Move :=
  s.homes.flatMap (fun e => if e.2.arrayFrozen || e.2.running == [] then [] else e.2.units.map (.rows e.1))

def controlMoves (s : State) : List Move :=
  (s.cores.filter (fun e => s.arrayRuns e.2 && e.2.running != [])).map (fun e => .controls e.1)

/-- Events that arrive in the cycle: an array's first, then by poster; one that waits for room arrives when there is some (07 R235). -/
def arrivals (s : State) : List Move :=
  let l := s.evFlight.filter (fun e => e.waiting || Config.moves s.tick 1 e.id)
  (l.filter (fun e => e.pslot == 100) ++ orderBy (·.pkey) (l.filter (fun e => e.pslot != 100))).map
    (fun e => .event 0 0 (.eventArrival e.id))

/-- A thread held in an instruction that is tried again in this cycle; when a `waita` reads again is left open (07 R233). -/
def State.triesAgain (s : State) (k : Nat) : Option Instr :=
  let th := s.thr k
  match th.held with
  | none => none
  | some i =>
    if th.life == .running && th.parked.isNone && th.remote.isNone && s.threadActs k &&
        (heldEvent i != .waitaReread || Config.moves s.tick 2 k) then some i else none

def isEvpost : Instr → Bool
  | .evpost .. => true
  | _ => false

/-- Blocked `evpost`s are tried again once the cycle's `evwait`s have made room (07 R236). -/
def postMoves (s : State) : List Move :=
  (orderBy id (s.threads.map (·.1))).filterMap (fun k =>
    match s.triesAgain k with
    | some i => if isEvpost i then some (.event (k / 8) (k % 8) i) else none
    | none => none)

/-- Threads that have executed `exit`, and tasks that drain (11 R353, R354). -/
def exitMoves (s : State) : List Move :=
  s.threads.filterMap (fun e =>
    if e.2.life == .exiting && !e.2.isAnchor && s.threadActs e.1 then some (.event (e.1 / 8) (e.1 % 8) .threadExitComplete)
    else none) ++
  s.tasks.filterMap (fun e => if e.2.life == .draining && !(s.frozen.contains e.2.core) then
    some (.event e.2.core 0 (.exitDrainComplete e.1)) else none)

/-- A thread whose task began to save itself in this cycle: a fault of the cycle still reaches it (13 R436). -/
def State.justStopped (s : State) (k : Nat) : Bool :=
  !(s.thr k).svc && !(s.frozen.contains (k / 8)) && (s.taskOf (s.thr k).task).saving.any (fun v => v.begun == s.cyc)

/-- Engine and array faults reach their threads at their boundaries, after the cycle's instructions (13 R401, 09 R307). -/
def deliveries (s : State) : State :=
  (s.threads.map (·.1)).foldl (fun s k =>
    if (s.thr k).waiting == [] || !(s.threadActs k || s.justStopped k) then s else (s.deliverWaiting k).getD s) s

/-- The end of a cycle's events: counters take their increments (04 R122), then faults are delivered. -/
def closeCycle (s : State) : State := deliveries (s.cores.foldl (fun s e => settleCounters s e.1) s)

def windowMoves (s : State) : List Move :=
  s.threads.filterMap (fun e =>
    if e.2.yieldTo != 0 && e.2.yieldTo ≤ s.cyc then some (.event (e.1 / 8) (e.1 % 8) .yieldWindowEnd) else none) ++
  s.threads.filterMap (fun e =>
    if 56 ≤ e.2.waited && !e.2.overdue then some (.event (e.1 / 8) (e.1 % 8) .threadOverdue) else none)

/-- The cores and service cores that have threads or engines, each once, in ascending order (10 R340). -/
def State.masters (s : State) : List Nat :=
  orderBy (fun m => m) (((s.cores.map (fun (e : Nat × Core) => e.1)) ++ s.threads.map (fun (e : Nat × Thread) => e.1 / 8)).foldl
    (fun l m => if l.contains m then l else l ++ [m]) [])

/-- The threads of a core that act in a cycle, in thread order: held ones that are tried again, and those that are picked. -/
def threadMoves (s : State) (m : Nat) (picked : List Nat) : List Move :=
  (List.range 8).flatMap (fun t =>
    match s.triesAgain (thrKey m t) with
    | some i => if isEvpost i then [] else [.event m t (heldEvent i)]
    | none => if picked.contains t then [.thread m t] else [])

def streamMoves (s : State) (m : Nat) (c : Core) : List Move :=
  (List.range 8).flatMap (fun u =>
    let x := c.stream u
    if x.busy && (x.got.isSome || (x.away.isNone && Config.moves s.tick 3 (8 * m + u))) then [.event m 0 (.streamElement m u)]
    else [])

/-- The decision of a node, by its key. -/
def nodeMove (core key : Nat) : List Instr :=
  let u := key % 16
  match key / 16 with
  | 0 => [.scannerDecision core u]
  | 1 => [.sieveDecision core u]
  | 2 => [.whiskDecision core u]
  | 3 => [.repeaterDecision core u]
  | 4 => [.gatherDecision core u, .gatherRow core u]
  | _ => []

/-- Each unit takes one decision per cycle, in the order UTYPE, UNIT (09 R293). -/
def fibreMoves (s : State) (m : Nat) (c : Core) : List Move :=
  if c.graphs == [] then []
  else
    events m ((List.range 80).flatMap (fun key => if (c.holder key).isSome then nodeMove m key else [])) ++
    [.nodes m] ++
    (if (c.holder cpeKey).isSome then events m [.cpeSlotPublish] else []) ++
    c.graphs.flatMap (fun g => events m ([.fibreFaultTimeout m g.1, .graphSkew m g.1] ++
      (if g.2.moved + 1048576 ≤ s.cyc then [.graphStall m g.1] else [])))

def chainMoves (s : State) : List Move :=
  s.chains.flatMap (fun e =>
    let c := e.2
    let id := e.1
    if c.refused then (if c.resendAt ≤ s.cyc then events 0 [.chainResend id] else [])
    else if !(Config.moves s.tick 4 id) then []
    else
      match c.flight with
      | [] => events 0 [.chainSend id]
      | t :: _ => events 0 [.chainArrival { fromHere := some id, dlid := c.desc.dlid, drole := c.desc.drole, dq := c.desc.dq,
                                            kind := t.kind, poison := t.poison, data := t.data }]) ++
  s.spills.filterMap (fun e =>
    let id := e.1 / 16
    if e.2 != [] && s.taskRuns id then some (.event (s.taskOf id).core 0 (.spillRingDrain (s.taskOf id).core (e.1 % 16)))
    else none)

/-- A copy that its engine serves: of a running task or a service thread, or of a thread that has ended; of others the chunks in flight. -/
def copyRuns (s : State) (m : Nat) (c : Copy) : Bool :=
  c.far != [] || (!(s.frozen.contains m) && (c.orphan || 0x1000 ≤ m || s.taskRuns c.task))

def copyMoves (s : State) (m : Nat) (c : Core) : List Move :=
  c.copies.flatMap (fun x =>
    if copyRuns s m x && Config.moves s.tick 5 x.id then [.event m 0 (.copyChunk m x.id (Config.freeNat s.tick 1 x.id))] else [])

/-- Withheld work that has failed for 8,192 cycles (08 R252, R260). -/
def timeoutMoves (s : State) (m : Nat) (c : Core) : List Move :=
  c.copies.flatMap (fun x =>
    if copyRuns s m x && !x.stopped && x.withheld.any (fun w => w.since + 8192 ≤ s.cyc) then
      [.event m 0 (.copyFaultTimeout m x.id)] else []) ++
  (if s.taskRuns c.home then
    (List.range 8).flatMap (fun u =>
      let x := c.stream u
      if x.state == .withholding && x.away.isNone && x.fail + 8192 ≤ s.cyc then [.event m 0 (.streamFaultTimeout m u)] else [])
   else [])

/-- What a core does in a cycle: its threads, its engines, the drains of its matrix array (10 R340, 07 R230); the arrays' other work comes
before, so that a release precedes a publication (06 R177). -/
def coreMoves (s : State) (m : Nat) (picked : List Nat) : List Move :=
  let c := s.core m
  let home := c.home != 0 && s.taskRuns c.home
  threadMoves s m picked ++
    copyMoves s m c ++
    (if s.frozen.contains m then [] else (if home then streamMoves s m c ++ fibreMoves s m c else []) ++ timeoutMoves s m c) ++
    (if s.arrayRuns c then events m (drainEnds s.cyc c.matrix) else [])

/-- The picks of every core, as the cycle's threads stand, and the moves. -/
def allCores : List Nat → State → List Move × State
  | [], s => ([], s)
  | m :: l, s =>
    match corePicks m s with
    | (ts, s') =>
      match allCores l s' with
      | (mv, s'') => (coreMoves s m ts ++ mv, s'')

/-- Deferred instructions of threads that still run: a helper after the helpers of lower number. -/
def lateMoves (s : State) (last : Bool) : List Move :=
  ((orderBy (fun (e : Nat × Instr) => (s.thr e.1).slot) s.late).filter (fun e => actsLast e.2 == last && s.runnable e.1)).map
    (fun e => .event (e.1 / 8) (e.1 % 8) e.2)

/-- Cycles frozen, or of a parked thread, count toward no timeout of withheld work (12 R390, 13 R402). -/
def pauseTimers (s : State) : State :=
  let parked (k : Nat) : Bool := (s.thr k).parked.isSome
  { s with cores := s.cores.map (fun (e : Nat × Core) =>
      let fz := s.frozen.contains e.1
      (e.1, { e.2 with
        copies := e.2.copies.map (fun c =>
          if fz || parked c.thr then { c with withheld := c.withheld.map (fun w => { w with since := w.since + 1 }) } else c)
        streams := e.2.streams.map (fun x =>
          if fz || parked (thrKey e.1 x.2.owner) then (x.1, { x.2 with fail := x.2.fail + 1 }) else x)
        graphs := e.2.graphs.map (fun g =>
          if fz || parked (thrKey e.1 g.2.owner) then
            (g.1, { g.2 with units := g.2.units.map (fun u =>
              (u.1, { u.2 with fault := u.2.fault.map (fun f => { f with since := f.since + 1 }) })) })
          else g) })) }

def monitorMoves (s : State) : List Move :=
  (s.homes.filter (fun e => e.2.mutualSince != 0 || mutualWait s e.1)).map (fun e => .event e.1 0 .decoupleDeadlock)

def hubMoves (s : State) : List Move :=
  (s.hub.filter (fun e => Config.moves s.tick 6 e.1)).map (fun e => .hub e.1) ++
  events 0 (
    (s.hub.filter (fun e => !e.2.reported && e.2.since + 8192 ≤ s.cyc)).map (fun e => .hubWorkTimeout e.1) ++
    (if s.waitFq != [] && Config.moves s.tick 7 0 then [.faultEntryWrite false] else []) ++
    (if s.waitCq != [] && Config.moves s.tick 7 1 then [.faultEntryWrite true] else []) ++
    (s.tasks.filter (fun e => e.2.saving.isSome && saveReady s e.1 && Config.moves s.tick 8 e.1)).map
      (fun e => .preemptSaveComplete e.1) ++
    (s.launches.filter (fun e => e.2.waiting && agedClass e.2.cls e.2.joined s.cyc != e.2.eff)).map
      (fun e => .effectiveClassAging e.1) ++
    (s.tasks.filter (fun e => e.2.life == .queued && agedClass (s.launchOf e.2.lid).cls e.2.joined s.cyc != e.2.eff)).map
      (fun e => .effectiveClassAging e.1) ++
    (if s.reservation.isNone && s.launches.any (fun e => e.2.waiting && e.2.joined + 2 ^ 22 ≤ s.cyc) then
      [.launchReservation] else []) ++
    s.msgs.flatMap (fun e =>
      (if e.2.backTo.isSome then [.refusedForNowRetry e.1]
       else if Config.moves s.tick 9 e.1 then
         [.packetSend e.1 (Config.freeNat s.tick 2 e.1 % (e.2.packets + 1)) (Config.freeNat s.tick 3 e.1 % 8)]
       else []) ++
      (e.2.flying.filter (fun p => p.2 + Config.packetTimeout ≤ s.cyc)).map (fun p => .packetTimeout e.1 p.1)) ++
    (s.remotes.filter (fun e => !e.2.cancelSent && e.2.issued + remoteLimit ≤ s.cyc)).map (fun e => .remoteGiveUp e.1) ++
    (if s.sup.fwstate == .verifying && Config.moves s.tick 11 0 then [.fwVerifyDone s.sup.fwfrom] else []) ++
    (if s.sup.fwstate == .draining && s.sup.fwsince + 1250000 ≤ s.cyc then [.fwDrainTimeout] else []) ++
    (if Config.moves s.tick 10 0 then [.scrub] else []))

/-- Low-water records that a freeze has kept back are stored after the thaw (12 R393). -/
def State.writeLows (s : State) : State := s.cores.foldl (fun s e => if e.2.lows = [] then s else s.storeLows e.1) s

/-- The moves of a phase of the cycle, and the state in which they begin. The matrix arrays and the rows come first, so that a thread meets
the room and the entries of its cycle (07 R230, 06 R177); the hub's agents follow the cores (10 R340). A host launch reads what the writes
of its cycle have left, which it is ordered after (10 R327); the round comes last, when every launch of the cycle has joined (11 R348). -/
def phaseMoves (n : Nat) (s : State) : List Move × State :=
  match n with
  | 0 => (landings s, pauseTimers s)
  | 1 => (arrayMoves s, s)
  | 2 => (rowMoves s, s)
  | 3 => (boundaryMoves s, s)
  | 4 => (exitMoves s ++ windowMoves s, s.writeLows)
  | 5 => allCores s.masters s
  | 6 => (arrivals s ++ postMoves s, s)
  | 7 => (chainMoves s, s)
  | 8 => (lateMoves s false, { s with late := s.late.filter (fun e => actsLast e.2) })
  | 9 => (controlMoves s, s)
  | 10 => (monitorMoves s, s)
  | 11 => ([], closeCycle s)
  | 12 => (hubMoves s ++ lateMoves s true, { s with late := [] })
  | 13 => ((if s.pkg.off then [] else (Config.hostReads s.tick).map (fun e => .hostRead e.1 e.2)) ++ events 0 s.inputs ++ s.dueReset, s)
  | 14 => (events 0 s.portLaunches, { s with lctls := [], older := [] })
  | _ => (if s.dirty then events 0 [.placementRound] else [], s)

/-- The phases of a cycle; without power only what stands on VAUX. -/
def cyclePhases (s : State) : List Move :=
  if s.pkg.off then [.phase 13] else (List.range 16).map .phase

/-- What control word reads of a cycle see of a core (04 R122). -/
def priorOf (cyc m : Nat) (c : Core) : Nat × Prior :=
  (m, { cyc, mstat := c.matrix.mstat cyc, queues := (List.range 16).map (fun q => (c.queue q).status cyc) })

/-- A cycle begins. What the sensors read is left open, below the trip (17 R467). -/
def newCycle (s : State) : State :=
  let cyc := if s.pkg.off then s.cyc else s.cyc + 1
  { s with cyc, older := [], accOld := [], late := []
           prior := (s.cores.filter (fun e => e.2.home != 0)).map (fun e => priorOf cyc e.1 e.2)
           pkg := { s.pkg with temp := (List.range 9).map (fun d => (d, Config.freeNat s.tick 4 d % 110)) }
           agenda := cyclePhases s }

/-- One move of the agenda. -/
def runMove (v : Move) (s : State) : Out :=
  match v with
  | .thread m t => issueThread m t s
  | .rows core unit => runUnit core unit s
  | .phase n => match phaseMoves n s with | (l, s) => .next { s with agenda := l ++ s.agenda }
  | .hub id => .next (hubAgain s id)
  | .controls core => .next (runControls core s)
  | .nodes core => .next (nodesMove s core)
  | .event m t i => exec i { s with cur := { m := m, t := t } }
  | .hostRead off n => .next (hostRead off n s)
  | .packageReset => execPackageReset (Config.resetInfo s.tick) { s with cur := {} }

/-! ## An instruction placed for the next step -/

/-- A row with its bundle. -/
def placeBundle (s : State) (b : Bundle) : State :=
  let hasControl := match decodeBundle b with | .ok (.normal _ _ (some _) _) => true | _ => false
  let c : Core := { store := [(0, b)], rows := [(0, { issue := if hasControl then 1 else 0 })] }
  { s.setCore 0 c with agenda := if hasControl then [.controls 0] else [.rows 0 [0], .controls 0] }

/-- A dword at the start of the service cores' code store, where a service thread is about to issue it. -/
def placeDword (s : State) (w : Nat) : State :=
  let k := thrKey 0x1000 0
  { (s.setThr k { s.thr k with life := .running, svc := true, phys := true, pc := word serviceBase, held := none,
                               parked := none, remote := none, fetched := none, busyTo := 0 }).writeDword serviceBase w with
    older := [], agenda := [.thread 0x1000 0] }

/-- The instruction whose table bits are `w`, placed where the next step fetches it (log 3). -/
def placeWord (s : State) (nbits w : Nat) : State :=
  let w := w % 2 ^ nbits
  if nbits ≤ 48 then placeBundle s (BitVec.ofNat 256 (w * 2 ^ 144))
  else if nbits ≤ 64 then placeDword s w
  else if nbits ≤ 192 then placeBundle s (BitVec.ofNat 256 (2 ^ 252 + w))
  else placeBundle s (BitVec.ofNat 256 w)

end Sys2Proof.Machine
end

