-- ==== Sys2Proof/Machine/Step.lean ====
section
/-! DEFINITION. One step: the first move of the agenda, or, when it is empty, the next cycle (assumption log 1). -/

namespace Sys2Proof.Machine

def step (s : State) : Host.Outcome State Fault Refusal :=
  match s.agenda with
  | [] => .next { newCycle s with tick := s.tick + 1 }
  | v :: rest => runMove v { s with agenda := rest, tick := s.tick + 1 }

/-- `s` with the instruction of an opcode-table word about to be fetched. -/
def State.withFetchWord (s : State) (nbits w : Nat) : State := placeWord s nbits w

end Sys2Proof.Machine
end

