-- ==== Sys2Proof/Safety.lean ====
section
/-! DEFINITION. The terms the statements use: the canonical form of every memory, what an instruction leaves as it was,
what it means that an instruction completes, and where an access of an instruction goes. -/

namespace Sys2Proof.Machine

/-- Memory, every scratchpad and the scratchpad of every saved task are in canonical form. -/
def State.memOk (s : State) : Bool :=
  Memory.wf s.mem && s.cores.all (fun e => Memory.wf e.2.scratch) &&
    s.tasks.all (fun e => match e.2.priv with | some c => Memory.wf c.scratch | none => true)

/-- A run is safe as long as its memories are in canonical form and it lists every hardware thread once, in order. -/
abbrev State.Inv (s : State) : Prop := s.memOk = true ∧ (s.threads.map (·.1)).Pairwise (· < ·)

/-- None of the registers has been struck by an uncorrectable error (13 R429). -/
abbrev State.readable (s : State) (rs : List Reg) : Prop := ∀ r ∈ rs, s.struckReg r = false

/-- `t` is `s` but for the acting thread's registers, pc, hold and issue time. -/
def RegisterFrame (s t : State) : Prop :=
  t = s.setThr s.curKey t.me ∧
  { t.me with regs := s.me.regs, badRegs := s.me.badRegs, pc := s.me.pc, held := s.me.held, busyTo := s.me.busyTo } = s.me

/-- `i` completes in `s`; its translations have given `base` (`s` itself where it makes none). Beyond `base`: x[d] := v (a
write to x0 is discarded), and the register holds good data again if an error had struck it; every other register and
everything else stays, and the pc becomes `pc`. -/
def LeavesAt (i : Instr) (s base : State) (d : Reg) (v pc : Word) (busyTo : Nat) : Prop :=
  ∃ t, exec i s = .next t ∧ RegisterFrame base t ∧ (∀ r, t.rx r = if r = d ∧ r ≠ 0 then v else base.rx r) ∧
    (∀ r : Reg, r.toNat ∈ t.me.badRegs ↔ r.toNat ∈ base.me.badRegs ∧ ¬(r = d ∧ r ≠ 0)) ∧ t.me.pc = pc ∧
    t.me.held = none ∧ t.me.busyTo = busyTo

def GivesAt (i : Instr) (s : State) (d : Reg) (v pc : Word) (busyTo : Nat) : Prop := LeavesAt i s s d v pc busyTo

/-- `i` completes with a register result, and the next pc is the next in sequence. -/
def Gives (i : Instr) (s : State) (d : Reg) (v : Word) : Prop := GivesAt i s d v (s.me.pc + 8) s.me.busyTo

/-- `i` completes with no register result. -/
def JumpsTo (i : Instr) (s : State) (pc : Word) : Prop := GivesAt i s 0 0 pc s.me.busyTo

/-- `i` raises `cause` at its own address, by the shared operation that takes a fault. -/
def Traps (i : Instr) (s : State) (cause : Nat) (tval : Word) : Prop := exec i s = .next (s.trap cause tval)

/-- `t` is `s` after the acting thread's trap entry at `vec` (13 R403). -/
def TakesTrap (s t : State) (vec : Word) (cause source : Nat) (tval epc : Word) : Prop :=
  t = s.setThr s.curKey t.me ∧ t.me.epc = epc ∧ t.me.tcause = word (source * 2 ^ 12 + cause) ∧ t.me.tval = tval ∧
  t.me.intrap = true ∧ t.me.pc = word (vec.toNat / 8 * 8) ∧ t.me.arrayHandler = false ∧
  t.me.fetched = none ∧
  { t.me with epc := s.me.epc, tcause := s.me.tcause, tval := s.me.tval, intrap := s.me.intrap, pc := s.me.pc,
              arrayHandler := s.me.arrayHandler, fetched := s.me.fetched } = s.me

/-- An access of the acting thread passes every check of 07 R206, stays in the package and needs no supervisor state: it
touches the locations `locs`, and its translations leave `base`. -/
def State.reaches (s : State) (ea : Word) (n : Nat) (need : Need) (align : Bool) (locs : List Loc) (base : State) : Prop :=
  ∃ acc, checkAccess s s.agent ea n need align = .ok acc ∧ acc.far = none ∧ rwsBreach s.me.svc need acc = false ∧
    acc.locs = locs ∧ base = commitAccess s s.agent need acc

/-- No byte of the locations lies in a sector that carries poison. -/
abbrev State.sound (s : State) (locs : List Loc) : Prop := ∀ l ∈ locs, s.locPoison l = false

/-- Nor did one when the cycle began, as the reads of the cycle find it (10 R340). -/
abbrev State.soundSeen (s : State) (locs : List Loc) : Prop := ∀ l ∈ locs, (s.seen l).2 = false

/-- Record `slot` of task `task` holds every ring slot that the locations touch (06 R177). -/
def State.slotsHeld (s : State) (task slot : Nat) (locs : List Loc) : Prop :=
  match locs with
  | .scr c off :: _ =>
    ∀ e ∈ (s.core c).rings, e.2.decl = true →
      ∀ i < e.2.depth, off < e.2.slotAt i + 256 + slotBytes e.2.slot → e.2.slotAt i < off + locs.length →
        e.2.holds.contains (task, slot, i) = true
  | _ => True

/-- The acting thread holds every ring slot that the locations touch, and no publication of the cycle waits there for a release
(06 R177). -/
def State.holdsSlots (s : State) (locs : List Loc) : Prop :=
  s.slotsHeld s.me.task s.me.slot locs ∧
  match locs with
  | .scr c _ :: _ => ∀ e ∈ (s.core c).rings, e.2.decl = true → e.2.late = none
  | _ => True

/-- `t` holds the bytes of `v` at the locations, lowest first, and every other location as in `base`. -/
def WritesBytes (base t : State) (locs : List Loc) (v : Nat) : Prop :=
  (∀ k l, locs[k]? = some l → t.locByte l = BitVec.ofNat 8 (v / 256 ^ k)) ∧ ∀ l, l ∉ locs → t.locByte l = base.locByte l

/-- `t` is `base` but for the acting thread, the bytes of memory and scratchpads with what the cycle's reads keep of them, the granules
that are dead, the scrub's sector and the rings that a handshake store moves. -/
def StoreFrame (base t : State) : Prop :=
  t = { base.setThr base.curKey t.me with
        mem := t.mem, cores := t.cores, dead := t.dead, deadFrames := t.deadFrames, undef := t.undef, older := t.older, poison := t.poison
        scrubDone := t.scrubDone } ∧
  ∀ c, { t.core c with scratch := (base.core c).scratch, sundef := (base.core c).sundef, rings := (base.core c).rings } = base.core c

/-- A unit of a running graph decides: the core is not frozen and has stored its low-water records, and the unit has neither a fault nor a
read under way. -/
def State.decides (s : State) (core gid key : Nat) : Prop :=
  (s.core core).holder key = some gid ∧ (s.graph core gid).stopped = false ∧ s.frozen.contains core = false ∧
  (s.core core).lows = [] ∧ (s.unit core gid key).away = none ∧ (s.unit core gid key).fault = none

/-- `h` heads an input port and passes the checks made before any decision (09 R292). -/
def State.heads (s : State) (core gid key port : Nat) (h : Tok) : Prop :=
  headToken s core gid key port = some h ∧ ¬(4 ≤ h.kind.toNat ∧ h.poison = true) ∧
  malformedToken (s.unit core gid key) port h = false

/-- A decision of the unit: it appends the tokens it emits to every edge of their output ports, ready from the next cycle,
and takes the head off the edges into the ports it pops; every other edge stays. -/
def FibreMoves (s t : State) (core gid key : Nat) (pops : List Nat) (emits : List (Nat × Tok)) : Prop :=
  (t.graph core gid).edges.length = (s.graph core gid).edges.length ∧
  ∀ (i : Nat) (e : FEdge), (s.graph core gid).edges[i]? = some e → ¬(srcOf e.e = key ∧ dstOf e.e = key) →
    (t.graph core gid).edges[i]? =
      some (if srcOf e.e = key then
              { e with fifo := e.fifo ++ (emits.filter (fun x => x.1 == e.e.srcPort.toNat)).map (fun x =>
                  { tok := x.2, ready := s.cyc + 1 }) }
            else if dstOf e.e = key ∧ e.e.dstPort.toNat ∈ pops then { e with fifo := e.fifo.tail, moved := s.cyc }
            else e)

/-- A location outside the hub registers. -/
def Loc.plain : Loc → Bool
  | .mem pa => !(isHub pa)
  | .far _ _ => false
  | .scr _ _ => true

end Sys2Proof.Machine
end

