-- ==== Sys2Proof/Certificates/Slice0/Obligations.lean ====
section
/-! DEFINITION. The statements for the provers. OBLIGATIONS.json gives each its tier, its rules and its title. -/

open Sys2Proof Sys2Proof.Machine

def Obligations.DecodeSpecExamples : Prop :=
  decode 0x10C414000000000 = .ok (.add 3 4 5) ∧ decode 0x110518700000015 = .ok (.madd 4 5 6 7) ∧
  decode 0x10249000FFFFFFFF = .ok (.addi 9 9 0xFFFFFFFF) ∧ decode 0x528B30060000010 = .ok (.lea 10 11 12 3 16) ∧
  decode 0x2301F00000000000 = .ok (.jalr 0 31 0) ∧ decode 0x242C0000FFFFFFFF = .ok (.loop 11 0xFFFFFFFF) ∧
  decode 0x30146C9000000010 = .ok (.ld 5 6 ⟨.d, .acq, .cluster, false, .none⟩ 16) ∧
  decode 0x3500026000000000 = .ok (.fence .sc .system) ∧ decode 0x5020024000000102 = .ok (.qpop 8 9 1) ∧
  decode 0x5834A2CC38000200 = .ok (.copy 13 10 11 12 ⟨.cluster, true, true, 2⟩) ∧
  decode 0x8800000000001201 = .ok (.trap 0x12) ∧ decode 0x8000000000000002 = .ok .exit ∧
  decode 0 = .error .opcode ∧ decode 0x10C41400000002B = .error .function ∧ decode 0x10C414100000000 = .error .field ∧
  decodePe 0 = .ok .nop ∧ decodeMatrix (0x6#192 <<< 188) = .ok .mstat ∧ decodeBundle (0x2#256 <<< 252) = .ok .theEnd

def Obligations.EncodeThenDecodeAccess : Prop :=
  ∀ (i : Instr) (w : Word), i.wf = true → encode i = some w → decode w = .ok i

def Obligations.EncodeThenDecodeExecute : Prop :=
  (∀ (i : Instr) (w : BitVec 48), i.wf = true → encodePe i = some w → decodePe w = .ok i) ∧
  (∀ (i : Instr) (w : BitVec 192), i.wf = true → encodeMatrix i = some w → decodeMatrix w = .ok i) ∧
  (∀ (i : Instr) (sync : Bool) (imm : Word32) (h : Word), i.wf = true → encodeRowControl sync imm i = some h →
    decodeRowControl h = .ok (some i))

def Obligations.DecodeThenEncode : Prop :=
  ∀ (w : Word) (i : Instr), decode w = .ok i → i.wf = true ∧ encode i = some w

/-- The table of R124 but for its division rows (R125) and its field rows (R126). -/
def Obligations.IntegerResults : Prop :=
  ∀ (s : State) (d a b c : Reg),
    (s.readable [a] →
      (∀ n ≤ 64, (∀ k < n, (s.rx a).getLsbD (63 - k) = false) → (n < 64 → (s.rx a).getLsbD (63 - n) = true) →
        Gives (.clz d a) s d (word n)) ∧
      (∀ n ≤ 64, (∀ k < n, (s.rx a).getLsbD k = false) → (n < 64 → (s.rx a).getLsbD n = true) →
        Gives (.ctz d a) s d (word n)) ∧
      Gives (.popc d a) s d (word ((List.range 64).filter (fun k => (s.rx a).getLsbD k)).length) ∧
      (∀ v : Word, (∀ k < 64, v.getLsbD k = (s.rx a).getLsbD (63 - k)) → Gives (.brev d a) s d v) ∧
      (∀ v : Word, (∀ k < 8, v.toNat / 256 ^ k % 256 = (s.rx a).toNat / 256 ^ (7 - k) % 256) → Gives (.bswap d a) s d v)) ∧
    (s.readable [a, b] →
      Gives (.add d a b) s d (wrap64 ((s.rx a).toInt + (s.rx b).toInt)) ∧
      Gives (.sub d a b) s d (wrap64 ((s.rx a).toInt - (s.rx b).toInt)) ∧
      Gives (.addw d a b) s d (wrap64 (signedOf 32 ((s.rx a).toNat + (s.rx b).toNat))) ∧
      Gives (.subw d a b) s d (wrap64 (signedOf 32 ((s.rx a).toNat + 2 ^ 64 - (s.rx b).toNat))) ∧
      Gives (.and d a b) s d (s.rx a &&& s.rx b) ∧ Gives (.or d a b) s d (s.rx a ||| s.rx b) ∧
      Gives (.xor d a b) s d (s.rx a ^^^ s.rx b) ∧ Gives (.andn d a b) s d (s.rx a &&& ~~~s.rx b) ∧
      Gives (.orn d a b) s d (s.rx a ||| ~~~s.rx b) ∧ Gives (.xnor d a b) s d (~~~(s.rx a ^^^ s.rx b)) ∧
      (let sh := (s.rx b).toNat % 64
       Gives (.sll d a b) s d (word ((s.rx a).toNat * 2 ^ sh)) ∧ Gives (.srl d a b) s d (word ((s.rx a).toNat / 2 ^ sh)) ∧
       Gives (.sra d a b) s d (wrap64 ((s.rx a).toInt / 2 ^ sh)) ∧
       (∀ v : Word, (∀ k < 64, v.getLsbD ((k + sh) % 64) = (s.rx a).getLsbD k) → Gives (.rol d a b) s d v) ∧
       (∀ v : Word, (∀ k < 64, v.getLsbD k = (s.rx a).getLsbD ((k + sh) % 64)) → Gives (.ror d a b) s d v)) ∧
      Gives (.mul d a b) s d (word ((s.rx a).toNat * (s.rx b).toNat)) ∧
      Gives (.mulh d a b) s d (wrap64 ((s.rx a).toInt * (s.rx b).toInt / 2 ^ 64)) ∧
      Gives (.mulhu d a b) s d (word ((s.rx a).toNat * (s.rx b).toNat / 2 ^ 64)) ∧
      Gives (.mulhsu d a b) s d (wrap64 ((s.rx a).toInt * ((s.rx b).toNat : Int) / 2 ^ 64)) ∧
      Gives (.mulw d a b) s d (wrap64 (signedOf 32 ((s.rx a).toNat * (s.rx b).toNat))) ∧
      Gives (.min d a b) s d (wrap64 (min (s.rx a).toInt (s.rx b).toInt)) ∧
      Gives (.max d a b) s d (wrap64 (max (s.rx a).toInt (s.rx b).toInt)) ∧
      Gives (.minu d a b) s d (word (min (s.rx a).toNat (s.rx b).toNat)) ∧
      Gives (.maxu d a b) s d (word (max (s.rx a).toNat (s.rx b).toNat)) ∧
      Gives (.slt d a b) s d (if (s.rx a).toInt < (s.rx b).toInt then 1 else 0) ∧
      Gives (.sltu d a b) s d (if (s.rx a).toNat < (s.rx b).toNat then 1 else 0) ∧
      Gives (.seq d a b) s d (if s.rx a = s.rx b then 1 else 0) ∧
      Gives (.sne d a b) s d (if s.rx a = s.rx b then 0 else 1)) ∧
    (s.readable [a, b, c] →
      Gives (.madd d a b c) s d (word ((s.rx a).toNat * (s.rx b).toNat + (s.rx c).toNat)) ∧
      Gives (.sel d a b c) s d (if s.rx c = 0 then s.rx b else s.rx a))

/-- R125, with the 40 cycles of R135. -/
def Obligations.DivisionResults : Prop :=
  ∀ (s : State) (d a b : Reg), s.readable [a, b] →
    (let x := (s.rx a).toInt
     let y := (s.rx b).toInt
     let q : Int := if y = 0 then -1 else if x = -2 ^ 63 ∧ y = -1 then -2 ^ 63 else Int.tdiv x y
     let r : Int := if y = 0 then x else if x = -2 ^ 63 ∧ y = -1 then 0 else x - Int.tdiv x y * y
     GivesAt (.div d a b) s d (wrap64 q) (s.me.pc + 8) (s.cyc + 40) ∧
     GivesAt (.rem d a b) s d (wrap64 r) (s.me.pc + 8) (s.cyc + 40) ∧ (y ≠ 0 → x ≠ -2 ^ 63 ∨ y ≠ -1 → r = Int.tmod x y)) ∧
    (let x := (s.rx a).toNat
     let y := (s.rx b).toNat
     GivesAt (.divu d a b) s d (word (if y = 0 then 2 ^ 64 - 1 else x / y)) (s.me.pc + 8) (s.cyc + 40) ∧
     GivesAt (.remu d a b) s d (word (if y = 0 then x else x - x / y * y)) (s.me.pc + 8) (s.cyc + 40))

/-- R126. The inserted word is given bit by bit. -/
def Obligations.FieldResults : Prop :=
  ∀ (s : State) (d a b c : Reg) (imm : Word32),
    let clip (pos len : Nat) : Nat := if 64 < pos + len then 64 - pos else len
    let f (pos len : Nat) : Nat := (s.rx a).toNat / 2 ^ pos % 2 ^ clip pos len
    let inserted (pos len : Nat) (v : Word) : Prop :=
      ∀ k < 64, v.getLsbD k = if pos ≤ k ∧ k < pos + clip pos len then (s.rx a).getLsbD (k - pos) else (s.rx d).getLsbD k
    (s.readable [a, b, c] → let pos := (s.rx b).toNat % 64; let len := (s.rx c).toNat % 64 + 1
      Gives (.bfx d a b c) s d (wrap64 (signedOf (clip pos len) (f pos len))) ∧ Gives (.bfxu d a b c) s d (word (f pos len)) ∧
      (s.readable [d] → ∀ v, inserted pos len v → Gives (.bfi d a b c) s d v)) ∧
    (s.readable [a] → let pos := imm.toNat % 64; let len := imm.toNat / 256 % 64 + 1
      Gives (.bfxi d a imm) s d (wrap64 (signedOf (clip pos len) (f pos len))) ∧ Gives (.bfxui d a imm) s d (word (f pos len)) ∧
      (s.readable [d] → ∀ v, inserted pos len v → Gives (.bfii d a imm) s d v))

/-- The table of R127 but for its field rows (R126), the immediates it refuses, and R128. -/
def Obligations.ImmediateResults : Prop :=
  (∀ (s : State) (d a : Reg) (imm : Word32),
    Gives (.li d imm) s d (wrap64 imm.toInt) ∧
    (s.readable [a] →
      Gives (.addi d a imm) s d (wrap64 ((s.rx a).toInt + imm.toInt)) ∧
      Gives (.addiw d a imm) s d (wrap64 (signedOf 32 ((s.rx a).toNat + imm.toNat))) ∧
      Gives (.andi d a imm) s d (s.rx a &&& word imm.toNat) ∧ Gives (.ori d a imm) s d (s.rx a ||| word imm.toNat) ∧
      Gives (.xori d a imm) s d (s.rx a ^^^ word imm.toNat) ∧
      (imm.toNat < 64 → Gives (.slli d a imm) s d (word ((s.rx a).toNat * 2 ^ imm.toNat)) ∧
        Gives (.srli d a imm) s d (word ((s.rx a).toNat / 2 ^ imm.toNat)) ∧
        Gives (.srai d a imm) s d (wrap64 ((s.rx a).toInt / 2 ^ imm.toNat))) ∧
      Gives (.slti d a imm) s d (if (s.rx a).toInt < imm.toInt then 1 else 0) ∧
      Gives (.sltiu d a imm) s d (if (s.rx a).toNat < (wrap64 imm.toInt).toNat then 1 else 0) ∧
      Gives (.lih d a imm) s d (word (imm.toNat * 2 ^ 32 + (s.rx a).toNat % 2 ^ 32)) ∧
      Gives (.muli d a imm) s d (wrap64 ((s.rx a).toInt * imm.toInt)))) ∧
  (∀ (s : State) (d a b : Reg) (shift : BitVec 3) (disp : BitVec 29), s.readable [a, b] →
    Gives (.lea d a b shift disp) s d (wrap64 ((s.rx a).toInt + (s.rx b).toInt * 2 ^ shift.toNat + disp.toInt))) ∧
  (∀ w i, decode w = .ok i → ∀ d a imm,
    ((i = .slli d a imm ∨ i = .srli d a imm ∨ i = .srai d a imm) → imm.toNat < 64) ∧
    ((i = .bfxi d a imm ∨ i = .bfxui d a imm ∨ i = .bfii d a imm) → imm.toNat / 2 ^ 14 = 0 ∧ imm.toNat / 64 % 4 = 0))

/-- R129 to R132. -/
def Obligations.ControlTransfers : Prop :=
  (∀ (s : State) (a b : Reg) (disp : Word32), s.readable [a, b] →
     let target := wrap64 (s.me.pc.toNat + 8 * disp.toInt)
     let bcc (i : Instr) (holds : Bool) : Prop :=
       if holds then (canonical target = true → JumpsTo i s target) ∧ (canonical target = false → Traps i s 0x03 target)
       else JumpsTo i s (s.me.pc + 8)
     bcc (.beq a b disp) (s.rx a == s.rx b) ∧ bcc (.bne a b disp) (s.rx a != s.rx b) ∧
     bcc (.blt a b disp) (decide ((s.rx a).toInt < (s.rx b).toInt)) ∧
     bcc (.bge a b disp) (decide ((s.rx a).toInt ≥ (s.rx b).toInt)) ∧
     bcc (.bltu a b disp) (decide ((s.rx a).toNat < (s.rx b).toNat)) ∧
     bcc (.bgeu a b disp) (decide ((s.rx a).toNat ≥ (s.rx b).toNat))) ∧
  (∀ (s : State) (d a : Reg) (disp : Word32),
     let target := wrap64 (s.me.pc.toNat + 8 * disp.toInt)
     let n := s.rx a - 1
     (canonical target = true →
       JumpsTo (.j disp) s target ∧ GivesAt (.jal d disp) s d (s.me.pc + 8) target s.me.busyTo ∧
       (s.readable [a] → n ≠ 0 → GivesAt (.loop a disp) s a n target s.me.busyTo)) ∧
     (canonical target = false →
       Traps (.j disp) s 0x03 target ∧ Traps (.jal d disp) s 0x03 target ∧
       (s.readable [a] → n ≠ 0 → Traps (.loop a disp) s 0x03 target)) ∧
     (s.readable [a] → n = 0 → Gives (.loop a disp) s a 0) ∧ (a = 0 → n ≠ 0)) ∧
  (∀ (s : State) (d a : Reg) (imm : Word32), s.readable [a] →
     let target := wrap64 ((s.rx a).toInt + imm.toInt)
     (target.toNat % 8 ≠ 0 → Traps (.jalr d a imm) s 0x04 target) ∧
     (target.toNat % 8 = 0 → canonical target = false → Traps (.jalr d a imm) s 0x03 target) ∧
     (target.toNat % 8 = 0 → canonical target = true →
       GivesAt (.jalr d a imm) s d (s.me.pc + 8) target s.me.busyTo))

/-- R402, R403, R407 for a fault of the acting thread's own instruction (SOURCE 0). -/
def Obligations.FaultRoutes : Prop :=
  ∀ (s : State) (cause : Nat) (tval epc : Word),
    s.me.life = .running → s.me.held = none → s.me.parked = none →
    let t := s.trapAt cause tval epc
    let task := cause = 0x0A ∨ cause = 0x0B ∨ cause = 0x19
    let vec := (s.taskOf s.me.task).trapvec
    (s.me.svc = false → task → vec ≠ 0 → s.me.intrap = false → TakesTrap s t vec cause 0 tval epc) ∧
    (s.me.svc = false → (¬task ∨ vec = 0 ∨ s.me.intrap = true) →
      let f := mkFault s s.curKey cause 0 tval epc .instr
      t.me = { s.me with parked := some f, pc := epc, fetched := none } ∧
      (let p := s.setThr s.curKey { s.me with parked := some f, pc := epc, fetched := none }
       t = { p with waitFq := s.waitFq ++ [⟨cause * 2 ^ 56 + s.curKey % 8 * 2 ^ 49 + masterCore (s.curKey / 8) * 2 ^ 37 + 2 ^ 16,
               word s.me.task, tval, epc, some f, 0⟩] } ∨
       (cause = 5 ∨ cause = 6 ∨ cause = 7) ∧
        ∃ e ∈ s.openEntries, e.cause = cause ∧ e.job = handleJob s.me.task ∧ e.page = tval.toNat / 4096 ∧
          (let l := s.openEntries.map (fun x => if x.seq = e.seq then { x with waiters := x.waiters ++ [f] } else x)
           t = { p.countEntry e.seq with openEntries := l }))) ∧
    (s.me.svc = true → s.me.intrap = false → TakesTrap s t s.me.svec cause 0 tval epc) ∧
    (s.me.svc = true → s.me.intrap = true →
      t.frozen.contains (s.curKey / 8) = true ∧ t.waitFq = s.waitFq ∧
      t.pkg = { s.pkg with telemetry := (masterCore (s.curKey / 8), epc, word cause) :: s.pkg.telemetry })

/-- R404, R405. That the arrays stay frozen while a second fault of theirs is open is the model's reading (log 39). -/
def Obligations.TrapAndReturn : Prop :=
  ∀ (s : State) (imm : BitVec 16),
    exec (.trap imm) s = .next (s.trapAt 0x19 (word imm.toNat) (s.me.pc + 8)) ∧
    (s.me.life = .running → s.me.held = none → s.me.parked = none → s.me.svc = false →
      (s.taskOf s.me.task).trapvec ≠ 0 → s.me.intrap = false →
      ∃ t, exec (.trap imm) s = .next t ∧
        TakesTrap s t (s.taskOf s.me.task).trapvec 0x19 0 (word imm.toNat) (s.me.pc + 8)) ∧
    (s.struck 0 = true → Traps .rte s 0x09 0x1000) ∧
    (s.struck 0 = false → s.me.intrap = true → s.struck 1 = true → Traps .rte s 0x09 0x1001) ∧
    (s.struck 0 = false → s.me.intrap = false → Traps .rte s 0x01 0) ∧
    (s.struck 0 = false → s.struck 1 = false → s.me.intrap = true →
      (s.me.epc.toNat % 8 ≠ 0 → Traps .rte s 0x04 s.me.epc) ∧
      (s.me.epc.toNat % 8 = 0 → canonical s.me.epc = false → Traps .rte s 0x03 s.me.epc) ∧
      (s.me.epc.toNat % 8 = 0 → canonical s.me.epc = true →
        let gen := match s.me.gen with | some (g, pc) => if pc = s.me.epc then some (g, pc) else none | none => none
        let t := s.setThr s.curKey { s.me with intrap := false, arrayHandler := false, pc := s.me.epc, gen, genTrap := none }
        (s.me.arrayHandler = false → exec .rte s = .next t) ∧
        (s.me.arrayHandler = true → exec .rte s = .next (unfreezeArrays t (s.taskOf s.me.task).core)))) ∧
    (s.me.svc = false → s.me.life = .running → s.me.held = none → ∀ c v, s.me.intrap = true →
      (s.trap c v).me.parked.isSome = true ∧ (s.trap c v).me.intrap = true)

/-- R429: general registers. -/
def Obligations.StruckRegisterTraps : Prop :=
  ∀ (s : State) (d a b c : Reg) (imm disp off : Word32) (sh : BitVec 3) (o29 : BitVec 29) (m : MemMod) (am : AtomMod)
    (o20 : BitVec 20) (sc : Scope) (kind q : BitVec 4) (r : Reg),
    let reads (rs : List Reg) (is : List Instr) : Prop :=
      rs.find? s.struckReg = some r → ∀ i ∈ is, Traps i s 0x09 (word (0x100 + r.toNat))
    reads [a] [.clz d a, .ctz d a, .popc d a, .brev d a, .bswap d a, .addi d a imm, .addiw d a imm, .andi d a imm, .ori d a imm,
      .xori d a imm, .slli d a imm, .srli d a imm, .srai d a imm, .slti d a imm, .sltiu d a imm, .lih d a imm, .muli d a imm,
      .bfxi d a imm, .bfxui d a imm, .jalr d a imm, .loop a disp, .ld d a m off, .cwb a sc off, .cinv a sc off] ∧
    reads [a, b] [.add d a b, .sub d a b, .addw d a b, .subw d a b, .and d a b, .or d a b, .xor d a b, .andn d a b, .orn d a b,
      .xnor d a b, .sll d a b, .srl d a b, .sra d a b, .rol d a b, .ror d a b, .mul d a b, .mulh d a b, .mulhu d a b,
      .mulhsu d a b, .mulw d a b, .div d a b, .divu d a b, .rem d a b, .remu d a b, .min d a b, .max d a b, .minu d a b,
      .maxu d a b, .slt d a b, .sltu d a b, .seq d a b, .sne d a b, .lea d a b sh o29, .beq a b disp, .bne a b disp,
      .blt a b disp, .bge a b disp, .bltu a b disp, .bgeu a b disp] ∧
    reads [a, b, c] [.madd d a b c, .sel d a b c, .bfx d a b c, .bfxu d a b c, .acas d a b c am o20] ∧
    reads [d, a] [.bfii d a imm] ∧ reads [d, a, b, c] [.bfi d a b c] ∧ reads [a, d] [.st d a m off] ∧
    reads [a, b] [.aadd d a b am o20, .aand d a b am o20, .aor d a b am o20, .axor d a b am o20, .amin d a b am o20,
      .amax d a b am o20, .aminu d a b am o20, .amaxu d a b am o20, .aswap d a b am o20, .afadd d a b am o20] ∧
    (s.me.svc = false → s.me.helper = false → (s.myCore.queue q.toNat).decl = true → (s.myCore.queue q.toNat).xa = false →
      reads [a] [.qpush a kind q])

/-- R210, for accesses that stay in the package and reach no hub register. -/
def Obligations.LoadStoreResults : Prop :=
  ∀ (s base : State) (d a : Reg) (m : MemMod) (off : Word32) (locs : List Loc),
    let ea := wrap64 ((s.rx a).toInt + off.toInt)
    let n := sizeBytes m.size
    (s.readable [a] → s.reaches ea n needRead (m.order != .plain) locs base → s.soundSeen locs →
      let v := ofBytes (locs.map (fun l => (base.seen l).1))
      let got := if m.order = .acq ∨ m.order = .sc then base.observe locs v else base
      LeavesAt (.ld d a m off) s got d (if m.sign then wrap64 (signedOf (8 * n) v) else word v) (s.me.pc + 8) s.me.busyTo ∧
      got = { base with cores := got.cores } ∧
      ∀ c, { got.core c with rings := (base.core c).rings } = base.core c) ∧
    (s.readable [a, d] → s.reaches ea n needWrite (m.order != .plain) locs base → base.Inv → locs.Nodup → locs.all Loc.plain = true →
      base.holdsSlots locs →
      ∃ t, exec (.st d a m off) s = .next t ∧ WritesBytes base t locs ((s.rx d).toNat % 2 ^ (8 * n)) ∧ StoreFrame base t ∧
        t.me = { s.me with pc := s.me.pc + 8, held := none } ∧ (s.scrubHeld = none → t.poison = base.poison))

/-- R218, R219. -/
def Obligations.AtomicResults : Prop :=
  ∀ (s base : State) (d a b c : Reg) (m : AtomMod) (off : BitVec 20) (locs : List Loc),
    let ea := wrap64 ((s.rx a).toInt + off.toInt)
    let n := if m.dword then 8 else 4
    let old := ofBytes (locs.map base.locByte)
    let o := (s.rx b).toNat % 2 ^ (8 * n)
    let sgn (v : Nat) : Int := signedOf (8 * n) v
    let atom (i : Instr) (new : Nat) : Prop :=
      ∃ t, exec i s = .next t ∧ WritesBytes base t locs new ∧ StoreFrame base t ∧ t.poison = base.poison ∧
        (∀ r, t.rx r = if r = d ∧ r ≠ 0 then word old else s.rx r) ∧ t.me.pc = s.me.pc + 8 ∧
        { t.me with regs := s.me.regs, badRegs := s.me.badRegs, pc := s.me.pc, held := s.me.held } = s.me
    s.reaches ea n needBoth true locs base → s.sound locs → base.Inv → locs.Nodup → locs.all Loc.plain = true →
    base.holdsSlots locs →
    (s.readable [a, b] →
      atom (.aadd d a b m off) ((old + o) % 2 ^ (8 * n)) ∧ atom (.aand d a b m off) (old &&& o) ∧
      atom (.aor d a b m off) (old ||| o) ∧ atom (.axor d a b m off) (old ^^^ o) ∧
      atom (.amin d a b m off) (if sgn old ≤ sgn o then old else o) ∧
      atom (.amax d a b m off) (if sgn old ≤ sgn o then o else old) ∧
      atom (.aminu d a b m off) (min old o) ∧ atom (.amaxu d a b m off) (max old o) ∧ atom (.aswap d a b m off) o ∧
      atom (.afadd d a b m off) (afadd (if m.dword then fmtF64 else fmtF32) old o)) ∧
    (s.readable [a, b, c] →
      (old = (s.rx c).toNat % 2 ^ (8 * n) → atom (.acas d a b c m off) o) ∧
      (old ≠ (s.rx c).toNat % 2 ^ (8 * n) →
        LeavesAt (.acas d a b c m off) s base d (word old) (s.me.pc + 8) s.me.busyTo))

/-- R206, steps 1 to 5. -/
def Obligations.AccessChecks : Prop :=
  ∀ (s : State) (ag : Agent) (ea : Word) (n : Nat) (need : Need) (align : Bool), 0 < n →
    ((∃ k < n, canonical (word (ea.toNat + k)) = false) → checkVirtual s ag ea n need align = .error (0x03, ea)) ∧
    ((∀ k < n, canonical (word (ea.toNat + k)) = true) →
      (align = true → ea.toNat % n ≠ 0 → checkVirtual s ag ea n need align = .error (0x04, ea)) ∧
      (align = false ∨ ea.toNat % n = 0 → ea.toNat + n ≤ 2 ^ 64 →
        let bytes : List Nat := (List.range n).map (fun k => ea.toNat + k)
        (ag.svc = true → ag.phys = true →
          checkVirtual s ag ea n need align =
            if ea.toNat + n ≤ 2 ^ 44 then .ok ⟨bytes.map .mem, []⟩ else .error (0x06, ea)) ∧
        (ag.svc = true → ag.phys = false → (∃ b ∈ bytes, inAperture b = true) →
          checkVirtual s ag ea n need align = .error (0x06, ea)) ∧
        (ag.svc = false →
          ((∃ b ∈ bytes, placeOf b ≠ placeOf ea.toNat) → checkVirtual s ag ea n need align = .error (0x06, ea)) ∧
          ((∀ b ∈ bytes, inLocal b = true) →
            checkVirtual s ag ea n need align =
              if ag.homeCore < 4096 ∧ ∀ b ∈ bytes, b % 2 ^ 20 < 0xB0000 then
                .ok ⟨bytes.map (fun b => .scr ag.homeCore (b % 2 ^ 20)), []⟩
              else .error (0x06, ea)) ∧
          ((∀ b ∈ bytes, placeOf b = 3) → checkVirtual s ag ea n need align = .error (0x06, ea)) ∧
          ((∀ b ∈ bytes, inCluster b = true ∧ b / 2 ^ 20 = ea.toNat / 2 ^ 20) →
            let core := s.bound ag.lid (ag.role / 64 * 64 + ea.toNat / 2 ^ 20 % 64)
            (core = none ∨ (∃ b ∈ bytes, 0xB0000 ≤ b % 2 ^ 20) →
              checkVirtual s ag ea n need align = .error (0x06, ea)) ∧
            ((∀ b ∈ bytes, b % 2 ^ 20 < 0xB0000) → ∀ c, core = some c →
              checkVirtual s ag ea n need align = .ok ⟨bytes.map (fun b => .scr c (b % 2 ^ 20)), []⟩))) ∧
        (ag.svc = false ∨ ag.phys = false → (∀ b ∈ bytes, inAperture b = false ∧ b / 4096 = ea.toNat / 4096) →
          s.cache = [] → s.walks = [] → s.jobs = [] →
          let page := ea.toNat / 4096 * 4096
          (∀ c, walk s ag.job page = .error c → checkVirtual s ag ea n need align = .error (c, ea)) ∧
          (∀ tr, walk s ag.job page = .ok tr → leafC tr.leaf = false →
            (∀ c, denies ag need tr.leaf = some c → checkVirtual s ag ea n need align = .error (c, ea)) ∧
            (denies ag need tr.leaf = none → leafRpkg tr.leaf = 0xFF → s.migrations = [] → tr.level = 3 →
              checkVirtual s ag ea n need align =
                .ok ⟨bytes.map (fun b => .mem (leafPfn tr.leaf * 4096 + b % 4096)), [(ea.toNat / 4096, tr)]⟩)))))

/-- R206, R212, R213 and the RWS access code of R6. -/
def Obligations.AccessFailures : Prop :=
  ∀ (s : State) (d a b c : Reg) (m : MemMod) (am : AtomMod) (off : Word32) (o20 : BitVec 20) (sc : Scope), s.readable [a, b, c, d] →
    let ea := wrap64 ((s.rx a).toInt + off.toInt)
    let ea2 := wrap64 ((s.rx a).toInt + o20.toInt)
    let fails (i : Instr) (ea : Word) (n : Nat) (need : Need) (align : Bool) (poison : Bool) : Prop :=
      (∀ cause v, checkAccess s s.agent ea n need align = .error (.trap cause v) → Traps i s cause v) ∧
      (∀ t u, checkAccess s s.agent ea n need align = .error (.denied t u) →
        exec i s = .next (s.deny s.agent.master t u need.rd need.wr)) ∧
      (∀ acc, checkAccess s s.agent ea n need align = .ok acc →
        (poison = true → acc.poisoned s need.wr = true → Traps i s 0x09 ea) ∧
        (poison = false ∨ acc.poisoned s need.wr = false →
          (rwsBreach s.me.svc need acc = true → Traps i s 0x02 0) ∧
          (rwsBreach s.me.svc need acc = false →
            (∃ l ∈ acc.locs, match l with | .far p _ => s.routed p = false | _ => False) → Traps i s 0x14 ea)))
    let line (i : Instr) : Prop :=
      (∀ cause v, checkAccess s s.agent ea 1 needRead false = .error (.trap cause v) → Traps i s cause v) ∧
      (∀ t u, inAperture ea.toNat = false → checkAccess s s.agent ea 1 needRead false = .error (.denied t u) →
        exec i s = .next (s.deny s.agent.master t u true false)) ∧
      (∀ acc, inAperture ea.toNat = true → checkVirtual s s.agent ea 1 needRead false = .ok acc → JumpsTo i s (s.me.pc + 8)) ∧
      (∀ acc, checkAccess s s.agent ea 1 needRead false = .ok acc →
        (∃ l ∈ acc.locs, match l with | .far p _ => s.routed p = false | _ => False) → Traps i s 0x14 ea)
    let n := sizeBytes m.size
    let k := if am.dword then 8 else 4
    fails (.ld d a m off) ea n needRead (m.order != .plain) true ∧ fails (.st d a m off) ea n needWrite (m.order != .plain) false ∧
    line (.cwb a sc off) ∧ line (.cinv a sc off) ∧
    (∀ i ∈ [Instr.aadd d a b am o20, .aand d a b am o20, .aor d a b am o20, .axor d a b am o20, .amin d a b am o20,
        .amax d a b am o20, .aminu d a b am o20, .amaxu d a b am o20, .aswap d a b am o20, .acas d a b c am o20,
        .afadd d a b am o20], fails i ea2 k needBoth true true)

/-- R214, R215, R217 in a model whose accesses take effect whole and in order (log 4). -/
def Obligations.LinePrefetchFence : Prop :=
  ∀ (s : State) (a : Reg) (sc : Scope) (hint : Hint) (ord : Order) (off : Word32),
    JumpsTo (.pf a sc hint off) s (s.me.pc + 8) ∧ JumpsTo (.fence ord sc) s (s.me.pc + 8) ∧
    (s.readable [a] → ∀ acc, checkAccess s s.agent (wrap64 ((s.rx a).toInt + off.toInt)) 1 needRead false = .ok acc →
      let base := commitAccess s s.agent needRead acc
      (acc.far = none → LeavesAt (.cwb a sc off) s base 0 0 (s.me.pc + 8) s.me.busyTo ∧
        LeavesAt (.cinv a sc off) s base 0 0 (s.me.pc + 8) s.me.busyTo) ∧
      (∀ p pa, acc.locs = [.far p pa] → s.routed p = true → ∀ i ∈ [Instr.cwb a sc off, .cinv a sc off],
        ∃ t, exec i s = .next t ∧ t.me = { s.me with remote := some s.nextId } ∧
          t.out = base.out ++ [.pertor p pa (.read pa 1)]))

/-- R379. -/
def Obligations.TranslationMarks : Prop :=
  ∀ (s : State) (ag : Agent) (need : Need) (acc : Access), (∀ p ∈ acc.pages, p.2.leafAt + 8 ≤ hubBase) →
    s.Inv →
    let base := commitAccess s ag need acc
    base = { s with mem := base.mem, dead := base.dead, deadFrames := base.deadFrames, undef := base.undef, cache := base.cache, walks := base.walks, jobs := base.jobs } ∧
    ∀ pa, (∀ p ∈ acc.pages, pa < p.2.leafAt ∨ p.2.leafAt + 8 ≤ pa) → base.byteAt pa = s.byteAt pa

/-- R232, R233. -/
def Obligations.WaitaResults : Prop :=
  ∀ (s base : State) (d a b : Reg) (dword : Bool) (cond : BitVec 2) (locs : List Loc),
    let i : Instr := .waita d a b dword cond
    let n := if dword then 8 else 4
    let m := ofBytes (locs.map (fun l => (base.seen l).1))
    let x := (s.rx b).toNat % 2 ^ (8 * n)
    let met : Prop := (cond = 0 ∧ m = x) ∨ (cond = 1 ∧ m ≠ x) ∨ (cond = 2 ∧ signedOf (8 * n) x ≤ signedOf (8 * n) m) ∨
      (cond = 3 ∧ x ≤ m)
    (s.hold i).reaches (s.rx a) n needRead true locs base → (s.hold i).soundSeen locs → s.readable [a, b] →
    let result (j : Instr) : Prop :=
      (met → LeavesAt j s (base.observe locs m) d (word m) (s.me.pc + 8) s.me.busyTo) ∧
      (¬met → ∃ t, exec j s = .next t ∧ t.me.held = some i ∧ t.me.pc = s.me.pc ∧ t.me.regs = s.me.regs ∧
        t = base.setThr s.curKey t.me ∧ { t.me with heldFrom := s.me.heldFrom, held := s.me.held } = s.me)
    result i ∧ (s.me.held = some i → result .waitaReread)

/-- R234. -/
def Obligations.BarrierResults : Prop :=
  ∀ (s base : State) (a b : Reg) (sc : Scope) (locs : List Loc),
    let i : Instr := .bar a b sc
    let old := ofBytes (locs.map base.locByte)
    let n := if (s.rx b).toNat % 2 ^ 32 = 0 then 1 else (s.rx b).toNat % 2 ^ 32
    let g := old / 2 ^ 32
    let now := ofBytes (locs.map (fun l => (base.seen l).1)) / 2 ^ 32
    (s.hold i).sound locs → base.Inv → locs.Nodup → locs.all Loc.plain = true → base.holdsSlots locs → s.readable [a, b] →
    ((∀ x, s.me.theGen ≠ some (x, s.me.pc)) → (s.hold i).reaches (s.rx a) 8 needBoth true locs base →
      ∃ t, exec i s = .next t ∧ StoreFrame base t ∧
        (n ≤ old % 2 ^ 32 + 1 → WritesBytes base t locs ((g + 1) % 2 ^ 32 * 2 ^ 32) ∧ t.me.pc = s.me.pc + 8 ∧ t.me.held = none) ∧
        (old % 2 ^ 32 + 1 < n → WritesBytes base t locs (old + 1) ∧ t.me.pc = s.me.pc ∧ t.me.held = some i ∧
          t.me.theGen = some (g, s.me.pc))) ∧
    (∀ mine, s.me.theGen = some (mine, s.me.pc) → mine < 2 ^ 32 → s.me.held = some i → (s.hold i).reaches (s.rx a) 8 needBoth true locs base →
      ∃ t, exec .waitaReread s = .next t ∧ (∀ l, t.locByte l = base.locByte l) ∧ t.me.regs = s.me.regs ∧
        (now ≠ mine → t.me.pc = s.me.pc + 8 ∧ t.me.held = none ∧ t.me.theGen = none) ∧
        (now = mine → t.me.pc = s.me.pc ∧ t.me.held = some i ∧ t.me.theGen = some (mine, s.me.pc))) ∧
    -- A thread stopped after it had arrived last in another package opens the next generation.
    (∀ mine, s.me.theGen = some (mine, s.me.pc) → 2 ^ 32 ≤ mine → (s.hold i).reaches (s.rx a) 8 needWrite true locs base →
      ∃ t, exec i s = .next t ∧ StoreFrame base t ∧ WritesBytes base t locs ((mine + 1) % 2 ^ 32 * 2 ^ 32) ∧
        t.me.pc = s.me.pc + 8 ∧ t.me.held = none ∧ t.me.theGen = none)

/-- R235 to R237. That an `evpost` is held when the target's queue is full together with the events on their way to it is the model's choice
(log 38): R237 speaks of the queue alone. -/
def Obligations.EventResults : Prop :=
  ∀ (s : State) (d a b c : Reg),
    (s.me.svc = true → Traps (.evwait d) s 0x01 0 ∧ Traps (.evpost a b c) s 0x01 0) ∧
    (s.me.svc = false →
      (s.me.events = [] → ∃ t, exec (.evwait d) s = .next t ∧ t.me.held = some (.evwait d) ∧ t.me.pc = s.me.pc ∧
        t.me.regs = s.me.regs ∧ t.me.events = []) ∧
      (∀ e l, s.me.events = e :: l → 0 < d.toNat → d.toNat ≤ 62 → ∃ t, exec (.evwait d) s = .next t ∧
        (∀ r, t.rx r = if r = 0 then 0 else if r = d then e.d0 else if r = d + 1 then e.d1 else s.rx r) ∧
        t.me.events = l ∧ t.me.pc = s.me.pc + 8 ∧ t.me.held = none ∧ t = s.setThr s.curKey t.me) ∧
      (s.readable [a, b, c] →
        let lid := (s.taskOf s.me.task).lid
        let role := (s.taskOf s.me.task).role
        let r := (s.rx a).toNat % 4096
        let named (k : Nat) : Prop := r < (s.launchOf lid).img.groupsz ∧ r / 64 = role / 64 ∧
          ∃ core, s.bound lid r = some core ∧ k = 8 * core + (s.rx a).toNat / 4096 % 8 ∧ s.isLive k = true ∧
            handleLid (s.thr k).task = lid
        ((¬∃ k, named k) → JumpsTo (.evpost a b c) s (s.me.pc + 8)) ∧
        (∀ k, named k →
          (16 ≤ (s.thr k).events.length + s.eventsTo k → ∃ t, exec (.evpost a b c) s = .next t ∧
            t.me.held = some (.evpost a b c) ∧ t.me.pc = s.me.pc ∧ t.evFlight = s.evFlight) ∧
          ((s.thr k).events.length + s.eventsTo k < 16 → ∃ t, exec (.evpost a b c) s = .next t ∧
            t.evFlight = s.evFlight ++ [{
              id := s.nextId, ev := ⟨word ((s.rx b).toNat % 2 ^ 60), s.rx c⟩, task := (s.thr k).task,
              slot := (s.thr k).slot, ptask := s.me.task, pslot := s.me.slot, pkey := s.curKey }] ∧
            t.me = { s.me with pc := s.me.pc + 8, held := none } ∧
            { t with evFlight := s.evFlight, nextId := s.nextId } = s.setThr s.curKey t.me)))) ∧
    (∀ n e k, s.evFlight[n]? = some e → s.keyOf e.task e.slot = some k → (s.thr k).events.length < 16 →
      (∀ x ∈ s.evFlight.take n, x.id ≠ e.id ∧
        (x.ptask ≠ e.ptask ∨ x.pslot ≠ e.pslot ∨ x.task ≠ e.task ∨ x.slot ≠ e.slot)) →
      exec (.eventArrival e.id) s =
        .next ({ s with evFlight := s.evFlight.filter (fun x => x.id != e.id) }.setThr k
          { s.thr k with events := (s.thr k).events ++ [e.ev] }))

/-- R221, R222, R227. -/
def Obligations.QueuePushes : Prop :=
  ∀ (s : State) (a : Reg) (kind q : BitVec 4) (imm16 : BitVec 16),
    let x := s.myCore.queue q.toNat
    let task := s.taskOf s.me.task
    let trapen := task.trapenAt s.cyc
    let isArmed : Prop := bit trapen 0 = true ∧ task.trapvec ≠ 0 ∧ trapen.toNat / 2 ^ 16 % 2 ^ 16 ≤ s.me.qfullcnt.toNat
    let mayPush : Prop := s.me.svc = false ∧ s.me.helper = false ∧ x.decl = true ∧ x.xa = false
    let pushed (v : Word) : State :=
      (s.setCore s.cur.m (s.myCore.setQueue q.toNat { x with entries := x.entries ++ [⟨⟨kind, false, v⟩, s.cyc + 1, 0⟩] })).setThr
        s.curKey { s.me with pc := s.me.pc + 8, held := none }
    let full (i : Instr) : Prop :=
      let counted := s.setThr s.curKey { s.me with qfullcnt := s.me.qfullcnt + 1 }
      (isArmed → exec i s = .next (counted.trap 0x0A (word q.toNat))) ∧
      (¬isArmed → ∃ t, exec i s = .next t ∧ t.me.held = some i ∧ t.me.pc = s.me.pc ∧
        t.me.qfullcnt = s.me.qfullcnt + 1 ∧ t.me.regs = s.me.regs ∧ t = s.setThr s.curKey t.me)
    (mayPush → s.readable [a] → x.taken < x.cap → exec (.qpush a kind q) s = .next (pushed (s.rx a))) ∧
    (mayPush → x.taken < x.cap → exec (.qpushi imm16 kind q) s = .next (pushed (wrap64 imm16.toInt))) ∧
    (mayPush → s.readable [a] → x.cap ≤ x.taken → full (.qpush a kind q)) ∧
    (mayPush → x.cap ≤ x.taken → full (.qpushi imm16 kind q)) ∧
    (s.me.svc = true ∨ s.me.helper = true →
      Traps (.qpush a kind q) s 0x01 0 ∧ Traps (.qpushi imm16 kind q) s 0x01 0 ∧ Traps (.qpop a a q) s 0x01 0 ∧
      Traps (.qtry a a a q) s 0x01 0 ∧ Traps (.bqpop a) s 0x01 0 ∧ Traps (.bqtry a a) s 0x01 0 ∧ Traps (.qstat a q) s 0x01 0) ∧
    (s.me.svc = false → s.me.helper = false →
      x.decl = false ∨ x.xa = true → Traps (.qpush a kind q) s 0x01 0 ∧ Traps (.qpushi imm16 kind q) s 0x01 0) ∧
    (s.me.held = some (.qpush a kind q) → s.readable [a] →
      exec .blockedPushTakesEffect s = .next (if x.taken < x.cap then pushed (s.rx a) else s)) ∧
    (s.me.held = some (.qpushi imm16 kind q) →
      exec .blockedPushTakesEffect s = .next (if x.taken < x.cap then pushed (wrap64 imm16.toInt) else s))

/-- R223 to R225, R228. -/
def Obligations.QueuePops : Prop :=
  ∀ (s : State) (d b c : Reg) (q : BitVec 4),
    let x := s.myCore.queue q.toNat
    let task := s.taskOf s.me.task
    let trapen := task.trapenAt s.cyc
    let isArmed : Prop := bit trapen 1 = true ∧ task.trapvec ≠ 0 ∧ trapen.toNat / 2 ^ 32 % 2 ^ 16 ≤ s.me.lodcnt.toNat
    let without : Core := s.myCore.setQueue q.toNat { x with entries := x.entries.tail }
    let lod (i : Instr) (tval : Word) : Prop :=
      let counted := s.setThr s.curKey { s.me with lodcnt := s.me.lodcnt + 1 }
      (isArmed → exec i s = .next (counted.trap 0x0B tval)) ∧
      (¬isArmed → ∃ t, exec i s = .next t ∧ t.me.held = some i ∧ t.me.pc = s.me.pc ∧ t.me.lodcnt = s.me.lodcnt + 1 ∧
        t.me.regs = s.me.regs ∧ t = s.setThr s.curKey t.me)
    let blocked (t : State) : Prop := t.me.lodcyc = s.me.lodcyc + word (s.cyc - s.me.heldFrom)
    let done (t : State) (core : Core) : Prop :=
      t.me.pc = s.me.pc + 8 ∧ t.me.held = none ∧ t = (s.setCore s.cur.m core).setThr s.curKey t.me
    let took (t : State) (e : QEntry) (last : Reg → Word → Word) : Prop :=
      (∀ r, t.rx r = if r = 0 then 0 else last r (if r = b then word (e.tok.kind.toNat + if e.tok.poison then 16 else 0)
        else if r = d then e.tok.data else s.rx r)) ∧ done t without
    (s.me.svc = false → s.me.helper = false →
      (x.decl = false ∨ x.xa = false ∨ s.chained s.me.task q.toNat = true →
        Traps (.qpop d b q) s 0x01 0 ∧ Traps (.qtry d b c q) s 0x01 0) ∧
      (x.decl = false → Traps (.qstat d q) s 0x01 0) ∧
      (x.decl = true → Gives (.qstat d q) s d (s.queueSeen s.cur.m q.toNat) ∧
        (Tab.find s.prior s.cur.m = none → s.queueSeen s.cur.m q.toNat = x.status s.cyc)) ∧
      (x.decl = true → x.xa = true → s.chained s.me.task q.toNat = false →
        (∀ e, x.head s.cyc = some e →
          (e.tok.poison = true → b = 0 →
            Traps (.qpop d b q) s 0x09 (word q.toNat) ∧ Traps (.qtry d b c q) s 0x09 (word q.toNat)) ∧
          (e.tok.poison = false ∨ b ≠ 0 →
            (∃ t, exec (.qpop d b q) s = .next t ∧ took t e (fun _ v => v)) ∧
            (∃ t, exec (.qtry d b c q) s = .next t ∧ took t e (fun r v => if r = c then 1 else v)))) ∧
        (x.head s.cyc = none →
          lod (.qpop d b q) (word q.toNat) ∧
          ∃ t, exec (.qtry d b c q) s = .next t ∧ (∀ r, t.rx r = if r = d ∨ r = b ∨ r = c then 0 else s.rx r) ∧
            t.me.pc = s.me.pc + 8 ∧ t.me.held = none ∧ t = s.setThr s.curKey t.me)) ∧
      (s.myCore.bqHead s.cyc = none →
        lod (.bqpop d) 0x10 ∧
        ∃ t, exec (.bqtry d c) s = .next t ∧ (∀ r, t.rx r = if r = d ∨ r = c then 0 else s.rx r) ∧
          t.me.pc = s.me.pc + 8 ∧ t.me.held = none ∧ t = s.setThr s.curKey t.me) ∧
      (∀ v l, s.myCore.bq = v :: l → v.1 ≤ s.cyc →
        (∃ t, exec (.bqpop d) s = .next t ∧ (∀ r, t.rx r = if r = 0 then 0 else if r = d then word v.2.toNat else s.rx r) ∧
          done t { s.myCore with bq := l }) ∧
        (∃ t, exec (.bqtry d c) s = .next t ∧
          (∀ r, t.rx r = if r = 0 then 0 else if r = c then 1 else if r = d then word v.2.toNat else s.rx r) ∧
          done t { s.myCore with bq := l }))) ∧
    (s.me.held = some (.qpop d b q) →
      (x.head s.cyc = none → exec .blockedPopTakesEffect s = .next s) ∧
      (∀ e, x.head s.cyc = some e → e.tok.poison = false ∨ b ≠ 0 →
        ∃ t, exec .blockedPopTakesEffect s = .next t ∧ took t e (fun _ v => v) ∧ blocked t)) ∧
    (s.me.held = some (.bqpop d) →
      (s.myCore.bqHead s.cyc = none → exec .blockedPopTakesEffect s = .next s) ∧
      (∀ v l, s.myCore.bq = v :: l → v.1 ≤ s.cyc → ∃ t, exec .blockedPopTakesEffect s = .next t ∧
        t.rx d = (if d = 0 then 0 else word v.2.toNat) ∧ done t { s.myCore with bq := l } ∧ blocked t))

/-- R239, R242 to R244, R246, R247: issue. -/
def Obligations.CopyIssue : Prop :=
  ∀ (s : State) (d a b c : Reg) (ring : BitVec 3) (e : CopyMod),
    let k := e.token.toNat
    let tk := s.me.token k
    let payload := slotBytes ((s.core (s.taskOf s.me.task).core).ring ring.toNat).slot
    let total (func : Nat) : Nat :=
      if func = 0 then (s.rx c).toNat
      else if func = 1 then (s.rx c).toNat % 2 ^ 32 * ((s.rx (regPlus c 1)).toNat % 2 ^ 32)
      else payload + 256
    let pushes (i : Instr) (func : Nat) : Prop :=
      let cp := copyOf s func d a b c (if func < 2 then 0 else ring) e
      ∃ t, exec i s = .next t ∧
        (t.me.token k).pend = tk.pend + total func ∧ (t.me.token k).issued = tk.issued + 1 ∧ (t.me.token k).crc = tk.crc ∧
        (∀ j, j ≠ k → t.me.token j = s.me.token j) ∧ t.me.pc = s.me.pc + 8 ∧ t.me.held = none ∧ t.me.regs = s.me.regs ∧
        (let left := if total func = 0 then [] else [(0, total func)]
         t.myCore = { s.myCore with copies := s.myCore.copies ++ [{ cp with id := s.nextId, seq := tk.issued, left }] }) ∧
        t.mem = s.mem ∧ ∀ m, m ≠ s.cur.m → t.core m = s.core m
    let room (func : Nat) : Prop :=
      (s.myCore.copies.filter (fun x => !x.taken)).length < 32 ∧ (s.me.svc = true ∨ s.unfinished s.me.task < 64) ∧
      tk.pend + total func < 2 ^ 48
    let issue (i : Instr) (func : Nat) : Prop :=
      let cp := copyOf s func d a b c (if func < 2 then 0 else ring) e
      s.readable (copyRegs func d a b c) →
        (∀ cause v, copyCheck s s.agent cp = some (cause, v) → Traps i s cause v) ∧
        (copyCheck s s.agent cp = none →
          (room func → pushes i func) ∧
          (¬room func → ∃ t, exec i s = .next t ∧ t.me.held = some i ∧ t.me.pc = s.me.pc ∧ t.me.tokens = s.me.tokens ∧
            t.cores = s.cores ∧ t.mem = s.mem))
    let retry (i : Instr) (func : Nat) : Prop :=
      s.me.held = some i → s.readable (copyRegs func d a b c) → (room func → pushes .engineFifoPlaceFrees func) ∧
        (¬room func → exec .engineFifoPlaceFrees s = .next s)
    let bad (st : Word) (n : Nat) : Prop := 2 ^ 56 < st.toNat + n ∧ (st.toNat < 0xFF * 2 ^ 56 ∨ 2 ^ 64 < st.toNat + n)
    issue (.copy d a b c e) 0 ∧ issue (.copy2 d a b c e) 1 ∧ retry (.copy d a b c e) 0 ∧ retry (.copy2 d a b c e) 1 ∧
    retry (.copyr d a b c ring e) 2 ∧ retry (.copyrg d a b c ring e) 3 ∧
    (s.me.svc = true → Traps (.copyr d a b c ring e) s 0x01 0 ∧ Traps (.copyrg d a b c ring e) s 0x01 0) ∧
    (s.me.svc = false →
      let declared := ((s.core (s.taskOf s.me.task).core).ring ring.toNat).decl
      (declared = false → Traps (.copyr d a b c ring e) s 0x01 0 ∧ Traps (.copyrg d a b c ring e) s 0x01 0) ∧
      (declared = true → issue (.copyr d a b c ring e) 2 ∧ issue (.copyrg d a b c ring e) 3)) ∧
    (s.readable [d, a, b, c] →
      (e.flag = true → (s.me.svc = true ∨ (s.rx d).toNat % 4 ≠ 0 ∨ inAperture (s.rx d).toNat = false) →
        Traps (.copy d a b c e) s 0x15 (s.rx d)) ∧
      (e.flag = false →
        (2 ^ 40 ≤ total 0 → Traps (.copy d a b c e) s 0x15 (s.rx c)) ∧
        (0 < total 0 → total 0 < 2 ^ 40 →
          (bad (s.rx a) (total 0) → Traps (.copy d a b c e) s 0x15 (s.rx a)) ∧
          (¬bad (s.rx a) (total 0) → bad (s.rx b) (total 0) → Traps (.copy d a b c e) s 0x15 (s.rx b)))))

/-- R242, R245, R247 to R249, R252: COPY_CHUNK. The dropped chunk of a stranded copy and the slot at the tail now are the model's reading (log
39). -/
def Obligations.CopyChunkResults : Prop :=
  ∀ (s : State) (m id k : Nat) (c : Copy), (s.core m).copyById id = some c →
    (s.frozen.contains m = true → c.far = [] → exec (.copyChunk m id k) s = .next s) ∧
    (s.frozen.contains m = false →
      let taken := s.modCore m (fun x => x.modCopy id (fun c => { c with taken := true }))
      (c.left = [] → c.flag = false →
        exec (.copyChunk m id k) s = .next (taken.modCore m (fun x =>
          { x with copies := x.copies.filter (fun c => c.id != id) }))) ∧
      (∀ co off, c.left = [] → c.flag = true → flagLoc taken (copyAgent taken c) c.d = some (.scr co off) →
        denied taken m true true (.scr co off) = none → s.Inv →
        s.slotsHeld c.task c.slot ((List.range 4).map (fun i => .scr co (off + i))) →
        ∃ t, exec (.copyChunk m id k) s = .next t ∧ (t.core m).copyById id = none ∧
          WritesBytes s t ((List.range 4).map (fun i => .scr co (off + i)))
            ((ofBytes ((List.range 4).map (fun i => s.locByte (.scr co (off + i)))) + 1) % 2 ^ 32)) ∧
      (∀ lo hi, c.left.find? (fun p => p.1 ≤ k && k < p.2) = some (lo, hi) → c.finishes s m = false → c.far = [] → c.odd = [] →
        let P := payloadOf taken c
        let ring := copyRing taken c
        let before := slotOrder (taken.core m) c
        let slotOff := ring.slotAt ((ring.tail + before) % ring.depth)
        let ch := chunkAround taken c slotOff k lo hi
        let n := ch.2 - ch.1
        let ag := copyAgent taken c
        let home := (s.taskOf c.task).core
        let value (base : State) (locs : List Loc) : Nat := ofBytes (locs.map (fun l => (base.seen l).1))
        let apart (base : State) (locs : List Loc) : Prop := ∀ l ∈ locs, (c.sourceRuns base).any (l.inRun ·) = false
        let stops (base : State) (cause : Nat) (v : Word) : Prop :=
          exec (.copyChunk m id k) s = .next (base.modCore m (fun x => x.modCopy id (withhold s.cyc ch.1 cause v)))
        -- The bytes of `v` are written at `locs`, and the chunk is done; with the last one the copy goes on as one with nothing left.
        let delivers (base : State) (locs : List Loc) (v : Nat) (more : State → Prop) : Prop :=
          ∃ u x, WritesBytes base u locs v ∧ more u ∧
            (c.orphan = false → ((u.thr c.thr).token c.token).pend = ((s.thr c.thr).token c.token).pend - n) ∧
            (u.core m).copyById id = some x ∧ x.left = cutInterval c.left ch.1 ch.2 ∧ x.flag = c.flag ∧ x.d = c.d ∧
            (x.left ≠ [] → exec (.copyChunk m id k) s = .next u) ∧
            (x.left = [] → exec (.copyChunk m id k) s = exec (.copyChunk m id k) u)
        c.away.any (fun a => a.1 == ch.1) = false → c.stranded s = false →
        (c.stopped = true → ∀ w ∈ c.withheld, w.off ≠ ch.1) → 0 < n → s.Inv →
        (c.func ≤ 1 →
          (∀ cause v, checkAccess taken ag (c.srcAddr ch.1) n needRead false = .error (.trap cause v) → stops taken cause v) ∧
          (∀ src : Access, checkAccess taken ag (c.srcAddr ch.1) n needRead false = .ok src → src.far = none →
            let mid := commitAccess taken ag needRead src
            (∀ cause v, checkAccess mid ag (c.dstAddr ch.1) n needWrite false = .error (.trap cause v) → stops mid cause v) ∧
            (∀ dst : Access, checkAccess mid ag (c.dstAddr ch.1) n needWrite false = .ok dst → dst.far = none →
              let base := commitAccess mid ag needWrite dst
              dst.locs.Nodup → dst.locs.all Loc.plain = true → base.Inv →
              (∀ i < n, c.overlaps (c.dstAddr (ch.1 + i)) = false) → apart base dst.locs → s.slotsHeld c.task c.slot dst.locs →
              delivers base dst.locs (value taken src.locs) (fun _ => True)))) ∧
        (2 ≤ c.func → c.func ≤ 3 →
          (copyFits taken m c = false → exec (.copyChunk m id k) s = .next taken) ∧
          (copyFits taken m c = true → c.fills = some slotOff ∨ c.got = [] →
            let base := takeSlot taken m c slotOff
            let tile := (List.range n).map (fun o => tileLoc home slotOff P (ch.1 + o))
            (∀ l, base.locByte l = s.locByte l) ∧
            -- a row of the tensor, or what of it the chunk holds
            (ch.1 < P →
              let rb := P / 64
              let i := ch.1 / rb
              let cols := c.cols rb
              let j0 := max (ch.1 % rb) cols.1
              let j1 := min (ch.1 % rb + n) cols.2
              (c.func = 3 → Tab.find c.list i = none →
                ∀ src, checkAccess base ag (c.b + word (8 + 4 * i)) 4 needRead false = .ok src → src.far = none →
                  exec (.copyChunk m id k) s = .next ((commitAccess base ag needRead src).modCore m (fun x => x.modCopy id (fun x =>
                    { x with list := Tab.put x.list i (value base src.locs), withheld := x.withheld.filter (fun w => w.off != ch.1)
                             far := x.far.filter (fun f => f.lo != ch.1) })))) ∧
              (c.func = 2 ∨ Tab.find c.list i ≠ none →
                (c.sourceOf i = none ∨ j1 ≤ j0 → apart base tile → delivers base tile 0 (fun _ => True)) ∧
                (∀ b row, c.sourceOf i = some (b, row) → j0 < j1 →
                  let ea := c.tensorAddr b row (c.b0 + j0)
                  (spanBad ea (j1 - j0) = true → stops base 0x03 (c.tensorAddr b row (c.b0 + cols.1))) ∧
                  (spanBad ea (j1 - j0) = false →
                    (∀ cause v, checkAccess base ag ea (j1 - j0) needRead false = .error (.trap cause v) → stops base cause v) ∧
                    (∀ src, checkAccess base ag ea (j1 - j0) needRead false = .ok src → src.far = none →
                      let mid := commitAccess base ag needRead src
                      apart mid tile →
                      delivers mid tile (256 ^ (j0 - ch.1 % rb) * value base src.locs) (fun _ => True)))))) ∧
            -- the rest of the header
            (P < ch.1 →
              let o := ch.1 - P
              (o < 64 ∨ 128 ≤ o → apart base tile → delivers base tile 0 (fun _ => True)) ∧
              (64 ≤ o → o < 128 →
                (∀ cause v, checkAccess base ag (c.c3 + word (o - 64)) n needRead false = .error (.trap cause v) → stops base cause v) ∧
                (∀ src, checkAccess base ag (c.c3 + word (o - 64)) n needRead false = .ok src → src.far = none →
                  let mid := commitAccess base ag needRead src
                  apart mid tile → delivers mid tile (value base src.locs) (fun _ => True)))) ∧
            -- the descriptor
            (ch.1 = P →
              let publishes (base : State) (v : Nat) : Prop :=
                delivers base tile v (fun u => (u.core home).rings = ((base.core home).handshake s.cyc slotOff v true).rings)
              (before ≠ 0 ∨ c.left ≠ [ch] → exec (.copyChunk m id k) s = .next base) ∧
              (before = 0 → c.left = [ch] →
                (c.func = 2 → c.a ≠ 0 → publishes base c.a.toNat) ∧
                (c.func = 3 → ∀ src, checkAccess base ag c.b 8 needRead false = .ok src → src.far = none →
                  (value base src.locs = 0 → stops base 0x15 c.b) ∧
                  (value base src.locs ≠ 0 → publishes (commitAccess base ag needRead src) (value base src.locs)))))))))

/-- R245. -/
def Obligations.ChunkGeometry : Prop :=
  ∀ (s : State) (c : Copy) (p lo hi : Nat), c.func ≤ 1 → 0 < c.rowBytes → c.rowBytes < 2 ^ 40 → lo ≤ p → p < hi →
    let ch := chunkAround s c 0 p lo hi
    ch.1 ≤ p ∧ p < ch.2 ∧ lo ≤ ch.1 ∧ ch.2 ≤ hi ∧
    ∀ j, ch.1 ≤ j → j < ch.2 → j / c.rowBytes = p / c.rowBytes ∧
      (c.dstAddr j).toNat / 512 = (c.dstAddr p).toNat / 512 ∧ (c.dstAddr j).toNat / 4096 = (c.dstAddr p).toNat / 4096 ∧
      (c.srcAddr j).toNat / 4096 = (c.srcAddr p).toNat / 4096

/-- R251. -/
def Obligations.TokenInstructions : Prop :=
  (∀ (s : State) (d : Reg) (k : BitVec 3),
    let tk := s.me.token k.toNat
    (tk.pend = 0 → JumpsTo (.twait k) s (s.me.pc + 8)) ∧
    (tk.pend ≠ 0 → ∃ t, exec (.twait k) s = .next t ∧ t.me.held = some (.twait k) ∧ t.me.pc = s.me.pc ∧
      t.me.regs = s.me.regs ∧ t = s.setThr s.curKey t.me) ∧
    heldEvent (.twait k) = .twait k ∧
    (tk.pend < 2 ^ 48 → Gives (.tquery d k) s d (word tk.pend)) ∧
    (tk.pend ≠ 0 → Gives (.tqueryCrc d k) s d 0x8000000000000000) ∧
    (tk.pend = 0 → ∃ t, exec (.tqueryCrc d k) s = .next t ∧
      (∀ r, t.rx r = if r = d ∧ r ≠ 0 then word (~~~(crcBytes tk.crc (tk.parts.flatMap (·.2)))).toNat else s.rx r) ∧
      (t.me.token k.toNat).crc = 0xFFFFFFFF ∧ (t.me.token k.toNat).parts = [] ∧ (t.me.token k.toNat).pend = 0 ∧
      (∀ j, j ≠ k.toNat → t.me.token j = s.me.token j) ∧ t.me.pc = s.me.pc + 8 ∧ t = s.setThr s.curKey t.me)) ∧
  ~~~(crcBytes 0xFFFFFFFF (("123456789".toList.map (fun ch => BitVec.ofNat 8 ch.toNat)))) = 0xE3069283 ∧
  ~~~(crcBytes 0xFFFFFFFF []) = 0

/-- R254 to R259. -/
def Obligations.StreamSetup : Prop :=
  ∀ (s : State) (st : BitVec 3) (dim : BitVec 2) (a b : Reg) (q : BitVec 4) (sz : Size) (sc : Scope) (mask : BitVec 8),
    let m := s.cur.m
    let x := s.myCore.stream st.toNat
    let busy : Prop := x.state = .running ∨ x.state = .withholding
    let holds (i : Instr) : Prop :=
      ∃ t, exec i s = .next t ∧ t.me.held = some i ∧ t.me.pc = s.me.pc ∧ t = s.setThr s.curKey t.me
    /- the unit becomes `y` and its record says whether its window is open -/
    let window (i : Instr) (y : Stream) : Prop :=
      ∃ t, exec i s = .next t ∧ (t.core m).stream st.toNat = y ∧ (∀ u, u ≠ st.toNat → (t.core m).stream u = s.myCore.stream u) ∧
        { t.core m with streams := s.myCore.streams, lows := s.myCore.lows } = s.myCore ∧ (∀ c, c ≠ m → t.core c = s.core c) ∧
        t.me.pc = s.me.pc + 8 ∧ t.me.held = none ∧ t.me.regs = s.me.regs ∧
        (let r := s.sup.lwmtab * 2 ^ 22 + 32 * (32 * m + st.toNat)
         let kept : Prop := s.frozen.contains m = true ∨ s.myCore.lows ≠ []
         ((t.core m).lows = s.myCore.lows ∨
           (kept ∨ denied s m false true (.mem r) ≠ none) ∧ ∃ low, low.slot = st.toNat ∧ (t.core m).lows = s.myCore.lows ++ [low]) ∧
         (kept ∨ denied s m false true (.mem r) = none →
           t.me = { s.me with pc := s.me.pc + 8, held := none } ∧ t.frozen = s.frozen) ∧
         (r + 32 ≤ hubBase → s.Inv → ∀ pa, pa < r ∨ r + 32 ≤ pa → t.byteAt pa = s.byteAt pa))
    let sets (i : Instr) (y : Stream) : Prop :=
      (x.win = false → exec i s = .next (((s.setCore m (s.myCore.setStream st.toNat y)).setThr s.curKey
        { s.me with pc := s.me.pc + 8, held := none }))) ∧
      (x.win = true → window i { y with win := false })
    (s.me.svc = true ∨ s.me.helper = true →
      ∀ i ∈ [Instr.sbase st a, .sdim st dim a b, .sgoLd st q sz sc, .sgoSt st q sz sc, .sstop st, .sresume st, .sbar mask],
        Traps i s 0x01 0) ∧
    (s.me.svc = false → s.me.helper = false →
      (s.readable [a] →
        (¬busy → sets (.sbase st a) { x with base := s.rx a, state := .idle }) ∧ (busy → holds (.sbase st a))) ∧
      (s.readable [a, b] →
        (¬busy → sets (.sdim st dim a b) { x with counts := Tab.put x.counts dim.toNat ((s.rx a).toNat % 2 ^ 32),
                                                   strides := Tab.put x.strides dim.toNat (s.rx b), state := .idle }) ∧
        (busy → holds (.sdim st dim a b))) ∧
      (∀ store : Bool,
        let i : Instr := if store then .sgoSt st q sz sc else .sgoLd st q sz sc
        let qu := s.myCore.queue q.toNat
        let fits : Prop := qu.decl = true ∧ qu.xa = store
        let total := x.count 0 * x.count 1 * x.count 2 * x.count 3
        (¬fits → Traps i s 0x01 0) ∧
        (fits → busy → holds i) ∧
        (fits → ¬busy → window i { x with q := q.toNat, esize := sz, store, scope := sc, next := 0, owner := s.cur.t, away := none,
                                          got := none, state := if total = 0 then .idle else .running, win := total != 0 })) ∧
      (busy → ¬(x.store = true ∧ x.away.isSome = true) →
        window (.sstop st) { x with state := if x.discard = true then .idle else .stopped, away := none, got := none, stopping := false,
                                    discard := false, win := false }) ∧
      (busy → x.store = true → x.away.isSome = true → window (.sstop st) { x with stopping := true }) ∧
      (¬busy → JumpsTo (.sstop st) s (s.me.pc + 8)) ∧
      (x.state = .stopped → window (.sresume st) { x with state := .running, win := true }) ∧
      (x.state ≠ .stopped → JumpsTo (.sresume st) s (s.me.pc + 8)) ∧
      (let waits : Prop := ∃ u < 8, mask.getLsbD u = true ∧ (s.myCore.stream u).busy = true
       (waits → holds (.sbar mask)) ∧ (¬waits → JumpsTo (.sbar mask) s (s.me.pc + 8)))) ∧
    (s.me.held = some (.sgoLd st q sz sc) → ¬busy → (s.myCore.queue q.toNat).decl = true → (s.myCore.queue q.toNat).xa = false →
      window .engineFifoPlaceFrees { x with q := q.toNat, esize := sz, store := false, scope := sc, next := 0, owner := s.cur.t,
                                            away := none, got := none, state := if x.total = 0 then .idle else .running, win := x.total != 0 })

/-- R256, R260. That an engine's write of a register with RWS fields is withheld with PRIV is the model's reading (log 28). -/
def Obligations.StreamElementResults : Prop :=
  ∀ (s : State) (core u : Nat),
    let x := (s.core core).stream u
    let i : Instr := .streamElement core u
    let ea := x.addr x.next
    let w := sizeBytes x.esize
    let ag := unitAgent s core 0 (1 + u)
    let need := if x.store then needWrite else needRead
    let qu := (s.core core).queue x.q
    let withheld (cause : Nat) (v : Word) : Prop :=
      exec i s = .next (s.setCore core (((s.core core).setQueue x.q (qu.giveBack u)).setStream u { x with
        state := .withholding, cause, tval := v, away := none, got := none, fail := if x.state = .withholding then x.fail else s.cyc }))
    let advances (t : State) : Prop :=
      let y := { x with next := x.next + 1, away := none, got := none, stopping := false }
      let moved : Bool := y.low.toNat / 4096 != x.low.toNat / 4096
      (t.core core).stream u =
        if x.next + 1 < x.total then
          (if x.stopping = true then { y with state := if x.discard = true then .idle else .stopped, discard := false, win := false }
           else { y with state := .running, win := moved || x.win })
        else { y with state := .idle, discard := false, win := false }
    let pushes (v : Nat) (poison : Bool) : Prop :=
      ∃ t, exec i s = .next t ∧ advances t ∧
        (t.core core).queue x.q = { qu with entries := qu.entries ++ [⟨⟨0, poison, word v⟩, s.cyc + 1, 0⟩] }
    let waits : Prop := exec i s = .next (s.setCore core ((s.core core).setStream u { x with state := .running }))
    let head : Option QEntry := if s.headSent core x.q then none else qu.head s.cyc
    let busy : Prop := s.frozen.contains core = false ∧ (s.core core).lows = [] ∧ (x.state = .running ∨ x.state = .withholding)
    (s.frozen.contains core = true ∨ (s.core core).lows ≠ [] ∨ x.state = .idle ∨ x.state = .stopped ∨ (x.away.isSome = true ∧ x.got = none) →
      exec i s = .next s) ∧
    (∀ bs, busy → x.got = some bs →
      (qu.cap ≤ qu.taken → exec i s = .next s) ∧
      (qu.taken < qu.cap → pushes (ofBytes (bs.map (·.1))) (bs.any (·.2)))) ∧
    (busy → x.away = none → x.got = none →
      (x.stopping = false → ∀ cause v, checkAccess s ag ea w need true = .error (.trap cause v) → withheld cause v) ∧
      (x.stopping = false → ∀ acc, checkAccess s ag ea w need true = .ok acc → rwsBreach false need acc = true → withheld 0x02 0) ∧
      (∀ acc, checkAccess s ag ea w need true = .ok acc → acc.far = none → rwsBreach false need acc = false →
        let base := commitAccess s ag need acc
        (x.store = false →
          (qu.cap ≤ qu.taken → waits) ∧
          (qu.taken < qu.cap →
            pushes (ofBytes (acc.locs.map (fun l => (base.seen l).1))) (acc.locs.any (fun l => (base.seen l).2)))) ∧
        (x.store = true →
          (head = none → waits) ∧
          (∀ e, head = some e →
            (e.tok.kind ≠ 0 → x.stopping = false → withheld 0x0D ea) ∧
            (e.tok.kind = 0 → ∃ t, exec i s = .next t ∧ advances t ∧
              (t.core core).queue x.q = { qu with entries := qu.entries.tail } ∧
              (let r := s.sup.lwmtab * 2 ^ 22 + 32 * (32 * core + u)
               acc.locs.length = w → acc.locs.Nodup → acc.locs.all Loc.plain = true → base.Inv → r + 32 ≤ hubBase →
               base.slotsHeld (s.core core).home x.owner acc.locs →
               (∀ pa, .mem pa ∈ acc.locs → pa < r ∨ r + 32 ≤ pa) →
               ∀ k l, acc.locs[k]? = some l → t.locByte l = BitVec.ofNat 8 (e.tok.data.toNat / 256 ^ k)))))))

/-- R252: COPY_FAULT_TIMEOUT. R260: STREAM_FAULT_TIMEOUT. Which of several chunks that are due is reported is the model's choice (log 38). -/
def Obligations.EngineFaultReports : Prop :=
  (∀ (s : State) (m id : Nat) (c : Copy), (s.core m).copyById id = some c →
     let due (w : Withheld) : Prop := w.since + 8192 ≤ s.cyc ∧ w.cause ≠ 0x08 ∧ ∀ f ∈ c.far, f.lo ≠ w.off
     ((∀ w ∈ c.withheld, ¬due w) → exec (.copyFaultTimeout m id) s = .next s) ∧
     (∀ pre w l, c.withheld = pre ++ w :: l → (∀ p ∈ pre, ¬due p) → due w → c.stopped = false → c.orphan = false →
       (c.away ≠ [] ∨ c.far ≠ [] → exec (.copyFaultTimeout m id) s =
         .next (s.modCore m (fun k => k.modCopy id (fun c => { c with drains := true })))) ∧
       (c.away = [] → c.far = [] → ∃ t f, exec (.copyFaultTimeout m id) s = .next t ∧ (t.thr c.thr).waiting = (s.thr c.thr).waiting ++ [f] ∧
         f.cause = w.cause ∧ f.source = 1 ∧ f.tval = w.tval ∧ f.retry = .copy m id ∧
         f.detail = word (c.token * 2 ^ 61 + c.seq % 2 ^ 21 * 2 ^ 40 + w.off) ∧
         (∀ x, (t.core m).copyById id = some x → x = { c with stopped := true, drains := false }) ∧ t.mem = s.mem))) ∧
  (∀ (s : State) (core u : Nat),
     let x := (s.core core).stream u
     let k := 8 * core + x.owner
     (x.state ≠ .withholding ∨ s.cyc < x.fail + 8192 ∨ x.away.isSome = true → exec (.streamFaultTimeout core u) s = .next s) ∧
     (x.state = .withholding → x.fail + 8192 ≤ s.cyc → x.away = none →
       ∃ t f, exec (.streamFaultTimeout core u) s = .next t ∧ (t.core core).stream u = { x with state := .stopped } ∧
         (t.thr k).waiting = (s.thr k).waiting ++ [f] ∧ f.cause = x.cause ∧ f.source = 2 ∧ f.tval = x.tval ∧
         f.detail = word (u * 2 ^ 61 + x.next % 2 ^ 61) ∧ f.retry = .stream core u ∧ t.mem = s.mem))

/-- R262. -/
def Obligations.AllocResults : Prop :=
  ∀ (s : State) (d a b : Reg), s.readable [a, b] →
    let n := (s.rx a).toNat
    let job := s.agent.job
    let m := s.agent.master
    let place : Option Nat :=
      if s.rx b = 0 then (if s.me.svc then none else some (s.cur.m / 512))
      else if (s.rx b).toNat ≤ 9 then some (if s.rx b = 1 then 8 else (s.rx b).toNat - 2) else none
    (n = 0 ∨ 2 ^ 21 < n ∨ place = none → Gives (.alloc d a b) s d 0) ∧
    (∀ p k pool e, place = some p → 0 < n → n ≤ 64 * 2 ^ k → (∀ j < k, 64 * 2 ^ j < n) → k ≤ 15 →
      let s0 := s.keepJob job 1 pool
      jobWord s job 1 = .ok pool → hubReach s0 m job (pool + word ((16 * p + k) * 16)) 16 needBoth = .ok e → e.far = none →
      let s1 := hubCommit s0 m job needBoth e
      let v := ofBytes (e.locs.map s1.locByte)
      let top := v / 2 ^ 64 % 2 ^ 32
      (top = 0 → exec (.alloc d a b) s = .next (s1.trap 0x16 (word (16 * p + k)))) ∧
      (∀ s2 got, top ≠ 0 → e.locs.Nodup → e.locs.all Loc.plain = true → s2.Inv →
        (if d = 0 then s2 = s1 ∧ got = 0
         else ∃ acc, hubReach s1 m job (word (v % 2 ^ 64) + word (8 * (top - 1))) 8 needBoth = .ok acc ∧ acc.far = none ∧
          s2 = hubCommit s1 m job needBoth acc ∧ got = word (ofBytes (acc.locs.map s2.locByte))) →
        let size := 64 * 2 ^ k
        ∃ u, WritesBytes s2 u e.locs (v - 2 ^ 64) ∧ StoreFrame s2 u ∧ u.poison = s2.poison ∧ u.me = s.me ∧
          (let t := newBlock u m job got size
           exec (.alloc d a b) s = .next (if d = 0 then u.next else t.result d got) ∧
           { t with undef := u.undef } = u ∧
           ∀ pa, (∀ i lo, placeAt u m job (got + word (min size 4096 * i)) = some (.mem lo) → pa < lo ∨ lo + min size 4096 ≤ pa) →
             t.byteAt pa = u.byteAt pa)))

/-- R263, R264. -/
def Obligations.FreeResults : Prop :=
  ∀ (s : State) (a : Reg) (gmap heap len : Word), s.readable [a] →
    let job := s.agent.job
    let m := s.agent.master
    let ea := s.rx a
    let both (p : Instr → Prop) : Prop := p (.free a) ∧ p (.freeD a)
    jobWord s job 2 = .ok gmap → jobWord s job 3 = .ok heap → jobWord s job 4 = .ok len →
    (len.toNat ≤ (ea - heap).toNat → both (fun i => Traps i s 0x06 ea)) ∧
    (∀ g : Access, (ea - heap).toNat < len.toNat →
      let s0 := ((s.keepJob job 2 gmap).keepJob job 3 heap).keepJob job 4 len
      hubReach s0 m job (gmap + word ((ea - heap).toNat / 2 ^ 21)) 1 needRead = .ok g → g.far = none →
      let s1 := hubCommit s0 m job needRead g
      let v := ofBytes (g.locs.map (fun l => (s1.seen l).1))
      let cls := v % 16
      (v < 128 ∨ ea.toNat % (64 * 2 ^ cls) ≠ 0 → both (fun i => exec i s = .next (s1.trap 0x06 ea))) ∧
      (∀ blk pa more p pool (e : Access), 128 ≤ v → ea.toNat % (64 * 2 ^ cls) = 0 →
        checkVirtual s1 (hubAgent m job) ea 1 {} false = .ok blk → blk.locs = .mem pa :: more → placementAt pa = some p →
        let k1 := s1.keepJob job 1 pool
        jobWord s1 job 1 = .ok pool → hubReach k1 m job (pool + word ((16 * p + cls) * 16)) 16 needBoth = .ok e → e.far = none →
        let s2 := hubCommit k1 m job needBoth e
        let w := ofBytes (e.locs.map s2.locByte)
        let top := w / 2 ^ 64 % 2 ^ 32
        (top = w / 2 ^ 96 → both (fun i => exec i s = .next (s2.trap 0x06 ea))) ∧
        (∀ slot : Access, top ≠ w / 2 ^ 96 →
          hubReach s2 m job (word (w % 2 ^ 64) + word (8 * top)) 8 needBoth = .ok slot → slot.far = none →
          let s3 := hubCommit s2 m job needBoth slot
          slot.locs.length = 8 → e.locs.length = 16 → (slot.locs ++ e.locs).Nodup → (slot.locs ++ e.locs).all Loc.plain = true →
          s3.Inv → w < 2 ^ 128 → top + 1 < 2 ^ 32 →
          ∃ t, WritesBytes s3 t (slot.locs ++ e.locs) (ea.toNat + (w + 2 ^ 64) * 2 ^ 64) ∧ StoreFrame s3 t ∧ t.me = s.me ∧
            exec (.free a) s = .next t.next ∧
            (cls ≠ 15 → exec (.freeD a) s = .next t.next) ∧
            (cls = 15 →
              ∃ u, exec (.freeD a) s = .next u ∧ u.me = t.next.me ∧
                ∀ i < 512, ∀ pa, placeAt t m job (ea + word (4096 * i)) = some (.mem pa) →
                  ∀ x, x / 4096 = pa / 4096 → u.isDead x = true ∧ (isHub x = false → u.byteAt x = 0) ∧ u.poisoned x = false))))

/-- R266, R267, R269. The engine that serves a command is a free choice of Config; the order of nrecv's statuses, the alignment of
a counter and what is not judged at size 0 are the model's (log 22), and so is the wait for a frozen engine (log 26). -/
def Obligations.NetworkIssue : Prop :=
  ∀ (s : State) (d a : Reg) (sc : Scope),
    let job := s.agent.job
    let r (i : Nat) : Word := s.rx (regPlus a i)
    (∀ eptab (h e : Access), s.readable ((List.range 8).map (regPlus a)) → jobWord s job 5 = .ok eptab →
      let engine := Config.freeNat s.tick 12 0 % 8
      let m := 0x1040 + engine
      let ep := (r 0).toNat % 2 ^ 32
      (s.frozen.contains m = true → ∃ t, exec (.nsend d a sc) s = .next t ∧ t.me.held = some (.nsend d a sc) ∧ t.me.pc = s.me.pc ∧
        t = s.setThr s.curKey t.me) ∧
      (s.frozen.contains m = false →
      let s0 := s.keepJob job 5 eptab
      hubCheck s0 m job eptab 8 needRead = .ok h → h.far = none →
      let s1 := hubCommit s0 m job needRead h
      let hdr := ofBytes (h.locs.map (fun l => (s1.seen l).1))
      let status (bound : Bool) : Nat := nsendStatus bound r
      (hdr % 2 ^ 32 ≤ ep → LeavesAt (.nsend d a sc) s s1 d 1 (s.me.pc + 8) s.me.busyTo) ∧
      (ep < hdr % 2 ^ 32 → hubCheck s1 m job (eptab + word (64 + 32 * ep)) 32 needRead = .ok e → e.far = none →
        let s2 := hubCommit s1 m job needRead e
        let entry := e.locs.map (fun l => (s2.seen l).1)
        let d0 := dwordOf entry 0
        let bound : Bool := hdr / 2 ^ 32 % 2 ^ 32 == 0 && endpointOk (word (hdr % 2 ^ 32)) ep entry
        (status bound ≠ 0 → LeavesAt (.nsend d a sc) s s2 d (word (status bound)) (s.me.pc + 8) s.me.busyTo) ∧
        (status bound = 0 → 64 ≤ s.outstanding → ∃ t, exec (.nsend d a sc) s = .next t ∧ t.me.held = some (.nsend d a sc) ∧
          t.me.pc = s.me.pc ∧ t.msgs = s.msgs) ∧
        (status bound = 0 → s.outstanding < 64 →
          ∃ t, exec (.nsend d a sc) s = .next t ∧ t.me.pc = s.me.pc + 8 ∧
            (∀ x, t.rx x = if x = d ∧ x ≠ 0 then 0 else s.rx x) ∧ t.mem = s2.mem ∧
            (let msg : Msg :=
              { task := s.me.task, slot := s.msgSlot, engine, job, rjob := d0.toNat % 2 ^ 16, ports := d0.toNat / 2 ^ 32 % 256,
                fahi := dwordOf entry 1, falo := dwordOf entry 2, ring := (r 0).toNat / 2 ^ 32 % 256, ep,
                src := r 1, len := (r 2).toNat, tag := r 3, imm := r 4, crec := r 5 }
             t.msgs = Tab.put s.msgs s.nextId msg))))) ∧
    (s.readable ((List.range 4).map (regPlus a)) →
      let size := (r 1).toNat
      let key := 256 * job + (r 3).toNat % 256
      let old := Tab.find s.recvRings key
      let gives (n : Nat) : Prop := Gives (.nrecv d a) s d (word n)
      let badSize : Prop := size ≠ 0 ∧ bindOk (r 0) size (r 2) = false
      (old.isSome = true → size ≠ 0 → gives 1) ∧
      (old.isSome = false ∨ size = 0 →
        (badSize → gives 2) ∧
        (¬badSize →
          ((r 3).toNat / 256 ≠ 0 → gives 3) ∧
          ((r 3).toNat / 256 = 0 →
            (old = none → size = 0 → gives 4) ∧
            (old = none → size ≠ 0 → s.frozen.contains (0x1040 + Config.freeNat s.tick 13 0 % 8) = true →
              ∃ t, exec (.nrecv d a) s = .next t ∧ t.me.held = some (.nrecv d a) ∧ t.me.pc = s.me.pc ∧ t = s.setThr s.curKey t.me) ∧
            (∀ acc, old = none → size ≠ 0 → s.frozen.contains (0x1040 + Config.freeNat s.tick 13 0 % 8) = false →
              hubCheck s (0x1040 + Config.freeNat s.tick 13 0 % 8) job (r 0) 16 needWrite = .ok acc → acc.far = none →
              acc.locs.length = 16 → acc.locs.Nodup → acc.locs.all Loc.plain = true →
              let s1 := hubCommit s (0x1040 + Config.freeNat s.tick 13 0 % 8) job needWrite acc
              s1.Inv → ∃ t, exec (.nrecv d a) s = .next t ∧ t.me.pc = s.me.pc + 8 ∧ t.rx d = 0 ∧ WritesBytes s1 t acc.locs 0 ∧
                t.recvRings = Tab.put s.recvRings key { base := r 0, size, ctr := r 2 }) ∧
            (∀ x, old = some x → x.recs = [] →
              ∃ t, exec (.nrecv d a) s = .next t ∧ t.recvRings = Tab.del s.recvRings key ∧ t.rx d = 0 ∧ t.mem = s.mem ∧
                t.me.pc = s.me.pc + 8) ∧
            (∀ x, old = some x → x.recs ≠ [] →
              ∃ t, exec (.nrecv d a) s = .next t ∧ t.me.held = some (.nrecv d a) ∧ t.me.pc = s.me.pc ∧
                t.recvRings = Tab.put s.recvRings key { x with unbinding := true })))))

/-- R274, R275. -/
def Obligations.StorageDoorbell : Prop :=
  ∀ (s : State) (d a b : Reg) (sc : Scope) (tab : Word) (h : Access), s.readable [a, b] →
    let job := s.agent.job
    let m := s.agent.master
    let i := (s.rx a).toNat % 4096
    let head := (s.rx a).getLsbD 12
    let s0 := s.keepJob job 6 tab
    jobWord s job 6 = .ok tab → hubCheck s0 m job tab 8 needRead = .ok h → h.far = none →
    let s1 := hubCommit s0 m job needRead h
    let hdr := ofBytes (h.locs.map (fun l => (s1.seen l).1))
    (hdr % 2 ^ 32 ≤ i → LeavesAt (.ssubmit d a b sc) s s1 d 1 (s.me.pc + 8) s.me.busyTo) ∧
    (∀ e : Access, i < hdr % 2 ^ 32 → hubCheck s1 m job (tab + word (64 + 64 * i)) 64 needRead = .ok e → e.far = none →
      let s2 := hubCommit s1 m job needRead e
      let entry := e.locs.map (fun l => (s2.seen l).1)
      let bound : Bool := storageOk (word hdr) i entry
      let d0 := (dwordOf entry 0).toNat
      let size := (if head then d0 / 2 ^ 16 else d0 / 2 ^ 32) % 2 ^ 16 + 1
      let gives (n : Nat) : Prop := LeavesAt (.ssubmit d a b sc) s s2 d (word n) (s.me.pc + 8) s.me.busyTo
      (bound = false → gives 1) ∧
      (bound = true →
        (size ≤ (s.rx b).toNat → gives 2) ∧
        ((s.rx b).toNat < size →
          ((s.rx a).toNat / 2 ^ 13 ≠ 0 → gives 3) ∧
          ((s.rx a).toNat / 2 ^ 13 = 0 → ∃ t, exec (.ssubmit d a b sc) s = .next t ∧
            t.out = s2.out ++ [.doorbell (d0 % 4) (dwordOf entry (if head then 2 else 1)) (BitVec.ofNat 32 (s.rx b).toNat)] ∧
            (∀ r, t.rx r = if r = d ∧ r ≠ 0 then 0 else s.rx r) ∧ t.me.pc = s.me.pc + 8 ∧
            { t with out := s2.out } = s2.setThr s.curKey t.me))))

/-- R265, R268, R270. The timeout and the back-off are constants of Config. That a frozen engine leaves its messages as they are, answers
that arrive included, is the model's reading of 12 R389 (log 26). -/
def Obligations.PacketSends : Prop :=
  (∀ (s : State) (msg pkt port : Nat) (m : Msg), Tab.find s.msgs msg = some m →
    let master := 0x1040 + m.engine
    let ea := m.src + word (4096 * pkt)
    let n := min 4096 (m.len - 4096 * pkt)
    let sends : Prop := pkt < m.packets ∧ pkt ∉ m.acked ∧ m.backTo = none ∧ port < 8 ∧ m.ports.testBit port = true ∧
      port ∉ s.pkg.ethernetOff ∧ Tab.find m.flying pkt = none ∧ s.frozen.contains master = false ∧ s.msgHeld msg = false
    let m' : Msg := { m with flying := Tab.put m.flying pkt s.cyc, retx := m.retx.filter (· != pkt) }
    (¬sends → exec (.packetSend msg pkt port) s = .next s) ∧
    (∀ c v, sends → hubCheck s master m.job ea n needRead = .error (.trap c v) →
      ∃ t w, exec (.packetSend msg pkt port) s = .next t ∧ t.out = s.out ∧ t.msgs = s.msgs ∧ Tab.find t.hub s.nextId = some w ∧
        w.cause = c ∧ w.tval = v ∧ w.since = s.cyc ∧ w.act = .payload msg pkt port) ∧
    (∀ acc : Access, sends → hubCheck s master m.job ea n needRead = .ok acc → acc.far = none →
      let s1 := hubCommit s master m.job needRead acc
      let p : Packet :=
        { engine := m.engine, src := 0, msg, rjob := m.rjob, ring := m.ring, sep := m.ep, tag := m.tag, imm := m.imm, len := m.len,
          pkt, data := acc.locs.map (fun l => (s1.seen l).1) }
      let s2 : State := { s1 with msgs := Tab.put s.msgs msg m', out := s.out ++ [.packet port m.fahi m.falo p] }
      (pkt ∉ m.retx ∨ m.crec = 0 → exec (.packetSend msg pkt port) s = .next s2) ∧
      (∀ t, pkt ∈ m.retx → m.crec ≠ 0 → addField s2 master m.job (m.crec + 8) 4 1 = .ok t →
        exec (.packetSend msg pkt port) s = .next t))) ∧
  (∀ (s : State) (msg pkt at_ : Nat) (m : Msg), Tab.find s.msgs msg = some m → Tab.find m.flying pkt = some at_ →
    (s.cyc < at_ + Config.packetTimeout ∨ s.frozen.contains (0x1040 + m.engine) = true → exec (.packetTimeout msg pkt) s = .next s) ∧
    (s.frozen.contains (0x1040 + m.engine) = false → at_ + Config.packetTimeout ≤ s.cyc → exec (.packetTimeout msg pkt) s =
      .next { s with msgs := Tab.put s.msgs msg { m with flying := Tab.del m.flying pkt, retx := pkt :: m.retx } })) ∧
  (∀ (s : State) (msg at_ : Nat) (m : Msg), Tab.find s.msgs msg = some m → m.backTo = some at_ →
    (s.cyc < at_ ∨ s.frozen.contains (0x1040 + m.engine) = true → exec (.refusedForNowRetry msg) s = .next s) ∧
    (s.frozen.contains (0x1040 + m.engine) = false → at_ ≤ s.cyc → exec (.refusedForNowRetry msg) s =
      .next { s with msgs := Tab.put s.msgs msg { m with backTo := none, flying := [], retx := [] } })) ∧
  (∀ (s : State) (msg : Nat) (m : Msg), Tab.find s.msgs msg = some m →
    let master := 0x1040 + m.engine
    let waits : Msg := { m with backTo := some (s.cyc + Config.backOff) }
    let waiting : State := { s with msgs := Tab.put s.msgs msg waits }
    (s.frozen.contains master = true → ∀ x, exec (.ackReceived ⟨msg, x⟩) s = .next s) ∧
    (s.frozen.contains master = false →
    (∀ acked missing : List Nat, ∃ m2 : Msg,
      (∀ p, p ∈ m2.acked ↔ p ∈ m.acked ∨ (p ∈ acked ∧ p < m.packets)) ∧
      (∀ p, Tab.find m2.flying p = if p ∈ acked ∨ p ∈ missing then none else Tab.find m.flying p) ∧
      (∀ p, p ∈ m2.retx ↔ p ∉ acked ∧ (p ∈ m.retx ∨ (p ∈ missing ∧ Tab.find m.flying p ≠ none))) ∧
      (let all : Prop := ∀ p < m.packets, p ∈ m2.acked
       let s2 : State := { s with msgs := Tab.put s.msgs msg m2 }
       (¬all → exec (.ackReceived ⟨msg, .received acked missing⟩) s = .next s2) ∧
       (all → m.crec = 0 → exec (.ackReceived ⟨msg, .received acked missing⟩) s = .next { s with msgs := Tab.del s.msgs msg }) ∧
       (∀ u, all → m.crec ≠ 0 → addField s2 master m.job m.crec 8 1 = .ok u →
         exec (.ackReceived ⟨msg, .received acked missing⟩) s = .next { u with msgs := Tab.del s.msgs msg }))) ∧
    (m.backTo.isSome = true → exec (.ackReceived ⟨msg, .refusedForNow⟩) s = .next s) ∧
    (m.backTo = none →
      (m.crec = 0 → exec (.ackReceived ⟨msg, .refusedForNow⟩) s = .next waiting) ∧
      (∀ u, m.crec ≠ 0 → addField waiting master m.job (m.crec + 8) 4 1 = .ok u →
        exec (.ackReceived ⟨msg, .refusedForNow⟩) s = .next u)) ∧
    (m.crec = 0 → exec (.ackReceived ⟨msg, .refusedForGood⟩) s = .next { s with msgs := Tab.del s.msgs msg }) ∧
    (∀ u v, m.crec ≠ 0 → addField s master m.job (m.crec + 12) 4 1 = .ok u → addField u master m.job m.crec 8 1 = .ok v →
      exec (.ackReceived ⟨msg, .refusedForGood⟩) s = .next { v with msgs := Tab.del s.msgs msg }))) ∧
  (∀ (s : State) (master job w : Nat) (va : Word) (acc : Access), hubCheck s master job va w needBoth = .ok acc → acc.far = none →
    acc.locs.Nodup → acc.locs.all Loc.plain = true → (hubCommit s master job needBoth acc).Inv →
    let s1 := hubCommit s master job needBoth acc
    ∃ t, addField s master job va w 1 = .ok t ∧ WritesBytes s1 t acc.locs (ofBytes (acc.locs.map s1.locByte) + 1))

/-- R269 to R271: PACKET_ARRIVAL. -/
def Obligations.PacketArrivals : Prop :=
  (∀ (s : State) (p : Packet),
    let master := 0x1040 + p.engine % 8
    let key := 256 * p.rjob + p.ring
    let runs := exec (.packetArrival p) s
    let answers (u : State) (a : AckAnswer) : State := { u with out := u.out ++ [.answer p.src p.msg a] }
    let mine (y : RecvRec) : Bool := y.src == p.src && y.msg == p.msg
    let places (u : State) (x : RecvRing) (pos : Nat) (recs : List RecvRec) (got : List Nat) : Prop :=
      let got' := if got.contains p.pkt then got else p.pkt :: got
      let complete : Bool := got'.length == (p.len + 4095) / 4096
      let at_ := x.base + word (64 + pos)
      ∀ v w : State, (complete = true → x.ctr ≠ 0 → ∃ acc, hubCheck u master p.rjob x.ctr 8 needBoth = .ok acc) →
        hubWrites u master p.rjob ((at_ + word (64 + 4096 * p.pkt), p.data) ::
          (if complete then [(at_, toBytes 8 (p.len % 2 ^ 32))] else [])) = .ok v →
        (if complete = true ∧ x.ctr ≠ 0 then addField v master p.rjob x.ctr 8 1 = .ok w else w = v) →
        ∃ t, runs = .next t ∧ t.mem = w.mem ∧ t.out = w.out ++ [.answer p.src p.msg (.received got' [])] ∧
          t.recvRings = Tab.put s.recvRings key
            { x with recs := if complete then recs else { src := p.src, msg := p.msg, pos, got := got' } :: recs } ∧
          (complete = true → (p.src, p.msg) ∈ t.received)
    (s.frozen.contains master = true → runs = .next s) ∧
    (s.frozen.contains master = false →
      ((p.src, p.msg) ∈ s.received → runs = .next (answers s (.received (List.range ((p.len + 4095) / 4096)) []))) ∧
      ((p.src, p.msg) ∉ s.received →
        (Tab.find s.recvRings key = none → runs = .next (answers s .refusedForGood)) ∧
        (∀ x, Tab.find s.recvRings key = some x →
          (∀ r, x.recs.find? mine = some r → places s x r.pos (x.recs.filter (fun y => !(mine y))) r.got) ∧
          (x.recs.find? mine = none →
            (x.unbinding = true → runs = .next (answers s .refusedForGood)) ∧
            (∀ acc : Access, x.unbinding = false → hubCheck s master p.rjob x.base 8 needRead = .ok acc → acc.far = none →
              let s0 := hubCommit s master p.rjob needRead acc
              let head := ofBytes (acc.locs.map (fun l => (s0.seen l).1))
              let S := x.size - 64
              let L := 64 + (p.len + 63) / 64 * 64
              let pos := x.tail % S
              let room : Int := (S : Int) - ((x.tail : Int) - head)
              let begins (pad : List (Word × List Byte)) (pos tail : Nat) : Prop :=
                ∀ u, hubWrites s0 master p.rjob (pad ++ [(x.base + 8, toBytes 8 tail),
                    (x.base + word (64 + pos + 8), toBytes 8 (p.sep % 2 ^ 32) ++ toBytes 8 p.tag.toNat ++ toBytes 8 p.imm.toNat ++
                      List.replicate 32 0)]) = .ok u → places u { x with tail } pos x.recs []
              (S < L → runs = .next (answers s0 .refusedForGood)) ∧
              (L ≤ S → L ≤ S - pos → (L : Int) ≤ room → begins [] pos (x.tail + L)) ∧
              (L ≤ S → ¬(L ≤ S - pos ∧ (L : Int) ≤ room) → ((S - pos + L : Nat) : Int) ≤ room →
                begins [(x.base + word (64 + pos), toBytes 8 (2 ^ 63 + (S - pos)))] 0 (x.tail + (S - pos) + L)) ∧
              (L ≤ S → ¬(L ≤ S - pos ∧ (L : Int) ≤ room) → room < ((S - pos + L : Nat) : Int) →
                runs = .next (answers s0 .refusedForNow)))))))) ∧
  (∀ (s : State) (master job : Nat) (ea : Word) (data : List Byte) (acc : Access),
    hubCheck s master job ea data.length needWrite = .ok acc → acc.far = none → acc.locs.Nodup → acc.locs.all Loc.plain = true →
    (hubCommit s master job needWrite acc).Inv →
    ∃ t, hubWrites s master job [(ea, data)] = .ok t ∧ WritesBytes (hubCommit s master job needWrite acc) t acc.locs (ofBytes data))

/-- R285 to R288. -/
def Obligations.GraphStaging : Prop :=
  ∀ (s : State) (d a b c : Reg) (ut un : BitVec 4) (e : FEdgeF) (gid : BitVec 8),
    let m := s.cur.m
    let st := s.myCore.staging s.cur.t
    let key := 16 * ut.toNat + un.toNat
    let node : FNode := ⟨ut.toNat, un.toNat, s.rx d, s.rx a, s.rx b, s.rx c⟩
    let stages (i : Instr) (x : Staging) : Prop :=
      ∃ t, exec i s = .next t ∧ t.me.pc = s.me.pc + 8 ∧ t.me.held = none ∧ t.me.regs = s.me.regs ∧
        t.myCore = { s.myCore with stagings := Tab.put s.myCore.stagings s.cur.t x } ∧ (∀ k, k ≠ m → t.core k = s.core k) ∧
        t = { s.setThr s.curKey t.me with cores := t.cores }
    let holds (i : Instr) : Prop := ∃ t, exec i s = .next t ∧ t.me.held = some i ∧ t.me.pc = s.me.pc ∧ t.me.regs = s.me.regs ∧
      (t.myCore.staging s.cur.t).nodes = st.nodes ∧ t.myCore.graphs = s.myCore.graphs ∧ t.mem = s.mem
    let xa (q : BitVec 4) := (s.myCore.queue q.toNat).xa
    let declared (q : BitVec 4) := (s.myCore.queue q.toNat).decl = true
    (s.me.svc = true ∨ s.me.helper = true → Traps (.fnode d a b c ut un) s 0x01 0 ∧ Traps (.fedge e) s 0x01 0 ∧
      Traps (.fgo d gid) s 0x01 0 ∧ Traps (.fwait d gid) s 0x01 0 ∧ Traps (.fkill gid) s 0x01 0 ∧ Traps (.fresume gid) s 0x01 0) ∧
    (s.me.svc = false → s.me.helper = false →
      (ut = 5 → ¬declared un → Traps (.fnode d a b c ut un) s 0x01 0) ∧
      (ut ≠ 5 ∨ declared un → s.readable [d, a, b, c] →
        (s.myCore.nodeBusy s.cur.t key = false →
          stages (.fnode d a b c ut un) { st with nodes := Tab.put st.nodes key node }) ∧
        (s.myCore.nodeBusy s.cur.t key = true → holds (.fnode d a b c ut un)) ∧
        (s.myCore.nodeBusy s.cur.t key = true → s.me.held ≠ some (.fnode d a b c ut un) →
          ∃ t, exec (.fnode d a b c ut un) s = .next t ∧ (t.myCore.staging s.cur.t).busy = st.busy + 1)) ∧
      (e.srcType = 5 → ¬(declared e.srcIdx ∧ xa e.srcIdx = true) → Traps (.fedge e) s 0x01 0) ∧
      (e.srcType ≠ 5 ∨ (declared e.srcIdx ∧ xa e.srcIdx = true) →
        (e.dstType = 5 → ¬(declared e.dstIdx ∧ xa e.dstIdx = false) → Traps (.fedge e) s 0x01 0) ∧
        (e.dstType ≠ 5 ∨ (declared e.dstIdx ∧ xa e.dstIdx = false) →
          (st.edges.length < 48 → stages (.fedge e) { st with edges := st.edges ++ [e] }) ∧
          (48 ≤ st.edges.length → stages (.fedge e) { st with overflow := true }))) ∧
      ((Tab.find s.myCore.graphs gid.toNat).isSome = true → Gives (.fgo d gid) s d 1) ∧
      (Tab.find s.myCore.graphs gid.toNat = none →
        (st.nodes = [] → st.edges = [] → st.overflow = false → Gives (.fgo d gid) s d 3) ∧
        (st.nodes ≠ [] ∨ st.edges ≠ [] ∨ st.overflow = true →
          (let reason (r : Nat) : Prop := Gives (.fgo d gid) s d (word (2 + 256 * r))
           let node (k : Nat) : FNode := Tab.get ⟨0, 0, 0, 0, 0, 0⟩ st.nodes k
           let into (k p : Nat) : Nat := (st.edges.filter (fun x => dstOf x == k && x.dstPort.toNat == p)).length
           let ports (n : FNode) : Nat :=
             if n.utype = 5 ∧ (s.myCore.queue n.unit).xa = true then 0 else if 1 ≤ n.utype ∧ n.utype ≤ 3 then 2 else 1
           let emits (n : FNode) : List Nat :=
             if n.utype ≤ 2 then [3] else if n.utype = 3 then [2]
             else if n.utype = 4 then (if n.c.getLsbD 7 then [4] else [0]) else [0, 1, 2, 3]
           let takes (n : FNode) (p : Nat) : List Nat :=
             if n.utype = 0 then [2, 3] else if n.utype ≤ 2 then [3]
             else if n.utype = 3 then (if p = 0 then [2, 3] else [0, 1, 2, 3])
             else if n.utype = 4 then (if n.c.getLsbD 3 then [1, 3] else [2, 3]) else if n.utype = 6 then [4] else [0, 1, 2, 3]
           let zero (v : Word) (hi lo : Nat) : Prop := v.toNat / 2 ^ lo % 2 ^ (hi + 1 - lo) = 0
           let good (n : FNode) : Prop :=
             (n.utype = 0 → zero n.d 63 40 ∧ zero n.c 63 7 ∧ n.c.toNat / 16 % 8 ≠ 7 ∧ zero n.c 3 1 ∧
               (n.c.getLsbD 0 = true → zero n.a 63 32 ∧ n.b = 0)) ∧
             (n.utype = 4 → zero n.c 63 8 ∧ n.c.toNat / 16 % 8 ≠ 7 ∧ (n.c.getLsbD 7 = true → zero n.c 2 0)) ∧
             (n.utype = 5 → (s.myCore.queue n.unit).xa = true → zero n.a 63 3) ∧
             (n.utype = 6 → zero n.c 63 11 ∧ zero n.c 7 3 ∧ (s.myCore.ring (n.c.toNat % 8)).decl = true)
           let bad1 : Prop := ∃ x ∈ st.edges, Tab.find st.nodes (srcOf x) = none ∨ Tab.find st.nodes (dstOf x) = none
           let bad2 : Prop := ∃ k ∈ st.nodes.map (·.1), ∃ p < ports (node k), 1 < into k p ∨ (into k p = 0 ∧ (node k).utype ≠ 0)
           let bad3 : Prop := ∃ x ∈ st.edges,
             4 < (st.edges.filter (fun y => srcOf y == srcOf x && y.srcPort.toNat == x.srcPort.toNat)).length
           let bad4 : Prop :=
             (∃ x ∈ st.edges, ∀ k ∈ emits (node (srcOf x)), k ∉ takes (node (dstOf x)) x.dstPort.toNat) ∨
             ∃ n ∈ st.nodes, n.2.utype = 4 ∧ n.2.c.getLsbD 7 = true ∧ ∀ x ∈ st.edges, srcOf x ≠ n.1
           let bad6 : Prop := ¬∃ level : Nat → Nat, ∀ x ∈ st.edges, level (srcOf x) < level (dstOf x)
           let bad5 : Prop := rankAll s.myCore st (nodeOrder st) [] = none
           let bad7 : Prop := ∃ n ∈ st.nodes, ¬good n.2
           (st.overflow = true → reason 8) ∧
           ((st.nodes.map (·.1)).Pairwise (· < ·) → (∀ n ∈ st.nodes, n.1 = 16 * n.2.utype + n.2.unit ∧ n.2.unit < 16 ∧ n.2.utype ≤ 6) →
            st.overflow = false →
            (bad1 → reason 1) ∧
            (¬bad1 → (bad2 → reason 2) ∧
            (¬bad2 → (bad3 → reason 3) ∧
            (¬bad3 → (bad4 → reason 4) ∧
            (¬bad4 → (bad6 → reason 6) ∧
            (¬bad6 → (bad5 → reason 5) ∧
            (¬bad5 → (bad7 → reason 7) ∧ (¬bad7 → ∃ ranks, stagingCheck s.myCore st = .ok ranks)))))))) ∧
          (∀ r, stagingCheck s.myCore st = .error r → Gives (.fgo d gid) s d (word (2 + 256 * r))) ∧
          (∀ ranks, stagingCheck s.myCore st = .ok ranks → 16 ≤ s.myCore.graphs.length → holds (.fgo d gid)) ∧
          (∀ ranks, stagingCheck s.myCore st = .ok ranks → s.myCore.graphs.length < 16 →
            ∃ t g, exec (.fgo d gid) s = .next t ∧ Tab.find t.myCore.graphs gid.toNat = some g ∧ g.owner = s.cur.t ∧
              g.units.map (fun u => (u.1, u.2.node)) = st.nodes ∧ g.edges.map (·.e) = st.edges ∧ (∀ x ∈ g.edges, x.fifo = []) ∧
              (∀ u ∈ g.units, u.2.released = false ∧ u.2.fault = none) ∧ g.stopped = false ∧ g.busy = st.busy ∧
              t.myCore.staging s.cur.t = {} ∧ (∀ r, t.rx r = if r = d ∧ r ≠ 0 then 0 else s.rx r) ∧ t.me.pc = s.me.pc + 8 ∧
              t.mem = s.mem)))))

/-- R289, R291, R292, R301, R303, R307, R308. A unit's `stuck` is the cycle after the one in which its fork was first held back; the units of
a graph stand in the order of their keys 16 × UTYPE + UNIT, as `fgo` commits them. -/
def Obligations.GraphControl : Prop :=
  (∀ (s : State) (d : Reg) (gid : BitVec 8), s.me.svc = false → s.me.helper = false →
    let n := gid.toNat
    let goesOn : State := s.setThr s.curKey { s.me with pc := s.me.pc + 8, held := none }
    let reads (v : Word) : Prop := ∃ t, exec (.fwait d gid) s = .next t ∧ RegisterFrame s t ∧ t.me.pc = s.me.pc + 8 ∧
      t.me.held = none ∧ ∀ r, t.rx r = if r = d ∧ r ≠ 0 then v else s.rx r
    (Tab.find s.myCore.graphs n = none →
      reads (Tab.get 0xC000000000000000 s.myCore.fstatus n) ∧
      exec (.fkill gid) s = .next goesOn ∧ exec (.fresume gid) s = .next goesOn) ∧
    (∀ g, Tab.find s.myCore.graphs n = some g →
      let owner := thrKey s.cur.m g.owner
      let told : Prop := g.stopped = true ∧ g.dying = false ∧ ∀ f ∈ (s.thr owner).waiting, f.retry ≠ .graph s.cur.m n
      (told → reads (word (2 * 2 ^ 62 + g.named + min g.busy 0xFFF))) ∧
      (¬told → ∃ t, exec (.fwait d gid) s = .next t ∧ t.me.held = some (.fwait d gid) ∧ t.me.pc = s.me.pc ∧
        t.me.regs = s.me.regs ∧ t.cores = s.cores) ∧
      (s.me.held = none → (∀ u ∈ g.units, u.2.away = none) →
        ∃ t, exec (.fkill gid) s = .next t ∧ Tab.find t.myCore.graphs n = none ∧ t.me.pc = s.me.pc + 8 ∧ t.me.regs = s.me.regs ∧
          Tab.find t.myCore.fstatus n = some (word (2 ^ 62 + g.named + min g.busy 0xFFF)) ∧
          (∀ f ∈ (t.thr owner).waiting, f.retry ≠ .graph s.cur.m n)) ∧
      ((∃ u ∈ g.units, u.2.away.isSome = true) →
        ∃ t h, exec (.fkill gid) s = .next t ∧ Tab.find t.myCore.graphs n = some h ∧ t.me.pc = s.me.pc + 8 ∧ t.me.regs = s.me.regs ∧
          h = { g with stopped := true, dying := true, edges := g.edges.map (fun e => { e with fifo := [] }) } ∧
          (∀ f ∈ (t.thr owner).waiting, f.retry ≠ .graph s.cur.m n)) ∧
      (g.stopped = false ∨ g.dying = true → exec (.fresume gid) s = .next goesOn) ∧
      (g.stopped = true → g.dying = false → ∃ t h, exec (.fresume gid) s = .next t ∧ t.me.pc = s.me.pc + 8 ∧ Tab.find t.myCore.graphs n = some h ∧
        h.stopped = false ∧ h.edges = g.edges ∧ (∀ u ∈ h.units, u.2.fault = none) ∧
        h.units.map (fun u => (u.1, u.2.node)) = g.units.map (fun u => (u.1, u.2.node))))) ∧
  (∀ (s : State) (core gid : Nat),
    let runs (i : Instr) := exec i s
    let reports (i : Instr) (g : FGraph) (cause : Nat) (tval : Word) (named : Nat) : Prop :=
      ∃ t f, runs i = .next t ∧ (t.graph core gid).stopped = true ∧ (t.graph core gid).named = named ∧
        (t.graph core gid).edges = g.edges ∧
        (∀ x ∈ (t.graph core gid).units, x.1 ≠ 0x60 → x.2.away = none ∧ x.2.got = []) ∧ (t.thr (thrKey core g.owner)).waiting = (s.thr (thrKey core g.owner)).waiting ++ [f] ∧
        f.cause = cause ∧ f.source = 3 ∧ f.tval = tval ∧ f.retry = .graph core gid
    (Tab.find (s.core core).graphs gid = none → runs (.fibreFaultTimeout core gid) = .next s ∧
      runs (.graphSkew core gid) = .next s ∧ runs (.graphStall core gid) = .next s) ∧
    (∀ g, Tab.find (s.core core).graphs gid = some g →
      (g.stopped = true → runs (.fibreFaultTimeout core gid) = .next s ∧ runs (.graphSkew core gid) = .next s ∧
        runs (.graphStall core gid) = .next s) ∧
      (g.stopped = false →
        -- the edges an output port feeds, those of them that are full, and a port that the spill does not help either
        (let fed (key p : Nat) : List FEdge := g.edges.filter (fun e => srcOf e.e == key && e.e.srcPort.toNat == p)
         let full (key p : Nat) : Nat := ((fed key p).filter (fun e => 8 ≤ e.fifo.length)).length
         let spilled : Nat := (g.edges.map (fun e => e.fifo.length - 8)).sum
         let skew (key : Nat) (u : FUnit) : Prop :=
           u.stuck ≠ 0 ∧ u.stuck + 4096 ≤ s.cyc + 1 ∧ u.fault = none ∧
           ∃ p < 2, (∃ e ∈ fed key p, e.fifo = []) ∧ 120 < spilled + full key p ∧
             ∃ e ∈ fed key p, 8 ≤ e.fifo.length ∧ e.moved + 4096 ≤ s.cyc
         let due (key : Nat) (u : FUnit) : Prop :=
           u.released = false ∧ (skew key u ∨ ∃ f, u.fault = some f ∧ (f.retry = false ∨ f.since + 8192 ≤ s.cyc))
         (g.units.map (·.1)).Pairwise (· < ·) → ∀ i ∈ [Instr.fibreFaultTimeout core gid, .graphSkew core gid],
           ((∀ x ∈ g.units, ¬due x.1 x.2) → runs i = .next s) ∧
           (∀ key u, (key, u) ∈ g.units → due key u → (∀ x ∈ g.units, due x.1 x.2 → key ≤ x.1) →
             (∀ f, u.fault = some f → reports i g f.cause f.tval
               (key / 16 * 2 ^ 58 + key % 16 * 2 ^ 54 + f.port * 2 ^ 52 + Tab.get 0 u.idx f.port % 2 ^ 40 * 2 ^ 12)) ∧
             (u.fault = none → reports i g 0x0E (word (gid * 2 ^ 56 + key * 2 ^ 48 + Tab.get 0 u.idx 0 % 2 ^ 40))
               (key / 16 * 2 ^ 58 + key % 16 * 2 ^ 54 + Tab.get 0 u.idx 0 % 2 ^ 40 * 2 ^ 12)))) ∧
        (s.cyc < g.moved + 1048576 → runs (.graphStall core gid) = .next s) ∧
        (g.moved + 1048576 ≤ s.cyc → reports (.graphStall core gid) g 0x0F (word (gid * 2 ^ 56)) 0))))

/-- R293. -/
def Obligations.ScannerDecisions : Prop :=
  ∀ (s : State) (core key gid : Nat) (h : Tok), s.decides core gid key → s.heads core gid key 0 h →
    let u := s.unit core gid key
    let g := s.graph core gid
    let n := u.node.a.toNat % 2 ^ 32
    let k := h.kind.toNat
    let r := if h.kind = 3 then h.data.toNat / 2 ^ 32 else h.data.toNat % 2 ^ 40
    let room : Prop := g.accepts key 0 = true
    let pair (c q : Nat) (psn : Bool) : Tok := ⟨3, psn, word (q * 2 ^ 32 + c)⟩
    let runs := exec (.scannerDecision core key) s
    let moves (pops : List Nat) (emits : List (Nat × Tok)) (after : FUnit → Prop) : Prop :=
      ∃ t, runs = .next t ∧ FibreMoves s t core gid key pops emits ∧ after (t.unit core gid key)
    let faults (cause : Nat) : Prop := ∃ t f, runs = .next t ∧ FibreMoves s t core gid key [] [] ∧
      (t.unit core gid key).fault = some f ∧ f.cause = cause ∧ f.retry = false
    let step (dense : Bool) (r p hi c q : Nat) (psn : Bool) : Prop :=
      moves (if hi ≤ p + 1 then [0] else []) [(0, pair c q psn)] (fun t =>
        (hi ≤ p + 1 → t.active = false ∧ t.pending = true) ∧
        (p + 1 < hi → t.active = true ∧ t.r = r ∧ t.p = p + 1 ∧ t.hi = hi ∧ t.node.c.getLsbD 0 = dense))
    (¬room → (u.active = true → u.p < u.hi → moves [] [] (fun t => t.p = u.p)) ∧
      (u.active = false → 4 ≤ k → moves [] [] (fun t => t.pending = u.pending))) ∧
    (u.active = true →
      (u.hi ≤ u.p → moves [0] [] (fun t => t.active = false ∧ t.pending = true)) ∧
      (u.p < u.hi → room →
        (u.node.c.getLsbD 0 = true → u.hi < 2 ^ 32 →
          (u.r * u.hi + u.p < 2 ^ 32 - 1 → step true u.r u.p u.hi u.p (u.r * u.hi + u.p) false) ∧
          (2 ^ 32 - 1 ≤ u.r * u.hi + u.p → faults 0x0D)) ∧
        (∀ l top, u.node.c.getLsbD 0 = false → key < 16 → u.got = [] → u.win = some (l, top) →
          let ea := u.node.b + word (4 * u.p)
          top = u.node.b + word (4 * u.hi) - 1 → l.toNat / 4096 = ea.toNat / 4096 → l.toNat ≤ ea.toNat → u.p < 2 ^ 32 - 1 →
          (∀ c v, checkAccess s (unitAgent s core gid (16 + key)) ea 4 needRead true = .error (.trap c v) →
            ∃ t f, runs = .next t ∧ FibreMoves s t core gid key [] [] ∧ (t.unit core gid key).fault = some f ∧ f.cause = c ∧
              f.tval = v ∧ f.since = s.cyc) ∧
          (∀ acc : Access, checkAccess s (unitAgent s core gid (16 + key)) ea 4 needRead true = .ok acc → acc.far = none →
            step false u.r u.p u.hi (ofBytes (acc.locs.map (fun l => (s.seen l).1))) u.p (acc.locs.any (fun l => (s.seen l).2)))))) ∧
    (u.active = false →
      (u.pending = true → k < 4 ∨ k = 11 → room → moves [] [(0, ⟨4, false, 0⟩)] (fun t => t.pending = false ∧ t.active = false)) ∧
      (u.pending = false → k < 4 →
        (h.poison = true → faults 0x09) ∧
        (h.poison = false →
          (h.kind = 3 → r = 2 ^ 32 - 1 → moves [0] [] (fun t => t.active = false ∧ t.pending = true)) ∧
          (u.node.c.getLsbD 0 = true → ¬(h.kind = 3 ∧ r = 2 ^ 32 - 1) →
            (n = 0 → moves [0] [] (fun t => t.active = false ∧ t.pending = true)) ∧
            (0 < n → room → r * n < 2 ^ 32 - 1 → step true r 0 n 0 (r * n) false)))) ∧
      (4 ≤ k → k < 11 → room → moves [0] [(0, ⟨BitVec.ofNat 4 (k + 1), false, 0⟩)] (fun t => t.pending = false ∧ t.active = false)) ∧
      (k = 11 → u.pending = false → room →
        ∃ t, runs = .next t ∧
          (Tab.find (t.core core).graphs gid = none ∨
            (FibreMoves s t core gid key [0] [(0, ⟨11, false, 0⟩)] ∧ (t.unit core gid key).released = true)) ∧
          ((∃ e ∈ g.units, e.1 ≠ key ∧ e.2.released = false) → (t.unit core gid key).released = true)))

/-- R294, R295. -/
def Obligations.MergeDecisions : Prop :=
  ∀ (s : State) (core n gid : Nat) (h0 h1 : Tok),
    let moves (i : Instr) (key : Nat) (pops : List Nat) (emits : List (Nat × Tok)) (after : FUnit → Prop) : Prop :=
      ∃ t, exec i s = .next t ∧ FibreMoves s t core gid key pops emits ∧ after (t.unit core gid key)
    let faults (i : Instr) (key cause : Nat) : Prop := ∃ t f, exec i s = .next t ∧ FibreMoves s t core gid key [] [] ∧
      (t.unit core gid key).fault = some f ∧ f.cause = cause ∧ f.retry = false
    let ends (i : Instr) (key : Nat) (emits : List (Nat × Tok)) : Prop := ∃ t, exec i s = .next t ∧
      (Tab.find (t.core core).graphs gid = none ∨
        (FibreMoves s t core gid key [0, 1] emits ∧ (t.unit core gid key).released = true)) ∧
      ((∃ e ∈ (s.graph core gid).units, e.1 ≠ key ∧ e.2.released = false) → (t.unit core gid key).released = true)
    let k0 := h0.kind.toNat
    let k1 := h1.kind.toNat
    let crd (h : Tok) : Nat := h.data.toNat % 2 ^ 32
    let lone (h : Tok) : Tok := ⟨3, false, word (0xFFFFFFFF * 2 ^ 32 + crd h)⟩
    (∀ whisk : Bool,
      let key := if whisk then 0x20 + n else 0x10 + n
      let i : Instr := if whisk then .whiskDecision core n else .sieveDecision core n
      let u := s.unit core gid key
      let good (p : Nat) (h : Tok) : Prop := 4 ≤ h.kind.toNat ∨ (h.poison = false ∧ Tab.get 0 u.last p ≤ crd h)
      let room : Prop := (s.graph core gid).accepts key 0 = true ∧ (s.graph core gid).accepts key 1 = true
      s.decides core gid key → s.heads core gid key 0 h0 → s.heads core gid key 1 h1 →
      (k0 < 4 → h0.poison = true → faults i key 0x09) ∧
      (k0 < 4 → h0.poison = false → crd h0 < Tab.get 0 u.last 0 → faults i key 0x0D) ∧
      (good 0 h0 → k1 < 4 → h1.poison = true → faults i key 0x09) ∧
      (good 0 h0 → k1 < 4 → h1.poison = false → crd h1 < Tab.get 0 u.last 1 → faults i key 0x0D) ∧
      (good 0 h0 → good 1 h1 →
        (k0 < 4 → k1 < 4 → crd h0 = crd h1 → room → moves i key [0, 1] [(0, h0), (1, h1)] (fun t =>
          Tab.get 0 t.last 0 = crd h0 + 1 ∧ Tab.get 0 t.last 1 = crd h0 + 1)) ∧
        (k0 < 4 → ((4 ≤ k1 ∧ k1 < 11) ∨ (k1 < 4 ∧ crd h0 < crd h1)) → whisk = false ∨ room →
          moves i key [0] (if whisk then [(0, h0), (1, lone h0)] else []) (fun t => Tab.get 0 t.last 0 = crd h0 + 1)) ∧
        (k1 < 4 → ((4 ≤ k0 ∧ k0 < 11) ∨ (k0 < 4 ∧ crd h1 < crd h0)) → whisk = false ∨ room →
          moves i key [1] (if whisk then [(1, h1), (0, lone h1)] else []) (fun t => Tab.get 0 t.last 1 = crd h1 + 1)) ∧
        (4 ≤ k0 → 4 ≤ k1 → k0 ≠ k1 → faults i key 0x0D) ∧
        (k0 = 11 ∨ k1 = 11 → k0 ≠ k1 → faults i key 0x0D) ∧
        (4 ≤ k0 → k0 < 11 → k0 = k1 → room →
          moves i key [0, 1] [(0, ⟨h0.kind, false, 0⟩), (1, ⟨h0.kind, false, 0⟩)] (fun t => t.last = [])) ∧
        (k0 = 11 → k1 = 11 → room → ends i key [(0, ⟨11, false, 0⟩), (1, ⟨11, false, 0⟩)]))) ∧
    (let key := 0x30 + n
     let i : Instr := .repeaterDecision core n
     let u := s.unit core gid key
     let room : Prop := (s.graph core gid).accepts key 0 = true
     s.decides core gid key →
     (u.have_ = false → s.heads core gid key 0 h0 →
       (k0 < 4 → h0.poison = true → faults i key 0x09) ∧
       (k0 < 4 → h0.poison = false → moves i key [0] [] (fun t =>
         t.have_ = true ∧ t.r = if h0.kind = 3 then h0.data.toNat / 2 ^ 32 else h0.data.toNat % 2 ^ 40)) ∧
       (s.heads core gid key 1 h1 →
         (k0 = 11 → k1 = 11 → room → ends i key [(0, ⟨11, false, 0⟩)]) ∧
         (4 ≤ k0 → ¬(k0 = 11 ∧ k1 = 11) → faults i key 0x0D))) ∧
     (u.have_ = true → s.heads core gid key 1 h1 →
       (k1 < 4 → room → moves i key [1] [(0, ⟨2, h1.poison, word (u.r % 2 ^ 40)⟩)] (fun t => t.have_ = true ∧ t.r = u.r)) ∧
       (k1 = 4 → room → moves i key [1] [(0, ⟨4, false, 0⟩)] (fun t => t.have_ = false)) ∧
       (k1 = 11 → faults i key 0x0D) ∧
       (s.heads core gid key 0 h0 → 4 < k1 → k1 < 11 →
         (k0 + 1 = k1 → room → moves i key [0, 1] [(0, ⟨h1.kind, false, 0⟩)] (fun t => t.have_ = false)) ∧
         (k0 + 1 ≠ k1 → faults i key 0x0D))))

/-- R296, R297. Where another party has taken the slot at the ring's tail meanwhile, the rows so far are written to the one at the tail now:
the model's reading of R179 and R297 (log 39). -/
def Obligations.GatherDecisions : Prop :=
  (∀ (s : State) (core n gid : Nat) (h : Tok), n < 16 → s.decides core gid (0x40 + n) → s.heads core gid (0x40 + n) 0 h →
    let key := 0x40 + n
    let u := s.unit core gid key
    let g := s.graph core gid
    let k := h.kind.toNat
    let room : Prop := g.accepts key 0 = true
    let ref := if h.kind = 3 then h.data.toNat / 2 ^ 32 else h.data.toNat % 2 ^ 40
    let sel := if u.node.c.getLsbD 3 then h.data.toNat % 2 ^ 32 else ref
    let absent : Prop := h.kind = 3 ∧ u.node.c.getLsbD 3 = false ∧ sel = 2 ^ 32 - 1
    let ea := u.node.a + word sel * u.node.b
    let rows : Bool := u.node.c.getLsbD 7
    let s1 := openWindow s core gid key ea ea
    let ag := unitAgent s core gid (32 + n)
    let faults (i : Instr) (cause : Nat) (tval : Option Word) (retry : Bool) : Prop :=
      ∃ t f, exec i s = .next t ∧ FibreMoves s t core gid key [] [] ∧ (t.unit core gid key).fault = some f ∧ f.cause = cause ∧
        f.retry = retry ∧ f.since = s.cyc ∧ ∀ v, tval = some v → f.tval = v
    (rows = false →
      let moves (emits : List (Nat × Tok)) : Prop :=
        ∃ t, exec (.gatherDecision core n) s = .next t ∧ FibreMoves s t core gid key [0] emits
      let w := 2 ^ (u.node.c.toNat % 4)
      (4 ≤ k → k < 11 → room → moves [(0, ⟨h.kind, false, 0⟩)]) ∧
      (k = 11 → room → ∃ t, exec (.gatherDecision core n) s = .next t ∧
        (Tab.find (t.core core).graphs gid = none ∨
          (FibreMoves s t core gid key [0] [(0, ⟨11, false, 0⟩)] ∧ (t.unit core gid key).released = true)) ∧
        ((∃ e ∈ g.units, e.1 ≠ key ∧ e.2.released = false) → (t.unit core gid key).released = true)) ∧
      (k < 4 → h.poison = true → faults (.gatherDecision core n) 0x09 none false) ∧
      (k < 4 → h.poison = false → room →
        (absent → moves [(0, ⟨0, false, 0⟩)]) ∧
        (¬absent → s1.frozen.contains core = true →
          ∃ t, exec (.gatherDecision core n) s = .next t ∧ FibreMoves s t core gid key [] []) ∧
        (∀ c v, ¬absent → u.got = [] → s1.frozen.contains core = false → checkAccess s1 ag ea w needRead true = .error (.trap c v) →
          faults (.gatherDecision core n) c (some v) true) ∧
        (∀ acc : Access, ¬absent → u.got = [] → s1.frozen.contains core = false →
          checkAccess s1 ag ea w needRead true = .ok acc → acc.far = none →
          let v := ofBytes (acc.locs.map (fun l => (s1.seen l).1))
          let ext : Word := if u.node.c.getLsbD 2 then (if 2 ^ (8 * w - 1) ≤ v then word (v + 2 ^ 64 - 2 ^ (8 * w)) else word v) else word v
          moves [(0, ⟨0, acc.locs.any (fun l => (s1.seen l).2), ext⟩)]))) ∧
    (rows = true → k < 4 → h.poison = true → faults (.gatherRow core n) 0x09 none false) ∧
    (rows = true → k < 4 → h.poison = false →
      let y := s.unit core gid 0x60
      let ring := (s.core core).ring (y.node.c.toNat % 8)
      let P := slotBytes ring.slot
      let rb := P / 64
      let id := if y.slotId = 0 then s.nextId else y.slotId
      let at_ := if y.slotId = 0 then 0 else y.rows
      let place := cpeSlot (s.core core) y id
      /- the rows so far, and whether they stand in the slot at the tail -/
      let prior : List PByte := if y.slotId = 0 then [] else y.tile
      let stands : Prop := y.slotId = 0 ∨ y.tileAt = some place.2
      let first := place.2 + 256 + if stands then at_ * rb else 0
      let locs := (List.range (if stands then rb else prior.length + rb)).map (fun i => Loc.scr core (first + i))
      let tok := y.node.c.toNat / 2 ^ 8 % 8
      let pend (x : State) := ((x.thr (thrKey core g.owner)).token tok).pend
      let gives (base : State) (v : Nat) : Prop :=
        ∃ t, exec (.gatherRow core n) s = .next t ∧ FibreMoves s t core gid key [0] [] ∧
          WritesBytes base t locs (if stands then v else bytesOf prior + v * 256 ^ prior.length) ∧
          (t.unit core gid 0x60).rows = at_ + 1 ∧ (t.unit core gid 0x60).slotId = id ∧
          bytesOf (t.unit core gid 0x60).tile = bytesOf prior + v * 256 ^ prior.length ∧
          (t.unit core gid 0x60).tile.length = prior.length + rb ∧ (t.unit core gid 0x60).tileAt = some place.2 ∧
          Tab.get 0 (t.unit core gid 0x60).idx 0 = Tab.get 0 y.idx 0 + (if at_ + 1 = 64 then 0 else 1) ∧
          ((t.unit core gid 0x60).full = true ↔ at_ + 1 = 64) ∧
          pend t = pend s + (if y.slotId = 0 then P + 256 else 0) - rb
      let holds : Prop := ∃ t, exec (.gatherRow core n) s = .next t ∧ FibreMoves s t core gid key [] []
      (ring.depth ≤ ring.count + place.1 → holds) ∧
      (¬absent → s1.frozen.contains core = true → holds) ∧
      (y.full = false → s.Inv → ring.count + place.1 < ring.depth → prior.length = at_ * rb →
      (absent → gives s 0) ∧
      (∀ acc : Access, ¬absent → u.got = [] → s1.frozen.contains core = false → checkAccess s1 ag ea rb needRead false = .ok acc →
        acc.far = none →
        let base := commitAccess s1 ag needRead acc
        base.Inv → gives base (ofBytes (acc.locs.map (fun l => (s1.seen l).1)))))) ∧
    (rows = true → 4 ≤ k →
      let y := s.unit core gid 0x60
      let ring := (s.core core).ring (y.node.c.toNat % 8)
      let tok := y.node.c.toNat / 2 ^ 8 % 8
      let pend (x : State) := ((x.thr (thrKey core g.owner)).token tok).pend
      let opens := y.slotId = 0
      /- the token is popped; `full`: the slot of `cpe` is complete -/
      let pops (full : Bool) (more : Nat) : Prop :=
        ∃ t, exec (.gatherRow core n) s = .next t ∧ pend t = pend s + more ∧
          (k < 11 → FibreMoves s t core gid key [0] [] ∧ (t.unit core gid 0x60).full = full ∧ (t.unit core gid 0x60).elem = false) ∧
          (k = 11 → Tab.find (t.core core).graphs gid = none ∨ (FibreMoves s t core gid key [0] [] ∧
            (t.unit core gid key).released = true ∧ (t.unit core gid 0x60).ended = true ∧ (t.unit core gid 0x60).full = full ∧
            (full = false → (t.unit core gid 0x60).released = true)))
      (y.full = true → ∃ t, exec (.gatherRow core n) s = .next t ∧ FibreMoves s t core gid key [] []) ∧
      (y.full = false →
        (opens → y.elem = true ∨ k = 11 → pops false 0) ∧
        (¬opens ∨ (y.elem = false ∧ k < 11) →
          let place := cpeSlot (s.core core) y (if opens then s.nextId else y.slotId)
          (ring.count + place.1 < ring.depth → pops true (if opens then slotBytes ring.slot + 256 else 0)) ∧
          (ring.depth ≤ ring.count + place.1 → ∃ t, exec (.gatherRow core n) s = .next t ∧ FibreMoves s t core gid key [] []))))) ∧
  (∀ (s : State) (gid : Nat), s.decides s.cur.m gid 0x60 → s.Inv →
    let core := s.cur.m
    let u := s.unit core gid 0x60
    let i := u.node.c.toNat % 8
    let ring := (s.core core).ring i
    let rb := slotBytes ring.slot / 64
    let place := cpeSlot (s.core core) u u.slotId
    let left := (64 - u.rows) * rb
    let tok := u.node.c.toNat / 2 ^ 8 % 8
    let pend (x : State) := ((x.thr (thrKey core (s.graph core gid).owner)).token tok).pend
    (u.full = false ∨ place.1 ≠ 0 ∨ ring.depth ≤ ring.count → ∃ t, exec .cpeSlotPublish s = .next t ∧ (t.core core).rings = (s.core core).rings ∧
      (t.core core).scratch = (s.core core).scratch ∧ t.threads = s.threads) ∧
    /- published over `base`, with the scales `v`: the rows that stand in the slot at the tail stay -/
    let stands : Prop := u.tileAt = some place.2
    let publishes (base : State) (v : Nat) : Prop :=
      ∃ t, exec .cpeSlotPublish s = .next t ∧
        WritesBytes base t ((List.range 256).map (fun k => Loc.scr core (place.2 + k)) ++
          (List.range (if stands then left else 64 * rb)).map (fun k =>
            Loc.scr core (place.2 + 256 + (if stands then u.rows * rb else 0) + k)))
          (u.node.a.toNat + v * 2 ^ 512 + if stands then 0 else bytesOf u.tile * 2 ^ 2048) ∧
        (ring.decl = true → ring.tail < ring.depth → u.node.a ≠ 0 →
          (t.core core).ring i = { ring with tail := (ring.tail + 1) % ring.depth, count := ring.count + 1 }) ∧
        (u.ended = false → (t.unit core gid 0x60).slotId = 0 ∧ (t.unit core gid 0x60).full = false ∧
          (t.unit core gid 0x60).tile = [] ∧ Tab.get 0 (t.unit core gid 0x60).idx 0 = Tab.get 0 u.idx 0 + 1) ∧
        (u.ended = true → Tab.find (t.core core).graphs gid = none ∨ (t.unit core gid 0x60).released = true) ∧
        pend t = pend s - (256 + left)
    (u.full = true → place.1 = 0 → ring.count < ring.depth → u.slotId ≠ 0 → u.rows ≤ 64 → u.tile.length = u.rows * rb →
      (u.node.b = 0 → publishes s 0) ∧
      (∀ acc : Access, u.node.b ≠ 0 → u.got = [] → checkAccess s (fibreAgent s core gid 0x60) u.node.b 64 needRead false = .ok acc →
        acc.far = none →
        let base := commitAccess s (fibreAgent s core gid 0x60) needRead acc
        base.Inv → publishes base (ofBytes (acc.locs.map (fun l => (s.seen l).1))))))

/-- R346, R347, R351, R352, R422, R425, R434. That a service core's launch reads the image through the named job's translation (log 25),
that the host's launch acts as master 0x1058 (log 15), and the order 1, 3, 2 of `resume.task`'s statuses (log 38) are the model's reading. -/
def Obligations.LaunchResults : Prop :=
  (∀ (s : State) (d a : Reg), s.readable (if s.me.svc then [d, a] else [a]) →
    let rec_ := s.rx a
    let own := s.agent
    let job := if s.me.svc then (s.rx d).toNat / 2 ^ 48 else own.job
    let ag := if s.me.svc then { own with job := job, phys := false } else own
    (rec_.toNat % 128 ≠ 0 → Traps (.launch d a) s 0x04 rec_) ∧
    (rec_.toNat % 128 = 0 →
      (∀ c v, agentCheck s own rec_ 128 needRead = .error (.trap c v) → Traps (.launch d a) s c v) ∧
      (∀ acc : Access, agentCheck s own rec_ 128 needRead = .ok acc → acc.far = none →
        (∀ c v, agentCheck s own (rec_ + 72) 8 needWrite = .error (.trap c v) → Traps (.launch d a) s c v) ∧
        (∀ out : Access, agentCheck s own (rec_ + 72) 8 needWrite = .ok out → out.far = none →
          let s1 := commitAccess s own needRead acc
          let q := acc.locs.map (fun l => (s.seen l).1)
          (∀ c v, readTables s1 ag (recWord q 0) = .error (.trap c v) → Traps (.launch d a) s c v) ∧
          (∀ s2 r, readTables s1 ag (recWord q 0) = .ok (s2, r) →
            (∀ c v, loadSpans s2 ag (r.image.bodySpans (recWord q 0)) = .error (.trap c v) → Traps (.launch d a) s c v) ∧
            (∀ s3 bs, loadSpans s2 ag (r.image.bodySpans (recWord q 0)) = .ok (s3, bs) → chainRoute s1 q = true →
              let lid := job % 2 ^ 16 * 2 ^ 48 + s.seq * 2 ^ 12
              let n := validate s3 job lid q r
              (n ≠ 0 → LeavesAt (.launch d a) s s3 d (word n) (s.me.pc + 8) s.me.busyTo ∧ s3.launches = s.launches ∧
                s3.wgraphs = s.wgraphs ∧ s3.seq = s.seq) ∧
              (n = 0 → out.locs.Nodup → out.locs.all Loc.plain = true → (commitAccess s3 own needWrite out).Inv →
                ∃ t l, exec (.launch d a) s = .next t ∧ (∀ x, t.rx x = if x = d ∧ x ≠ 0 then 0 else s.rx x) ∧
                  t.me.pc = s.me.pc + 8 ∧ WritesBytes (commitAccess s3 own needWrite out) t out.locs lid ∧
                  t.launches = Tab.put s.launches lid l ∧ l.waiting = true ∧ l.job = job % 2 ^ 16 ∧ l.image = recWord q 0 ∧
                  l.arg = recWord q 1 ∧ l.lctr = recWord q 2 ∧ l.cls = recClass q ∧ l.eff = recClass q ∧ l.img = r.image ∧
                  l.joined = s.cyc ∧ l.left = r.image.groupsz ∧ l.preds = recPreds q ∧ l.chains = recChains q ∧
                  l.graph = (if recGnew q then lid else (recWord q 4).toNat) ∧
                  t.seq = (if s.seq = 2 ^ 36 - 1 then 1 else s.seq + 1) ∧ t.dirty = true))))))) ∧
  (∀ (s : State) (port : Nat) (lctl : Word),
    let p := Tab.get {} s.ports port
    let job := lctl.toNat % 2 ^ 16
    let q := (List.range 14).flatMap (fun i => toBytes 8 (Tab.get 0 p.dw i).toNat) ++ List.replicate 16 0
    let lid := job * 2 ^ 48 + s.seq * 2 ^ 12
    (s.cyc < p.busyTo → exec (.hostLaunch port lctl) s = .next s) ∧
    (port < 16 → p.busyTo ≤ s.cyc → s.pkg.safe = false →
      (∀ c v, tryLaunch s { master := 0x1058, job, svc := true } job q = .error (.trap c v) →
        ∃ t, exec (.hostLaunch port lctl) s = .next t ∧ (Tab.get {} t.ports port).status = 4 ∧ t.launches = s.launches ∧
          t.mem = s.mem) ∧
      (∀ u n, tryLaunch s { master := 0x1058, job, svc := true } job q = .ok (u, n) →
        ∃ t, exec (.hostLaunch port lctl) s = .next t ∧ (Tab.get {} t.ports port).status = n ∧ t.launches = u.launches ∧
          s.cyc < (Tab.get {} t.ports port).busyTo ∧
          (n = 0 → Tab.get 0 (Tab.get {} t.ports port).dw 9 = word lid ∧ (Tab.find t.launches lid).any (·.waiting) = true) ∧
          (n ≠ 0 → t.launches = s.launches ∧ (Tab.get {} t.ports port).dw = p.dw)))) ∧
  (∀ (s : State) (d a : Reg), s.readable [a] →
    let pa := (s.rx a).toNat
    let queued (i : Instr) (id : Nat) (status : Word) (ret : Word) : Prop :=
      ∃ t, exec i s = .next t ∧ (∀ x, t.rx x = if x = d ∧ x ≠ 0 then 0 else s.rx x) ∧ t.me.pc = s.me.pc + 8 ∧ t.mem = s.mem ∧
        (t.taskOf id).life = .queued ∧ (t.taskOf id).area = pa ∧ (t.taskOf id).joined = s.cyc ∧ t.dirty = true ∧
        (t.taskOf id).eff = (s.launchOf (handleLid id)).cls ∧
        (∀ slot r, (s.taskOf id).caller = some (slot, r) → 1 ≤ r → r ≤ 62 → (∃ d' a', i = .spawn d' a') →
          (Tab.get {} (t.taskOf id).privThreads slot).reg (BitVec.ofNat 6 r) = status ∧
          (Tab.get {} (t.taskOf id).privThreads slot).reg (BitVec.ofNat 6 (r + 1)) = ret)
    (s.me.svc = false → Gives (.spawn d a) s d 0x0C ∧ Traps (.resumeTask d a) s 0x02 0) ∧
    (s.me.svc = true →
      (areaOk pa = false → Gives (.spawn d a) s d 0x09 ∧ Gives (.resumeTask d a) s d 1) ∧
      (areaOk pa = true → pathDenied s s.cur.m pa 0x105000 true false = none →
        (savedAt s pa 0x18 = none → Gives (.spawn d a) s d 0x09) ∧
        (∀ id, savedAt s pa 0x18 = some id →
          (4096 ≤ s.waiting → Gives (.spawn d a) s d 0x0B) ∧
          (s.waiting < 4096 → queued (.spawn d a) id (word (s.dword (pa + 0x90) % 2 ^ 32)) (word (s.dword (pa + 0x98))))) ∧
        (let h := s.dword pa
         let good : Prop := s.poisonedIn pa 16 = false ∧ h / 2 ^ 48 = 0x17 ∧ h / 2 ^ 32 % 2 ^ 16 = 1 ∧ h % 2 ^ 32 = 0x53415645
         (¬good → Gives (.resumeTask d a) s d 1) ∧
         (good → savedAt s pa 0x17 = none → Gives (.resumeTask d a) s d 3) ∧
         (∀ id, good → savedAt s pa 0x17 = some id → 4096 ≤ s.waiting → Gives (.resumeTask d a) s d 2) ∧
         (∀ id, good → s.waiting < 4096 → savedAt s pa 0x17 = some id → queued (.resumeTask d a) id 0 0))))) ∧
  (∀ (s : State) (port : Nat) (lctl : Word), port < 16 → s.pkg.safe = true →
    s.hubDword (0x10000 + 128 * port + 8 * 15) = 0xFE * 2 ^ 16 ∧ exec (.hostLaunch port lctl) s = .next s) ∧
  /- the table of R347, for a record `q` and an image `r` -/
  (∀ (s : State) (job lid : Nat) (q : Record) (r : RawImage),
    let status := validate s job lid q r
    let i := r.image
    let ctl := (recWord q 3).toNat
    let bad1 : Prop := r.h 0 4 ≠ 0x0A4E4B41 ∨ r.h 4 2 ≠ 1
    let bad2 : Prop := recWord q 14 ≠ 0 ∨ recWord q 15 ≠ 0 ∨ 2 ^ 10 ≤ ctl ∨ ctl.testBit 7 = true ∨ r.h 44 4 ≠ 0 ∨ r.h 248 8 ≠ 0 ∨
      (∃ k < 16, r.h (48 + 4 * k) 4 % 2 ^ 23 ≠ 0) ∨ (∃ k < 8, r.h (112 + 8 * k) 8 / 2 ^ 20 % 2 ^ 35 ≠ 0) ∨
      (∃ k < 8, r.h (176 + 8 * k) 8 / 2 ^ 40 ≠ 0)
    let bad3 : Prop := r.h 8 1 = 0 ∨ 4 < r.h 8 1 ∨ r.h 6 2 = 0 ∨ 4096 < r.h 6 2 ∨ 8 < r.h 9 1 ∨ 16 < r.h 10 1 ∨ 32 < r.h 11 1 ∨
      (∃ k < 4, 512 < r.h (36 + 2 * k) 2) ∨ 4 < ctl / 2 ^ 4 % 8 ∨ 2 < ctl / 2 ^ 8 % 4
    let bad4 : Prop := (recWord q 0).toNat % 4096 ≠ 0 ∨ r.h 12 4 % 8 ≠ 0 ∨ r.h 16 4 = 0 ∨ r.h 16 4 % 8 ≠ 0 ∨
      (∃ k < 4, r.h (20 + 4 * k) 4 % 32 ≠ 0) ∨ r.h 240 4 % 8 ≠ 0 ∨ r.h 244 4 % 8 ≠ 0
    let bad5 : Prop := (∃ x ∈ i.queues, x.decl = true ∧ (x.cap < 4 ∨ 64 < x.cap)) ∨
      512 < ((i.queues.filter (·.decl)).map (·.cap)).sum
    let bad6 : Prop := (∃ x ∈ i.rings, x.decl = true ∧ (x.slot = 3 ∨ x.depth < 2 ∨ 32 < x.depth ∨ x.base % 256 ≠ 0 ∨
        0xB0000 < x.base + x.depth * (256 + slotBytes x.slot))) ∨
      (∃ x ∈ i.scratch, x.size = 0 ∨ x.size % 64 ≠ 0 ∨ x.base % 256 ≠ 0 ∨ 0xB0000 < x.base + x.size)
    let bad7 : Prop := (∃ e ∈ i.roleData, i.groupsz ≤ e.hi) ∨ (∃ b < i.blocks, ∃ x ∈ i.dies b, ∃ y ∈ i.dies b, x ≠ y) ∨
      (∃ t < i.groupsz, 4 < (i.helpers.filter (fun h => (i.hostRole t (-h.roff)).isSome)).length)
    let bad8 : Prop := placeBlocks s.emptied i (List.range i.blocks) {} = none
    let g := (recWord q 4).toNat
    let gnew := ctl.testBit 2
    let bad9 : Prop := (∃ p ∈ recPreds q, p / 2 ^ 48 ≠ job) ∨
      (gnew = false ∧ g ≠ 0 ∧ ∀ x, Tab.find s.wgraphs g = some x → x.job ≠ job ∨ x.sealed = true ∨ x.cancelled = true) ∨
      (gnew = true ∧ ctl.testBit 3 = true ∧ ctl / 2 ^ 4 % 8 ≠ 0)
    let counter (a : Word) : Prop := a ≠ 0 ∧ (a.toNat % 8 ≠ 0 ∨ canonical a = false ∨ inAperture a.toNat = true)
    let bad10 : Prop := counter (recWord q 2) ∨ (gnew = true ∧ counter (recWord q 4))
    (bad1 → status = 1) ∧
    (¬bad1 → (bad2 → status = 2) ∧ (reservedBad q r = false →
      (bad3 → status = 3) ∧
      (¬bad3 → (bad4 → status = 4) ∧ (offsetBad q r = false →
        (bad5 → status = 5) ∧
        (¬bad5 → (bad6 → status = 6) ∧ (regionsBad i = false →
          (bad7 → status = 7) ∧ (rolesBad i = false →
            (bad8 → status = 8) ∧
            (¬bad8 → (bad9 → status = 9) ∧
              (¬bad9 → (bad10 → status = 0xA) ∧
                (¬bad10 → (4096 ≤ s.waiting → status = 0xB) ∧
                  (s.waiting < 4096 → status = if (recChains q).any (chainBad s job lid i) then 0xD else 0))))))))))))

/-- R348, R349. That only launches, not continued tasks, hold a reservation is the model's reading (log 16). -/
def Obligations.LaunchQueue : Prop :=
  (∀ s : State,
    s.launchQueue.Pairwise (fun a b => b.eff < a.eff ∨
      (a.eff = b.eff ∧ (a.joined < b.joined ∨ (a.joined = b.joined ∧ a.ord ≤ b.ord)))) ∧
    (∀ e ∈ s.launches, e.2.waiting = true → (⟨e.2.eff, e.2.joined, e.2.ord, e.1, false⟩ : Waiter) ∈ s.launchQueue) ∧
    (s.dirty = false ∨ s.pkg.overcap = true → exec .placementRound s = .next s) ∧
    (s.reservation.isSome = true → exec .launchReservation s = .next s) ∧
    (s.reservation = none →
      ((∀ w ∈ s.launchQueue, w.saved = true ∨ w.eff ≠ 3 ∨ s.predsEnded (s.launchOf w.id) = false) →
        exec .launchReservation s = .next s) ∧
      (∀ l1 w l2, s.launchQueue = l1 ++ w :: l2 → w.saved = false → w.eff = 3 → s.predsEnded (s.launchOf w.id) = true →
        (∀ x ∈ l1, x.saved = true ∨ x.eff ≠ 3 ∨ s.predsEnded (s.launchOf x.id) = false) →
        (s.cyc < w.joined + 2 ^ 22 → exec .launchReservation s = .next s) ∧
        (w.joined + 2 ^ 22 ≤ s.cyc → exec .launchReservation s = .next { s with reservation := some w.id })))) ∧
  (∀ (s : State) (id : Nat),
    (∀ l, Tab.find s.launches id = some l →
      (l.waiting = false → exec (.effectiveClassAging id) s = .next s) ∧
      (l.waiting = true →
        let aged : Launch := { l with eff := min 3 (l.cls + (s.cyc - l.joined) / 2 ^ 20) }
        exec (.effectiveClassAging id) s = .next { s with launches := Tab.put s.launches id aged })) ∧
    (∀ t, Tab.find s.launches id = none → Tab.find s.tasks id = some t → t.life = .queued →
      let aged : Task := { t with eff := min 3 ((s.launchOf t.lid).cls + (s.cyc - t.joined) / 2 ^ 20) }
      exec (.effectiveClassAging id) s = .next { s with tasks := Tab.put s.tasks id aged })) ∧
  (∀ (s : State) (i : Image) (p : Plan), placeBlocks s i (List.range i.blocks) {} = some p →
    p.roles.map (·.1) = List.range i.groupsz ∧ (p.roles.map (·.2)).Nodup ∧ (∀ e ∈ p.roles, s.coreFree e.2 = true ∧ s.frozen.contains e.2 = false ∧ (s.core e.2).home = 0) ∧
    (∀ e ∈ p.roles, ∀ f ∈ p.roles, e.1 / 64 = f.1 / 64 → e.2 / 64 = f.2 / 64)) ∧
  (∀ s : State, s.dirty = true → s.pkg.overcap = false →
    let fit (u : State) (l : Launch) : Option Plan := placeBlocks u l.img (List.range l.img.blocks) {}
    let passed (u : State) (l : Launch) : Prop := l.waiting = false ∨ u.predsEnded l = false ∨ fit u l = none
    /- `t` is `u` with launch `lid` placed whole by the plan `p` -/
    let placed (u t : State) (lid : Nat) (p : Plan) : Prop :=
      let l := u.launchOf lid
      (t.launchOf lid).waiting = false ∧ t.reservation = (if u.reservation = some lid then none else u.reservation) ∧
        (∀ x, x ≠ lid → Tab.find t.launches x = Tab.find u.launches x) ∧
        (∀ e ∈ p.roles, t.bound lid e.1 = some e.2 ∧ (t.core e.2).home = lid + e.1 ∧
          ((∀ x ∈ u.tasks, handleLid x.1 ≠ lid) → l.img.threads ≤ 4 → ∀ k < l.img.threads,
            (t.thr (8 * e.2 + k)).life = .running ∧ (t.thr (8 * e.2 + k)).task = lid + e.1 ∧
            (t.thr (8 * e.2 + k)).pc = l.image + word l.img.accessOff ∧
            (t.thr (8 * e.2 + k)).regs = [(1, word k), (2, l.arg), (3, l.image)]))
    (∀ lid, s.reservation = some lid →
      (passed s (s.launchOf lid) → exec .placementRound s = .next { s with dirty := false }) ∧
      (∀ p, (s.launchOf lid).waiting = true → s.predsEnded (s.launchOf lid) = true → fit s (s.launchOf lid) = some p →
        ∃ t, placed s t lid p ∧ exec .placementRound s = .next (t.launchQueue.foldl placeWaiter t))) ∧
    (s.reservation = none →
      /- the state once the waiters `q` have been taken -/
      let after (q : List Waiter) : State := q.foldl placeWaiter { s with dirty := false }
      exec .placementRound s = .next (after s.launchQueue) ∧ after [] = { s with dirty := false } ∧
      ∀ q w, w.saved = false →
        let u := after q
        let l := u.launchOf w.id
        (passed u l → after (q ++ [w]) = u) ∧
        (∀ p, l.waiting = true → u.predsEnded l = true → fit u l = some p → placed u (after (q ++ [w])) w.id p)))

/-- R350, R353 to R356. -/
def Obligations.TaskEnds : Prop :=
  (∀ s : State,
    let task := s.me.task
    let core := (s.taskOf task).core
    let anchor : Prop := s.me.helper = false ∧ s.me.slot = 0
    let gone (t : State) : Prop := (t.core core).home = 0 ∧ ∀ e ∈ t.threads, e.2.task = task → 0x1000 ≤ e.1 / 8
    (s.me.svc = true → Traps .exit s 0x01 0 ∧ Traps .exitAbort s 0x01 0) ∧
    (s.me.svc = false →
      (let leaves := s.setThr s.curKey { s.me with life := .exiting, held := none }
       let bare := leaves.setCore s.cur.m { s.myCore with stagings := Tab.del s.myCore.stagings s.cur.t }
       (anchor → exec .exit s = .next (bare.setTask task { s.taskOf task with life := .draining })) ∧
       (¬anchor → exec .exit s = .next (if s.me.helper then leaves else bare))) ∧
      (anchor → ∃ t, exec .exitAbort s = .next t ∧ gone t) ∧
      (¬anchor → ∃ t, exec .exitAbort s = .next t ∧ (t.me.life = .ended ∨ (s.me.helper = true ∧ t.me = {})) ∧
        (∀ c ∈ (t.core (s.curKey / 8)).copies, c.thr ≠ s.curKey ∨ c.orphan = true))) ∧
    (s.me.life ≠ .exiting ∨ anchor ∨ s.me.parked.isSome = true ∨ s.copiesDone s.curKey = false →
      exec .threadExitComplete s = .next s) ∧
    (s.me.life = .exiting → ¬anchor → s.me.parked = none → s.copiesDone s.curKey = true →
      (s.me.helper = true → ∃ t, exec .threadExitComplete s = .next t ∧ t.me = {} ∧ t.mem = s.mem ∧ t.cores = s.cores ∧
        (Tab.find (t.taskOf task).privThreads s.me.slot).any (·.life == .ended) = true) ∧
      (s.me.helper = false →
        (∀ u < 8, (s.myCore.stream u).owner ≠ s.cur.t ∨ ((s.myCore.stream u).state ≠ .running ∧ (s.myCore.stream u).state ≠ .withholding)) →
        (∀ g ∈ s.myCore.graphs, g.2.owner ≠ s.cur.t) →
        ∃ t, exec .threadExitComplete s = .next t ∧ t.me.life = .ended ∧ t.myCore.staging s.cur.t = {} ∧ t.mem = s.mem))) ∧
  (∀ (s : State) (id : Nat),
    let x := s.taskOf id
    let c := s.core x.core
    let lid := id / 4096 * 4096
    ((x.life ≠ .draining ∨ (∃ k ∈ s.threadsOf id, (s.thr k).helper = false ∧ k ≠ 8 * x.core) ∨ (∃ r < 4, (c.row r).run = .running) ∨
      (∃ y ∈ c.copies, y.task = id ∧ y.orphan = false ∧ y.thr % 8 < 4) ∨
      (∃ u < 8, (c.stream u).state = .running ∨ (c.stream u).state = .withholding) ∨ c.graphs ≠ []) →
      exec (.exitDrainComplete id) s = .next s) ∧
    (x.life = .draining → drained s id = true → (∀ k ∈ s.threadsOf id, (s.thr k).helper = false) →
      ∃ t, exec (.exitDrainComplete id) s = .next t ∧ (t.core x.core).home = 0 ∧
        (∀ e ∈ t.threads, e.2.task = id → 0x1000 ≤ e.1 / 8) ∧
        (∀ l, Tab.find s.launches lid = some l → 2 ≤ l.left →
          (l.lctr = 0 → (t.launchOf lid).left = l.left - 1 ∧ t.mem = s.mem ∧ (t.taskOf id).life = .ended) ∧
          (∀ v, l.lctr ≠ 0 → addField s x.core l.job l.lctr 8 1 = .ok v →
            (t.launchOf lid).left = l.left - 1 ∧ t.mem = v.mem ∧ (t.taskOf id).life = .ended)))) ∧
  (∀ (s : State) (a : Reg), s.readable [a] →
    let h := (s.rx a).toNat
    let cancels : List Instr := [.cancelTask a, .cancelLaunch a, .cancelGraph a, .cancelJob a]
    (s.me.svc = false → handleJob h ≠ handleJob s.me.task → ∀ i ∈ cancels, exec i s = .next s.next) ∧
    (Tab.find s.tasks h = none → exec (.cancelTask a) s = .next s.next) ∧
    (Tab.find s.launches h = none → exec (.cancelLaunch a) s = .next s.next) ∧
    (Tab.find s.wgraphs h = none → exec (.cancelGraph a) s = .next s.next) ∧
    (h % 2 ^ 48 ≠ 0 → exec (.cancelJob a) s = .next s.next) ∧
    (s.me.svc = true ∨ handleJob h = handleJob s.me.task →
      (∀ x, Tab.find s.tasks h = some x →
        (x.life = .ended ∨ x.life = .counting → exec (.cancelTask a) s = .next s.next) ∧
        (x.life = .live ∨ x.life = .draining ∨ x.life = .starting → ∃ t, exec (.cancelTask a) s = .next t ∧ (t.core x.core).home = 0 ∧
          (∀ e ∈ t.threads, e.2.task = h → 0x1000 ≤ e.1 / 8) ∧
          (∀ l, Tab.find s.launches (h / 4096 * 4096) = some l → 2 ≤ l.left →
            (t.launchOf (h / 4096 * 4096)).left = l.left - 1 ∧ (t.taskOf h).life = .ended)) ∧
        (∀ v, x.life = .saved → x.saving = some v → ∃ t, exec (.cancelTask a) s = .next t ∧
          t = s.next.setTask h { x with saving := some { v with cancelled := true } })) ∧
      (∀ l, Tab.find s.launches h = some l → l.waiting = true → ∃ t, exec (.cancelLaunch a) s = .next t ∧
        Tab.find t.launches h = none ∧ t.dirty = true ∧
        ∀ k m, Tab.find s.launches k = some m → m.waiting = true → h ∈ m.preds → Tab.find t.launches k = none) ∧
      (∀ g, Tab.find s.wgraphs h = some g → ∃ t, exec (.cancelGraph a) s = .next t ∧
        ∀ k m, Tab.find s.launches k = some m → m.waiting = true → m.graph = h → Tab.find t.launches k = none) ∧
      (h % 2 ^ 48 = 0 → ∃ t, exec (.cancelJob a) s = .next t ∧
        ∀ k m, Tab.find s.launches k = some m → m.waiting = true → m.job = handleJob h → Tab.find t.launches k = none)))

/-- R366, R367. -/
def Obligations.ChainEntries : Prop :=
  (∀ (s : State) (id core : Nat) (c : Chain), Tab.find s.chains id = some c → chainCore s c = some core →
    let q := (s.core core).queue c.desc.sq
    let chain (c : Chain) (t : State) : Prop := Tab.find t.chains id = some c
    (q.head s.cyc = none ∨ q.lent ≠ [] → exec (.chainSend id) s = .next s) ∧
    (∀ e, q.head s.cyc = some e → q.lent = [] → s.frozen.contains core = false →
      (∀ x ∈ s.chains, x.2.slid = c.slid → x.2.desc.srole = c.desc.srole → x.2.desc.sq = c.desc.sq → x.2.flight = []) →
      (c.dead = true → ∃ t, exec (.chainSend id) s = .next t ∧ chain c t ∧ (t.core core).queue c.desc.sq = q.pop ∧ t.out = s.out) ∧
      (c.dead = false → c.desc.dpkg = 0xFF →
        let sent : Chain := { c with flight := [e.tok] }
        exec (.chainSend id) s = .next { s with chains := Tab.put s.chains id sent }) ∧
      (c.dead = false → c.desc.dpkg ≠ 0xFF → ∃ t, exec (.chainSend id) s = .next t ∧
        ((∃ x : ChainFlit, t.out = s.out ++ [.flit c.desc.dpkg x] ∧ x.data = e.tok.data ∧ x.kind = e.tok.kind ∧ x.dlid = c.desc.dlid ∧
            x.drole = c.desc.drole ∧ x.dq = c.desc.dq ∧ (t.core core).queue c.desc.sq = q.pop ∧ chain c t) ∨
          (chain { c with flight := [e.tok], refused := true, resendAt := s.cyc + 1250 } t ∧ t.cores = s.cores) ∨
          (chain { c with dead := true } t ∧ (t.core core).queue c.desc.sq = q.pop)))) ∧
    (c.refused = true → c.resendAt ≤ s.cyc →
      let again : Chain := { c with refused := false, flight := if c.desc.dpkg = 0xFF then c.flight else [] }
      exec (.chainResend id) s = .next { s with chains := Tab.put s.chains id again }) ∧
    (c.refused = false ∨ s.cyc < c.resendAt → exec (.chainResend id) s = .next s) ∧
    (∀ tok l x, c.flight = tok :: l → c.refused = false →
      x = ({ fromHere := some id, dlid := c.desc.dlid, drole := c.desc.drole, dq := c.desc.dq, kind := tok.kind, poison := tok.poison,
             data := tok.data } : ChainFlit) →
      (∀ t, arriveChain s x = .yes t → ∃ u, exec (.chainArrival x) s = .next u ∧ chain { c with flight := [] } u ∧
        (u.core core).queue c.desc.sq = ((t.core core).queue c.desc.sq).pop ∧ u.spills = t.spills) ∧
      (arriveChain s x = .refused →
        let waits : Chain := { c with refused := true, resendAt := s.cyc + 1250 }
        exec (.chainArrival x) s = .next { s with chains := Tab.put s.chains id waits }) ∧
      (arriveChain s x = .ended → ∃ u, exec (.chainArrival x) s = .next u ∧ chain { c with flight := [], dead := true } u ∧
        (u.core core).queue c.desc.sq = q.pop))) ∧
  (∀ (s : State) (x : ChainFlit),
    let id := x.dlid + x.drole
    let task := s.taskOf id
    let tok : Tok := ⟨x.kind, x.poison, x.data⟩
    let key := 16 * id + x.dq
    let dq := (s.core task.core).queue x.dq
    let spills : Prop :=
      (∀ l, Tab.find s.spills key = some l → l.length < 4096 →
        arriveChain s x = .yes { s with spills := Tab.put s.spills key (l ++ [tok]) }) ∧
      (∀ l, Tab.find s.spills key = some l → 4096 ≤ l.length → arriveChain s x = .refused) ∧
      (Tab.find s.spills key = none → arriveChain s x = .refused ∨
        arriveChain s x = .yes { s with spills := Tab.put s.spills key [tok] })
    (Tab.find s.launches x.dlid = none → arriveChain s x = .ended) ∧
    (∀ l d, Tab.find s.launches x.dlid = some l → l.img.queues[x.dq]? = some d → d.decl = true → d.xa = false → x.drole < l.img.groupsz →
      (l.waiting = true → spills) ∧
      (l.waiting = false →
        (task.life = .ended ∨ task.life = .counting → arriveChain s x = .ended) ∧
        (task.life = .saved ∨ task.life = .queued ∨ task.life = .starting → spills) ∧
        (task.life = .live ∨ task.life = .draining →
          (dq.isFull = true ∨ Tab.get [] s.spills key ≠ [] → spills) ∧
          (dq.isFull = false → Tab.get [] s.spills key = [] → ∃ t, arriveChain s x = .yes t ∧
            ((t.core task.core).queue x.dq).entries = dq.entries ++ [{ tok, ready := s.cyc + 1 }] ∧ t.spills = s.spills)))) ∧
    (x.fromHere = none →
      (∀ t, arriveChain s x = .yes t → exec (.chainArrival x) s = .next { t with out := t.out ++ [.flitReply true x] }) ∧
      (arriveChain s x = .ended → exec (.chainArrival x) s = .next { s with out := s.out ++ [.flitReply true x] }) ∧
      (arriveChain s x = .refused → exec (.chainArrival x) s = .next { s with out := s.out ++ [.flitReply false x] }))) ∧
  (∀ (s : State) (core q : Nat) (t : Tok) (l : List Tok),
    let id := (s.core core).home
    let x := (s.core core).queue q
    Tab.find s.spills (16 * id + q) = some (t :: l) → (s.taskOf id).life = .live ∨ (s.taskOf id).life = .draining →
    (x.isFull = true → exec (.spillRingDrain core q) s = .next s) ∧
    (x.isFull = false → ∃ u, exec (.spillRingDrain core q) s = .next u ∧ Tab.find u.spills (16 * id + q) = some l ∧
      ((u.core core).queue q).entries = x.entries ++ [{ tok := t, ready := s.cyc + 1 }] ∧ u.mem = s.mem ∧ u.threads = s.threads))

/-- R118 to R123, R360, R361, R371, R406, R410. The model's reading: bits 2 to 0 of TRAPVEC are ignored and read as zero (log 39), and a
`setcw` to FQTAIL or CQTAIL, which only the hub moves, traps ILLOP (log 23). -/
def Obligations.ControlWords : Prop :=
  (∀ (s : State) (d a : Reg) (n : BitVec 12),
    let k := n.toNat
    let bothTrap (c : Nat) : Prop := Traps (.getcw d n) s c 0 ∧ Traps (.setcw n a) s c 0
    (s.me.svc = false → 0x800 ≤ k → bothTrap 0x02) ∧
    (s.me.svc = true → 0x818 < k ∨ (0x802 < k ∧ k < 0x810) → bothTrap 0x01) ∧
    (s.me.svc = true → k ∈ [4, 5] ∨ (7 ≤ k ∧ k ≤ 0x12) ∨ (0x20 ≤ k ∧ k ≤ 0x53) → bothTrap 0x01) ∧
    ((0xC ≤ k ∧ k ≤ 0xF) ∨ (0x14 ≤ k ∧ k ≤ 0x1F) ∨ (0x54 ≤ k ∧ k ≤ 0x7FF) → bothTrap 0x01) ∧
    (k ∈ [0, 0x13] ∨ (s.me.svc = true ∧ k ∈ [0x812, 0x815]) ∨
      (s.me.svc = false ∧ ((0x10 ≤ k ∧ k ≤ 0x12) ∨ (0x20 ≤ k ∧ k ≤ 0x3F) ∨ k ∈ [0x50, 0x52, 0x53])) → Traps (.setcw n a) s 0x01 0) ∧
    (s.me.svc = false → 0x40 ≤ k → k ≤ 0x4F →
      s.me.helper = true ∨ ((s.core (s.taskOf s.me.task).core).queue (k - 0x40)).decl = false → Traps (.setcw n a) s 0x01 0)) ∧
  (∀ (s : State) (d : Reg), (∀ n, s.struck n = false) →
    let reads (l : List (Nat × Word)) : Prop := ∀ e ∈ l, Gives (.getcw d (BitVec.ofNat 12 e.1)) s d e.2
    let x := s.taskOf s.me.task
    let c := s.core x.core
    let one (b : Bool) (n : Nat) : Nat := if b then 2 ^ n else 0
    reads [(0, word (one s.me.svc 6 + one s.me.intrap 5 + s.cur.t % 8 * 4 + one s.me.helper 1 + one s.me.svc 0)), (1, s.me.epc),
      (2, s.me.tcause), (3, s.me.tval), (6, s.me.prio), (0x13, word s.cyc)] ∧
    (s.me.svc = false →
      reads [(4, x.trapvec), (5, x.trapen), (7, s.me.watchq), (8, s.me.lodcnt), (9, s.me.lodcyc), (0xA, s.me.qfullcnt),
        (0xB, word x.tflags.toNat), (0x10, word x.role), (0x11, word s.me.task), (0x12, word (s.launchOf x.lid).img.groupsz),
        (0x51, c.matrix.misscnt), (0x52, word c.matrix.dla), (0x53, word c.matrix.dlb)] ∧
      (∀ q < 16, reads [(0x20 + q, word (if (c.queue q).decl then (c.queue q).cap else 0)),
        (0x40 + q, if (c.queue q).decl then Tab.get 0 x.qempty q else 0)]) ∧
      -- OCC and MSTAT are those from before the cycle's pushes, pops and array moves.
      ((∀ p, Tab.find s.prior x.core = some p → p.cyc ≠ s.cyc) →
        reads [(0x50, c.matrix.mstat s.cyc)] ∧ ∀ q < 16, reads [(0x30 + q, word ((c.queue q).occ s.cyc % 128))]) ∧
      ∀ p, Tab.find s.prior x.core = some p → p.cyc = s.cyc →
        reads [(0x50, p.mstat)] ∧ ∀ q < 16, ∀ v, p.queues[q]? = some v → reads [(0x30 + q, word (v.toNat % 128))]) ∧
    (s.me.svc = true →
      reads [(0x800, word (s.sup.jobtab * 2 ^ 22)), (0x801, word (one s.me.phys 63 + s.me.sctxJob)), (0x802, word (s.sup.lwmtab * 2 ^ 22)),
        (0x810, s.sup.fqbase), (0x811, word s.sup.fqhead), (0x812, word s.sup.fqtail), (0x813, s.sup.cqbase), (0x814, word s.sup.cqhead),
        (0x815, word s.sup.cqtail), (0x816, s.me.svec), (0x818, word (s.sup.savepool * 16))])) ∧
  (∀ (s : State) (a : Reg), s.readable [a] →
    let v := s.rx a
    let field (hi lo : Nat) : Word := word (v.toNat / 2 ^ lo % 2 ^ (hi + 1 - lo) * 2 ^ lo)
    let x := s.taskOf s.me.task
    let writes (l : List (Nat × Word)) : Prop := ∀ e ∈ l, ∃ t, exec (.setcw (BitVec.ofNat 12 e.1) a) s = .next t ∧
      t.cword e.1 = some e.2 ∧ (∀ k, k ≠ e.1 → t.cword k = s.cword k) ∧ t.me.pc = s.me.pc + 8 ∧ t.me.regs = s.me.regs ∧
      t.mem = s.mem ∧ t.me.held = none
    writes [(1, v), (2, field 15 12 + field 7 0), (3, v), (6, field 1 0)] ∧
    (s.me.svc = false →
      writes [(4, field 63 3), (5, field 63 16 + field 2 0), (7, field 4 0), (8, v), (9, v), (0xA, v),
        (0xB, word (x.tflags &&& ~~~(BitVec.ofNat 6 v.toNat)).toNat), (0x51, v)] ∧
      ∀ q < 16, s.me.helper = false → ((s.core x.core).queue q).decl = true → writes [(0x40 + q, v)]) ∧
    (s.me.svc = true →
      writes [(0x800, field 43 22), (0x801, field 63 63 + field 15 0), (0x802, field 43 22), (0x810, field 43 12 + field 4 0),
        (0x811, field 31 0), (0x813, field 43 12 + field 4 0), (0x814, field 31 0), (0x816, field 63 3), (0x818, field 43 4)])) ∧
  (∀ (s : State) (d : Reg),
    (s.struck 0x13 = false → Gives (.cyc d) s d (word s.cyc)) ∧
    (s.struck 0x13 = true → Traps (.cyc d) s 0x09 0x1013) ∧
    exec .yield s = .next (s.setThr s.curKey { s.me with credit := 0, yieldTo := s.cyc + 9, pc := s.me.pc + 8, held := none }) ∧
    (s.me.yieldTo ≠ 0 → s.me.yieldTo ≤ s.cyc → exec .yieldWindowEnd s = .next (s.setThr s.curKey { s.me with yieldTo := 0 })) ∧
    (s.me.yieldTo = 0 ∨ s.cyc < s.me.yieldTo → exec .yieldWindowEnd s = .next s) ∧
    (56 ≤ s.me.waited → exec .threadOverdue s = .next (s.setThr s.curKey { s.me with overdue := true })) ∧
    (s.me.waited < 56 → exec .threadOverdue s = .next s))

/-- R411 to R413, R425, R427. That a call made in the cycle of GO is held from then on is the model's reading of R428 and R436 (log 39). -/
def Obligations.SystemCalls : Prop :=
  (∀ (s : State) (a : Reg) (imm : BitVec 16),
    let i : Instr := .syscall a imm
    let at_ := s.sup.savepool * 16
    let v := ofBytes ((List.range 16).map (fun k => s.byteAt (at_ + k)))
    let top := v / 2 ^ 64 % 2 ^ 32
    let holds (i : Instr) : Prop := ∃ t, exec i s = .next t ∧ t.me.held = some (.syscall a imm) ∧ t.me.pc = s.me.pc ∧ t.mem = s.mem ∧
      t.tasks = s.tasks
    let begins (i : Instr) : Prop := ∃ t x, exec i s = .next t ∧ t.me.pc = s.me.pc + 8 ∧ t.me.regs = s.me.regs ∧
      (t.taskOf s.me.task).life = .saved ∧ (t.taskOf s.me.task).saving = some x ∧ x.reason = 0x18 ∧ x.call = imm.toNat ∧
      x.slot = s.me.slot ∧ x.reg = a.toNat ∧ x.argp = s.rx a ∧ x.cancelled = false ∧ 0x1000 ≤ x.svcCore ∧ x.svcCore < 0x1020 ∧
      x.area = s.dword (v % 2 ^ 64 + 8 * (top - 1)) ∧
      (isHub at_ = false → s.Inv → WritesBytes s t ((List.range 16).map (fun k => .mem (at_ + k))) (v - 2 ^ 64))
    (s.me.svc = true ∨ s.me.helper = true → Traps i s 0x01 0) ∧
    (s.me.svc = false → s.me.helper = false → s.readable [a] → (top = 0 → holds i) ∧ (top ≠ 0 → begins i)) ∧
    (s.me.held = some i → s.readable [a] →
      (s.cyc ≤ s.me.heldFrom ∨ (s.cyc - s.me.heldFrom) % 4096 ≠ 0 → exec .savepoolReread s = .next s) ∧
      (s.me.heldFrom < s.cyc → (s.cyc - s.me.heldFrom) % 4096 = 0 →
        (top = 0 → holds .savepoolReread) ∧ (top ≠ 0 → begins .savepoolReread)))) ∧
  (∀ (s : State) (e : PendEntry) (l : List PendEntry),
    let room (base : Word) (head tail : Nat) : Prop :=
      7 ≤ base.toNat % 32 ∧ base.toNat % 32 ≤ 16 ∧ (tail + 2 ^ 32 - head) % 2 ^ 32 < 2 ^ (base.toNat % 32)
    let place (base : Word) (tail : Nat) : Nat := base.toNat / 2 ^ 12 % 2 ^ 32 * 2 ^ 12 + 32 * (tail % 2 ^ (base.toNat % 32))
    let entry : Nat := e.d0 % 2 ^ 64 + e.d1.toNat * 2 ^ 64 + e.d2.toNat * 2 ^ 128 + e.d3.toNat * 2 ^ 192
    let wrote (t : State) (a : Nat) : Prop :=
      isHub a = false → s.Inv → WritesBytes s t ((List.range 32).map (fun k => .mem (a + k))) entry
    let p := s.sup
    -- An entry held through a firmware switch is counted off; the last one ends the switch.
    let less (fq cq : Nat) (w : Sup) : Sup :=
      let w : Sup := { w with fwheld := (w.fwheld.1 - fq, w.fwheld.2 - cq) }
      if w.fwstate = .completing ∧ w.fwheld = (0, 0) then { w with fwstate := .idle } else w
    (s.waitFq = [] → exec (.faultEntryWrite false) s = .next s) ∧
    (s.waitCq = [] → exec (.faultEntryWrite true) s = .next s) ∧
    (s.waitFq = e :: l →
      let merges : Prop := ∃ f, e.fault = some f ∧ (f.cause = 5 ∨ f.cause = 6 ∨ f.cause = 7) ∧
        ∃ o ∈ s.openEntries, o.cause = f.cause ∧ o.job = f.job ∧ o.page = f.tval.toNat / 4096
      (merges → ∃ t f o, exec (.faultEntryWrite false) s = .next t ∧ e.fault = some f ∧ o ∈ s.openEntries ∧ t.waitFq = l ∧
        t.openEntries = s.openEntries.map (fun y => if y.seq = o.seq then { y with waiters := y.waiters ++ [f] } else y) ∧
        t.sup = less 1 0 p) ∧
      (¬merges →
        (¬room p.fqbase p.fqhead p.fqtail ∨ p.fwstate = .draining → exec (.faultEntryWrite false) s = .next s) ∧
        (room p.fqbase p.fqhead p.fqtail → p.fwstate ≠ .draining →
          ∃ t, exec (.faultEntryWrite false) s = .next t ∧ t.waitFq = l ∧ t.sup = less 1 0 { p with fqtail := (p.fqtail + 1) % 2 ^ 32 } ∧
            wrote t (place p.fqbase p.fqtail) ∧
            (∀ f, e.fault = some f →
              t.openEntries = s.openEntries ++ [⟨p.fqtail, f.cause, f.job, f.tval.toNat / 4096, [f]⟩]) ∧
            (e.fault = none → t.openEntries = s.openEntries)))) ∧
    (s.waitCq = e :: l →
      let held : Prop := p.fwstate = .draining ∨ (p.fwstate = .verifying ∧ p.fwgo = some e.begun)
      (¬room p.cqbase p.cqhead p.cqtail ∨ held → exec (.faultEntryWrite true) s = .next s) ∧
      (room p.cqbase p.cqhead p.cqtail → ¬held →
        ∃ t, exec (.faultEntryWrite true) s = .next t ∧ t.waitCq = l ∧
          t.sup = less 0 1 { p with cqtail := (p.cqtail + 1) % 2 ^ 32, calls := p.calls ++ [(p.cqtail, e)] } ∧
          wrote t (place p.cqbase p.cqtail) ∧ t.openEntries = s.openEntries)))

/-- R44, R382 to R390, R395. The model's reading: the order of migrate's statuses (log 26), and status 2 for a thaw in the cycle of a denial,
whose freeze stands (R395, log 39). -/
def Obligations.Supervisor : Prop :=
  ∀ (s : State) (d a b c : Reg),
    let A := (s.rx a).toNat
    let B := (s.rx b).toNat
    let C := (s.rx c).toNat
    let tlb : List Instr := [.tlbinvPage d a b, .tlbinvRange d a b c, .tlbinvJob d a, .tlbinvAll d]
    let others : List Instr := [.migrate d a b c, .acctab d a b c, .freeze d a, .thaw d a, .preempt d a b, .resumeTask d a,
      .resumeRetry d a, .resumeDeliver d a, .resumeKill d a]
    (s.me.svc = false → ∀ i ∈ tlb ++ others, Traps i s 0x02 0) ∧
    (s.me.svc = true → s.readable [a, b, c] →
      let leaves (i : Instr) (base : State) : Prop := LeavesAt i s base d 0 (s.me.pc + 8) s.me.busyTo
      let size (lv : Nat) : Nat := if lv = 1 then 2 ^ 30 else if lv = 2 then 2 ^ 21 else 2 ^ 12
      let holds (i : Instr) : Prop := ∃ t, exec i s = .next t ∧ t.me.held = some i ∧ t.me.pc = s.me.pc ∧ t.cache = s.cache ∧ t.walks = s.walks
      let valid : Prop := s.dword (s.sup.jobtab * 2 ^ 22 + 64 * A) % 2 = 1
      let job (i : Instr) (go : Prop) : Prop :=
        (2 ^ 16 ≤ A → Gives i s d 3) ∧ (A < 2 ^ 16 → (¬valid → Gives i s d 1) ∧ (valid → go))
      let removes (i : Instr) (lo n : Nat) : Prop :=
        -- An access on its way through a leaf to be removed is waited for wherever in that leaf it goes.
        let away : Prop := s.awayIn A lo n = true ∨
          ∃ x ∈ s.cache, x.job = A ∧ x.va < lo + n ∧ lo < x.va + size x.level ∧ s.awayIn A x.va (size x.level) = true
        (away ∨ s.movingIn A lo n = true → holds i) ∧
        (¬away → s.movingIn A lo n = false →
          let cache := s.cache.filter (fun x => !(x.job == A && x.va < lo + n && lo < x.va + size x.level))
          -- With the leaves go the table entries above them that a tile's walk cache holds.
          let walks := s.walks.filter (fun x => !(x.job == A && x.va < lo + n && lo < x.va + (if x.level = 0 then 2 ^ 39 else size x.level)))
          leaves i { s with cache, walks })
      job (.tlbinvPage d a b) (removes (.tlbinvPage d a b) (B / 4096 * 4096) 4096) ∧
      job (.tlbinvRange d a b c)
        (let bad : Prop := C = 0 ∨ (2 ^ 56 < B + C ∧ (B < 0xFF * 2 ^ 56 ∨ 2 ^ 64 < B + C))
         (bad → Gives (.tlbinvRange d a b c) s d 2) ∧ (¬bad → removes (.tlbinvRange d a b c) B C)) ∧
      job (.tlbinvJob d a) (removes (.tlbinvJob d a) 0 (2 ^ 64)) ∧
      (let away : Prop := ∃ e ∈ s.cores, ∃ x ∈ e.2.copies, x.far ≠ []
       (s.remotes ≠ [] ∨ away ∨ s.migrations ≠ [] → holds (.tlbinvAll d)) ∧
       (s.remotes = [] → ¬away → s.migrations = [] → leaves (.tlbinvAll d) { s with cache := [], walks := [], jobs := [] })) ∧
      (let i : Instr := .migrate d a b c
       let moves (m : Migration) : Prop :=
         let away := s.awayIn m.job (m.va + 4096 * m.next) 4096
         (away = true → ∃ t, exec i s = .next t ∧ t.me.held = some i ∧ t.me.pc = s.me.pc ∧ m ∈ t.migrations ∧ t.mem = s.mem) ∧
         (away = false →
         let old := m.old + 4096 * m.next
         let new := m.frame + 4096 * m.next
         s.Inv → new % 4096 = 0 → isHub new = false → m.leafAt % 8 = 0 → isHub m.leafAt = false →
           (m.leafAt + 8 ≤ new ∨ new + 4096 ≤ m.leafAt) →
           ∃ t, exec i s = .next t ∧ (∀ k < 4096, t.byteAt (new + k) = s.byteAt (old + k)) ∧
             (∀ x, x ∈ t.cache → ¬(x.job = m.job ∧ x.va < m.va + size m.level ∧ m.va < x.va + size x.level)) ∧
             (4096 * (m.next + 1) < size m.level →
               t.me.held = some i ∧ t.me.pc = s.me.pc ∧ { m with next := m.next + 1 } ∈ t.migrations ∧
               ∀ p, ¬(new ≤ p ∧ p < new + 4096) → t.byteAt p = s.byteAt p) ∧
             (size m.level ≤ 4096 * (m.next + 1) →
               t.me.held = none ∧ t.me.pc = s.me.pc + 8 ∧ t.rx d = 0 ∧ (∀ r, r ≠ d → t.rx r = s.rx r) ∧
               (∀ x ∈ t.migrations, x.thr ≠ m.thr) ∧
               t.dword m.leafAt = setBits (s.dword m.leafAt) 43 12 (m.frame / 4096) ∧
               ∀ p, ¬(new ≤ p ∧ p < new + 4096) → ¬(m.leafAt ≤ p ∧ p < m.leafAt + 8) → t.byteAt p = s.byteAt p))
       (∀ m, s.migrations.find? (fun m => m.thr == s.curKey) = some m → moves m) ∧
       (s.migrations.find? (fun m => m.thr == s.curKey) = none →
         let known : Prop := C < 2 ^ 16 ∧ s.dword (s.sup.jobtab * 2 ^ 22 + 64 * C) % 2 = 1
         (¬known → Gives i s d 5) ∧
         (known →
           (canonical (s.rx a) = false ∨ inAperture A = true ∨ (∃ e, walk s C A = .error e) → Gives i s d 1) ∧
           (∀ tr, canonical (s.rx a) = true → inAperture A = false → walk s C A = .ok tr →
             let n := size tr.level
             let fits : Prop := B % n = 0 ∧ populated B n = true
             (¬fits → Gives i s d 2) ∧
             (fits → leafRpkg tr.leaf ≠ 0xFF → Gives i s d 3) ∧
             (fits → leafRpkg tr.leaf = 0xFF →
               let base := A / n * n
               let taken : Prop := 8 ≤ s.migrations.length ∨ s.movingIn C base n = true
               (taken → Gives i s d 4) ∧
               (¬taken → moves { thr := s.curKey, job := C, va := base, level := tr.level, leafAt := tr.leafAt,
                                 old := leafPfn tr.leaf * 4096, frame := B, next := 0 })))))) ∧
      (let i : Instr := .acctab d a b c
       let target := A / 2 ^ 16 % 2 ^ 16
       let e : AccEntry := { limit := B / 2 ^ 32, base := B % 2 ^ 32, v := (s.rx c).getLsbD 63, w := (s.rx c).getLsbD 62,
                             r := (s.rx c).getLsbD 61, mhi := C / 2 ^ 13 % 2 ^ 13, mlo := C % 2 ^ 13 }
       let known : Prop := target < 0x18 ∨ (0x20 ≤ target ∧ target ≤ 0x23) ∨ target = 0x30 ∨ (0x1000 ≤ target ∧ target ≤ 0x1FFF)
       let reserved : Prop := 2 ^ 32 ≤ A ∨ A / 2 ^ 6 % 2 ^ 10 ≠ 0
       let spare : Prop := C / 2 ^ 26 % 2 ^ 35 ≠ 0
       let odd : Prop := e.v = true ∧ (e.limit < e.base ∨ e.mhi < e.mlo)
       (¬known → Gives i s d 1) ∧ (known → reserved → Gives i s d 2) ∧ (known → ¬reserved → spare → Gives i s d 3) ∧
       (known → ¬reserved → ¬spare → odd → Gives i s d 4) ∧
       (known → ¬reserved → ¬spare → ¬odd → ∃ acc accOld, leaves i { s with acc, accOld } ∧
         ∀ u j, j < 64 → State.accEntry { s with acc, accOld } u j = (if u = target ∧ j = A % 2 ^ 6 then e else s.accEntry u j) ∧
           -- The requests of this cycle are judged by the entries of before.
           State.accBefore { s with acc, accOld } u j = s.accBefore u j)) ∧
      (let master : Prop := A < 0x1020 ∨ (0x1040 ≤ A ∧ A ≤ 0x1047) ∨ (0x1050 ≤ A ∧ A ≤ 0x1053) ∨ A = 0x1058 ∨
         (0x1100 ≤ A ∧ A ≤ 0x11BF)
       (¬master → Gives (.freeze d a) s d 1 ∧ Gives (.thaw d a) s d 1) ∧
       (master → A ∈ s.frozen → Gives (.freeze d a) s d 2 ∧
         -- A master denied in this very cycle stays frozen.
         (Tab.get 0 s.deniedAt A = s.cyc + 1 → Gives (.thaw d a) s d 2) ∧
         (Tab.get 0 s.deniedAt A ≠ s.cyc + 1 → ∃ t, exec (.thaw d a) s = .next t ∧ t.frozen = s.frozen.filter (· != A) ∧ t.dirty = true ∧
           (∀ k, k / 8 = A → (t.thr k).stopIn = none) ∧ (∀ k, k / 8 ≠ A → k ≠ s.curKey → t.thr k = s.thr k) ∧
           t.me.pc = s.me.pc + 8 ∧ (∀ r, t.rx r = if r = d ∧ r ≠ 0 then 0 else s.rx r) ∧ t.mem = s.mem ∧ t.cores = s.cores ∧
           t.tasks = s.tasks)) ∧
       (master → A ∉ s.frozen → Gives (.thaw d a) s d 2 ∧
         ∃ t, exec (.freeze d a) s = .next t ∧ t.frozen = A :: s.frozen ∧ (∀ k, k / 8 = A → (t.thr k).held = none) ∧
           (∀ k, k / 8 ≠ A → k ≠ s.curKey → t.thr k = s.thr k) ∧ t.me.pc = s.me.pc + 8 ∧ t.rx d = 0 ∧
           (∀ r, r ≠ d → t.rx r = s.rx r) ∧ t.mem = s.mem ∧ t.cores = s.cores ∧ t.tasks = s.tasks)))

/-- R402, R403, R413 to R416, R418, R425, R436. The model's reading: a cancelled task's system call makes no queue entry, so that the calls
waiting at the end of its save are as before (log 27), and arrays with a second fault that is not dealt with stay frozen (log 39). -/
def Obligations.Continuation : Prop :=
  (∀ (s : State) (d a b : Reg), s.me.svc = true → s.readable [a, b] →
    let i : Instr := .preempt d a b
    let id := (s.rx a).toNat
    let area := (s.rx b).toNat
    (Tab.find s.tasks id = none → Gives i s d 1) ∧
    (∀ x, Tab.find s.tasks id = some x →
      let bad : Prop := area % 4096 ≠ 0 ∨ populated area 0x105000 = false
      let three : Prop := x.life = .counting ∨ ∃ v, x.saving = some v ∧ v.reason = 0x17
      let four : Prop := x.saving ≠ none ∨ x.life = .saved ∨ x.life = .queued
      (x.life = .ended → Gives i s d 1) ∧ (x.life ≠ .ended → bad → Gives i s d 2) ∧
      (x.life ≠ .ended → ¬bad → three → Gives i s d 3) ∧ (x.life ≠ .ended → ¬bad → ¬three → four → Gives i s d 4) ∧
      (x.life ≠ .ended → ¬bad → ¬three → ¬four →
        let v : Saving := { area, reason := 0x17, call := 0, slot := 0, reg := 0, argp := 0, svcCore := s.cur.m }
        ∃ t, exec i s = .next t ∧ (∀ r, t.rx r = if r = d ∧ r ≠ 0 then 0 else s.rx r) ∧ t.me.pc = s.me.pc + 8 ∧
          t.mem = s.mem ∧ t.cores = s.cores ∧ t.bound (handleLid id) (handleRole id) = none ∧
          t.taskOf id = (if x.life = .starting then { x with saving := some v }
            else { x with saving := some { v with begun := s.cyc }, life := .saved })))) ∧
  (∀ (s : State) (task : Nat),
    let i : Instr := .preemptSaveComplete task
    let x := s.taskOf task
    (x.saving = none → exec i s = .next s) ∧
    (∀ v, x.saving = some v →
      (x.life ≠ .saved ∨ saveReady s task = false ∨ v.svcCore ∈ s.frozen → exec i s = .next s) ∧
      (x.life = .saved → saveReady s task = true → v.svcCore ∉ s.frozen →
        (∀ t u, pathDenied s v.svcCore v.area 0x105000 false true = some (t, u) →
          exec i s = .next (s.deny v.svcCore t u false true)) ∧
        (pathDenied s v.svcCore v.area 0x105000 false true = none →
          let vacates (t : State) : Prop := (t.core x.core).home = 0 ∧ (t.taskOf task).saving = none ∧
            ∀ e ∈ t.threads, e.2.task = task → 0x1000 ≤ e.1 / 8
          let preempted (n : Word) : PendEntry := { d0 := entryWord 0x17 7 0 x.core, d1 := word task, d2 := word v.area, d3 := n, fault := none }
          let called : PendEntry := { d0 := entryWord 0x18 0 v.slot x.core, d1 := word task, d2 := word v.area, d3 := word v.call, fault := none, begun := v.begun }
          -- The records of the low-water table that the core's units close are granted.
          let granted : Prop := ∀ n < 32, let at_ := s.sup.lwmtab * 2 ^ 22 + 32 * (32 * x.core + n)
            isHub at_ = false ∧ denied s x.core false true (.mem at_) = none
          (v.cancelled = false → granted → s.Inv → v.area % 4096 = 0 → populated v.area 0x105000 = true →
            ∃ t, exec i s = .next t ∧ vacates t ∧ (t.taskOf task).area = v.area ∧
              t.dword v.area = (v.reason * 2 ^ 48 + 2 ^ 32 + 0x53415645) % 2 ^ 64 ∧ t.dword (v.area + 8) = task % 2 ^ 64 ∧
              t.dword (v.area + 16) = x.image.toNat ∧ t.dword (v.area + 24) = x.arg.toNat ∧
              (v.reason = 0x17 → (t.taskOf task).life = .saved ∧ t.waitFq = s.waitFq ++ [preempted 0] ∧ t.waitCq = s.waitCq) ∧
              (v.reason ≠ 0x17 → t.waitFq = s.waitFq ∧
                (v.reg = 0 ∨ ordinary v.argp 64 = true →
                  (t.taskOf task).life = .saved ∧ t.waitCq = s.waitCq ++ [called]) ∧
                (v.reg ≠ 0 → ordinary v.argp 64 = false →
                  (t.taskOf task).life = .queued ∧ t.waitCq = s.waitCq ∧ t.dword (v.area + 0x90) = 1))) ∧
          (v.cancelled = true → granted → 2 ≤ (s.launchOf (handleLid task)).left →
            ∃ t, exec i s = .next t ∧ vacates t ∧ (t.taskOf task).life = .ended ∧
              (t.launchOf (handleLid task)).left = (s.launchOf (handleLid task)).left - 1 ∧ t.waitCq = s.waitCq ∧
              t.waitFq = (if v.reason = 0x17 then s.waitFq ++ [preempted 1] else s.waitFq)))))) ∧
  (∀ (s : State) (d a : Reg), s.me.svc = true → s.readable [a] → s.Inv →
    let q := (s.rx a).toNat % 2 ^ 32
    let entry := s.openEntries.find? (fun e => e.seq == q)
    (entry = none → Gives (.resumeRetry d a) s d 1 ∧ Gives (.resumeDeliver d a) s d 1 ∧ Gives (.resumeKill d a) s d 1) ∧
    (∀ e, entry = some e →
      let runs (i : Instr) (t : State) : Prop := exec i s = .next t ∧ (∀ r, t.rx r = if r = d ∧ r ≠ 0 then 0 else s.rx r) ∧
        t.me.pc = s.me.pc + 8 ∧ t.openEntries = s.openEntries.filter (fun y => y.seq != q)
      let stuck (f : FaultRec) : Prop := (∃ n, f.retry = .hub n) ∨ ∃ k, s.keyOf f.task f.slot = some k ∧
        ((s.taskOf f.task).trapvec = 0 ∨ (s.thr k).intrap = true)
      let parked (f : FaultRec) (k : Nat) (g : FaultRec) : Prop := s.keyOf f.task f.slot = some k ∧ k ≠ s.curKey ∧
        (s.thr k).parked = some g ∧ ∀ n, f.retry ≠ .hub n
      let named (k : Nat) : Prop := ∃ f ∈ e.waiters, s.keyOf f.task f.slot = some k
      let entered (f g : FaultRec) (th th' : Thread) : Prop := th'.epc = th.pc ∧ th'.tcause = word (g.source * 2 ^ 12 + g.cause) ∧
        th'.tval = g.tval ∧ th'.intrap = true ∧ th'.pc = word ((s.taskOf f.task).trapvec.toNat / 8 * 8) ∧ th'.parked = none ∧
        (th'.arrayHandler = true ↔ ∃ m, g.retry = .array m) ∧ th'.regs = th.regs
      ((∃ f ∈ e.waiters, stuck f) → Gives (.resumeDeliver d a) s d 2) ∧
      ((∀ f ∈ e.waiters, ∃ k g, parked f k g ∧ g.retry = .instr) →
        (∃ t, runs (.resumeRetry d a) t ∧ t.mem = s.mem ∧ t.cores = s.cores ∧
          (∀ k, named k → t.thr k = { s.thr k with parked := none }) ∧ ∀ k, ¬named k → k ≠ s.curKey → t.thr k = s.thr k) ∧
        ((∀ f ∈ e.waiters, ¬stuck f) → ∃ t, runs (.resumeDeliver d a) t ∧ t.mem = s.mem ∧ t.cores = s.cores ∧
          (∀ f ∈ e.waiters, ∀ k g, parked f k g → ∃ h, (s.thr k).parked = some h ∧ entered f h (s.thr k) (t.thr k)) ∧
          ∀ k, ¬named k → k ≠ s.curKey → t.thr k = s.thr k)) ∧
      (∀ f k g, e.waiters = [f] → parked f k g →
        (∃ t, exec (.resumeRetry d a) s = .next t ∧ (t.thr k).parked = none ∧
          (∀ m n, g.retry = .copy m n → ∀ y ∈ (t.core m).copies, y.id = n → y.stopped = false ∧ y.withheld = []) ∧
          (∀ m u, g.retry = .stream m u → ((s.core m).stream u).state = .stopped → ((t.core m).stream u).state = .running) ∧
          (∀ m n, g.retry = .graph m n → (Tab.find (s.core m).graphs n).isSome = true → (s.graph m n).dying = false → (t.graph m n).stopped = false) ∧
          (∀ m, g.retry = .array m →
            -- A second fault of the arrays that its anchor has not dealt with keeps them frozen.
            let a := s.thr (8 * m)
            let own (f : FaultRec) : Prop := f.retry = .array m ∧ f.cause ≠ 0x0B
            let open_ : Prop := a.arrayHandler = true ∨ (8 * m ≠ k ∧ ∃ f, a.parked = some f ∧ own f) ∨ (∃ f ∈ a.waiting, own f) ∨
              (s.core m).matrix.pend.isSome = true
            (open_ → (t.core m).arrayFrozen = (s.core m).arrayFrozen) ∧
            (¬open_ → (s.core m).matrix.state ≠ 3 ∨ (s.core m).matrix.phase ≠ .accepting → (t.core m).arrayFrozen = false)) ∧
          (∀ m, g.retry = .monitor m → (t.core m).mutualSince = 0)) ∧
        (∀ x, Tab.find s.tasks f.task = some x → x.life = .live ∨ x.life = .draining →
          ∃ t, exec (.resumeKill d a) s = .next t ∧ (t.core x.core).home = 0 ∧
            ∀ y ∈ t.threads, y.2.task = f.task → 0x1000 ≤ y.1 / 8)) ∧
      (∀ f, e.waiters = [f] → (∀ n, f.retry ≠ .hub n) → s.keyOf f.task f.slot = none →
        (Tab.find s.tasks f.task).isSome = true →
        (Tab.find (s.taskOf f.task).privThreads f.slot).any (fun th => th.parked.isSome) = true →
        let chosen (i : Instr) (n : Nat) : Prop := ∃ t, runs i t ∧
          t.taskOf f.task = { s.taskOf f.task with choices := (s.taskOf f.task).choices ++ [(f.slot, n, f.retry)] }
        chosen (.resumeRetry d a) 1 ∧
        ((∀ th, Tab.find (s.taskOf f.task).privThreads f.slot = some th → (s.taskOf f.task).trapvec ≠ 0 ∧ th.intrap = false) →
          chosen (.resumeDeliver d a) 2))))

/-- R213; that the leaves are marked when the access completes is 12 R379. -/
def Obligations.RemoteAccesses : Prop :=
  ∀ (s : State) (id : Nat),
    (Tab.find s.remotes id = none → ∀ data p, exec (.remoteAccessCompletion id data) s = .next s ∧
      exec (.remoteKeepWaiting id) s = .next s ∧ exec (.remoteGiveUp id) s = .next s ∧
      exec (.remoteCancelReply id p) s = .next s) ∧
    (∀ r, Tab.find s.remotes id = some r →
      let k := thrKey r.m r.t
      let th := s.thr k
      let gone : State := { s with remotes := Tab.del s.remotes id }
      /- the accessed and dirty bits of the leaves it uses are set only where it does not fault (12 R379) -/
      let done : State := gone.markLeaves r.marks
      let at_ (x : State) : State := { x with cur := { s.cur with m := r.m, t := r.t } }
      let ofThread : Prop := ∀ m c lo hi, r.act ≠ .chunkRead m c lo hi ∧ r.act ≠ .chunkWrite m c lo hi ∧ r.act ≠ .element m c ∧
        r.act ≠ .token m c lo
      let far : Prop := ∀ l ∈ r.locs, ∃ p a, l = .far p a
      let comesBack (i : Instr) (data : List PByte) : Prop :=
        let n := r.locs.length
        let v := ofBytes (data.map (·.1))
        let bad : Prop := ∃ b ∈ data, b.2 = true
        (ofThread → th.remote ≠ some id → exec i s = .next gone) ∧
        (far → data.length = n →
          (th.remote = some id →
            let next (x : Thread) : Thread := { x with pc := th.pc + 8, held := none, remote := none }
            -- A read of poisoned data traps POISON, and no register is written.
            (bad → (∃ d sign, r.act = .load d sign) ∨ (∃ d, r.act = .rmw d) ∨ r.act = .fetch →
              exec i s = .next (((at_ gone).setThr k { th with remote := none }).trap 0x09 r.ea)) ∧
            (∀ d sign, ¬bad → r.act = .load d sign → exec i s = .next ((at_ done).setThr k (next (th.setReg d
              (if sign then wrap64 (signedOf (8 * n) v) else word v))))) ∧
            (∀ d, ¬bad → r.act = .rmw d → exec i s = .next ((at_ done).setThr k (next (th.setReg d (word v))))) ∧
            (r.act = .store ∨ r.act = .line → exec i s = .next ((at_ done).setThr k (next th))) ∧
            (¬bad → r.act = .fetch → exec i s = .next ((at_ done).setThr k { th with remote := none, fetched := some (word v) }))) ∧
          (∀ m c lo hi x, r.act = .chunkRead m c lo hi → (s.core m).copyById c = some x → (∃ a ∈ x.away, a.1 = lo) →
            ∃ t, exec i s = .next t ∧ t.mem = done.mem ∧ t.threads = s.threads ∧
              (t.core m).copyById c = some { x with away := x.away.filter (fun a => a.1 != lo), far := ⟨lo, hi, r.ea.toNat, data⟩ :: x.far }))
      (∀ data, comesBack (.remoteAccessCompletion id data) data ∧ comesBack (.remoteCancelReply id (some data)) data) ∧
      exec (.remoteKeepWaiting id) s = .next { s with remotes := Tab.put s.remotes id { r with noticed := r.noticed + 1 } } ∧
      (r.cancelSent = true ∨ s.cyc < r.issued + 12500000 → exec (.remoteGiveUp id) s = .next s) ∧
      (∀ p, r.cancelSent = false → r.issued + 12500000 ≤ s.cyc → r.locs ≠ [] → (∀ l ∈ r.locs, ∃ a, l = .far p a) →
        ∃ n, 0 < n ∧ exec (.remoteGiveUp id) s = .next
          { s with remotes := Tab.put s.remotes id { r with cancelSent := true }, out := s.out ++ List.replicate n (.cancel p id) }) ∧
      (let i : Instr := .remoteCancelReply id none
       (ofThread → th.remote ≠ some id → exec i s = .next gone) ∧
       (ofThread → th.remote = some id → exec i s = .next (((at_ gone).setThr k { th with remote := none }).trap 0x14 r.ea)) ∧
       (∀ m c lo hi x, r.act = .chunkRead m c lo hi ∨ r.act = .chunkWrite m c lo hi → (s.core m).copyById c = some x → (∃ a ∈ x.away, a.1 = lo) →
         ∃ t y w, exec i s = .next t ∧ t.threads = s.threads ∧ t.mem = s.mem ∧ (t.core m).copyById c = some y ∧ (∀ a ∈ y.away, a.1 ≠ lo) ∧
           w ∈ y.withheld ∧ w.off = lo ∧ w.cause = 0x14 ∧ w.tval = r.ea)))

/-- R219, R328, R338, R386, R387, R389, R413, R472. -/
def Obligations.OutsideRequests : Prop :=
  (∀ (s : State) (r : PhysReq),
    let pa := match r with | .read pa _ | .write pa _ | .rmw _ pa _ _ _ => pa
    let n := match r with | .read _ n | .rmw _ _ n _ _ => n | .write _ d => d.length
    let rd := match r with | .write .. => false | _ => true
    let wr := match r with | .read .. => false | _ => true
    let units (u : Nat) : Prop := pa / 4096 ≤ u ∧ u ≤ (pa + n - 1) / 4096
    let locs := (List.range n).map (fun k => Loc.mem (pa + k))
    let old := ofBytes ((List.range n).map (fun k => s.byteAt (pa + k)))
    let bad : Prop := ∃ k < n, s.poisoned (pa + k) = true
    let performs (i : Instr) (m : Nat) : Prop :=
      (∀ p l, r = .read p l → exec i s = .next { s with out := s.out ++ [.reply m (some ((List.range n).map (fun k => s.seen (.mem (pa + k)))))] }) ∧
      (∀ p d, r = .write p d → s.Inv → (∀ k < n, isHub (pa + k) = false) →
        ∃ t, exec i s = .next t ∧ WritesBytes s t locs (ofBytes (d.map (·.1))) ∧
          (∀ k b, d[k]? = some (b, true) → t.poisoned (pa + k) = true) ∧ t.out = s.out ∧ t.threads = s.threads ∧ t.cores = s.cores) ∧
      (∀ op p l o c, r = .rmw op p l o c → s.Inv → (∀ k < n, isHub (pa + k) = false) →
        ∃ t, exec i s = .next t ∧ t.out = s.out ++ [.reply m (some ((List.range n).map (fun k => (s.byteAt (pa + k), s.poisoned (pa + k)))))] ∧ t.threads = s.threads ∧ t.cores = s.cores ∧
          (∀ v, ¬bad → atomicNew op n old o c = some v → WritesBytes s t locs v) ∧
          (bad ∨ atomicNew op n old o c = none → t.mem = s.mem))
    0 < n →
    (∀ pkg,
      let i : Instr := .pertorRequestIn pkg r
      let m := 0x1100 + pkg
      let ok (u : Nat) : Prop := isHole (u * 4096) = false ∧ accAllows s 0x30 m u rd wr = true
      (192 ≤ pkg ∨ m ∈ s.frozen → exec i s = .next s) ∧
      (pkg < 192 → m ∉ s.frozen →
        ((∀ u, units u → ok u) → performs i m) ∧
        (∀ u, units u → ¬ok u → (∀ w, units w → w < u → ok w) → exec i s = .next (s.deny m (if isHole (u * 4096) then targetOf (u * 4096) else 0x30) u rd wr)))) ∧
    (∀ master,
      let i : Instr := .hostMemoryRequest master r
      let ok (u : Nat) : Prop := isHole (u * 4096) = false ∧ accAllows s (targetOf (u * 4096)) master u rd wr = true
      let refused (t : State) : State := if rd = true ∨ master = 0x1058 then { t with out := t.out ++ [.reply master none] } else t
      (master ≠ 0x1058 → master < 0x1050 ∨ 0x1053 < master → exec i s = .next s) ∧
      (master = 0x1058 → 2 ^ 42 ≤ pa → performs i master) ∧
      (master = 0x1058 ∨ (0x1050 ≤ master ∧ master ≤ 0x1053) → master ≠ 0x1058 ∨ pa < 2 ^ 42 →
        (master ∈ s.frozen → exec i s = .next (refused s)) ∧
        (master ∉ s.frozen →
          ((∀ u, units u → ok u) → performs i master) ∧
          (∀ u, units u → ¬ok u → (∀ w, units w → w < u → ok w) →
            exec i s = .next (refused (s.deny master (targetOf (u * 4096)) u rd wr))))))) ∧
  (∀ (s : State) (pa : Nat), exec (.hostRecall pa) s = .next s) ∧
  (∀ (s : State) (id : Nat),
    let i : Instr := .hubWorkTimeout id
    (Tab.find s.hub id = none → exec i s = .next s) ∧
    (∀ w, Tab.find s.hub id = some w →
      (w.reported = true ∨ s.cyc < w.since + 8192 ∨ w.cause = 0x08 → exec i s = .next s) ∧
      (w.reported = false → w.since + 8192 ≤ s.cyc → w.cause ≠ 0x08 →
        let f : FaultRec := { cause := w.cause, source := 9, tval := w.tval, detail := word w.kind, task := w.handle, slot := 0, thread := 0,
                              core := 0, job := w.job, retry := .hub id }
        let same (o : OpenEntry) : Prop := o.cause = w.cause ∧ o.job = w.job ∧ o.page = w.tval.toNat / 4096
        let merges : Prop := w.cause ∈ [5, 6, 7] ∧ ∃ o ∈ s.openEntries, same o
        let hub := Tab.put s.hub id { w with reported := true }
        (¬merges → exec i s = .next { s with
          hub, waitFq := s.waitFq ++ [{ d0 := w.cause * 2 ^ 56 + 9 * 2 ^ 52 + 2 ^ 16, d1 := word w.handle, d2 := w.tval,
                                        d3 := word w.kind, fault := some f }] }) ∧
        (merges → ∃ t o, exec i s = .next t ∧ o ∈ s.openEntries ∧ same o ∧ t.hub = hub ∧ t.waitFq = s.waitFq ∧
          t.openEntries = s.openEntries.map (fun y => if y.seq = o.seq then { y with waiters := y.waiters ++ [f] } else y)))))

/-- R6, R429, R433, R435, R465, R466, R469 to R471; the order of the report's parts is log 29. -/
def Obligations.ManagementResults : Prop :=
  (∀ s : State,
    let g := s.pkg
    let sets (i : Instr) (h : Pkg) : Prop := exec i s = .next { s with pkg := h }
    let replies (i : Instr) (bs : List Byte) : Prop := sets i { g with reply := bs }
    let reg (off n : Nat) : Prop := replies (.readReg off) (toBytes 8 n)
    let b (x : Bool) (n : Nat) : Nat := if x then n else 0
    let status := g.svcs * 16 + b g.overcap 8 + b g.trip 4 + b g.safe 2 + b g.ready 1
    let vctl (d : Nat) : Vctl := Tab.get {} g.vctl d
    replies .getStatus (toBytes 8 status) ∧ reg 0 status ∧ reg 8 g.pwrcap ∧ reg 0x10 (g.peak * 2 ^ 32 + g.avg) ∧
    (∀ d < 8, reg (0x100 + 8 * d) ((vctl d).cur * 2 ^ 16 + (vctl d).hi * 2 ^ 8 + (vctl d).lo)) ∧
    (∀ d < 9, reg (0x200 + 8 * d) (Tab.get 0 g.temp d)) ∧ reg 0x300 (g.uncorr * 2 ^ 32 + g.corr) ∧
    (∀ off len, (len ≤ 1024 → replies (.getLog off len) ((g.log.drop off).take len)) ∧
      (1024 < len → ∃ x, replies (.getLog off len) [x])) ∧
    (∀ nonce,
      let report := nonce ++ (List.range 8).flatMap (fun i => Tab.get (List.replicate 32 0) g.measure i) ++
        toBytes 8 (Tab.get 0 g.versions 1) ++ toBytes 8 (Tab.get 0 g.versions 2)
      replies (.attest nonce) (report ++ Config.mldsaSign report)) ∧
    -- A launch of RESET's cycle is dropped.
    exec .reset s = .next { s with pkg := { g with reply := [0], resetDue := some ((g.resetDue.map (·.1)).getD s.cyc, s.cyc) },
                                   launches := s.launches.filter (fun e => !(e.2.waiting && e.2.joined == s.cyc)) } ∧ (∀ c, replies (.unsupportedCommand c) [2]) ∧
    (∀ v : Word,
      let n := v.toNat
      let writes (off : Nat) (h : Pkg) : Prop := sets (.registerWrite .supervisor off v) h ∧
        (g.safe = false → sets (.writeReg off v) { h with reply := [0] }) ∧ (g.safe = true → ∃ x, replies (.writeReg off v) [x])
      -- The Reserved fields of a launch record read zero in a port.
      let record (i : Nat) : Nat := if i = 3 then n % 2 ^ 7 + n / 2 ^ 8 % 4 * 2 ^ 8
        else if i = 10 ∨ i = 12 then n / 2 ^ 8 % 2 ^ 8 * 2 ^ 8 + n / 2 ^ 24 % 2 ^ 24 * 2 ^ 24 + n / 2 ^ 56 * 2 ^ 56 else n
      let lo := n % 32
      let hi := n / 2 ^ 8 % 32
      let bounds (d : Nat) : Vctl := if hi < lo ∨ 28 < hi ∨ 28 < lo then vctl d else { vctl d with hi, lo }
      let set (d : Nat) : Pkg := { g with vctl := Tab.put g.vctl d (bounds d) }
      writes 0 { g with trip := g.trip && !(v.getLsbD 2) } ∧ writes 8 { g with pwrcap := min (n % 2 ^ 16) 30000 } ∧
      writes 0x10 { g with peak := g.peak &&& (2 ^ 32 - 1 - n / 2 ^ 32) } ∧
      writes 0x300 { g with uncorr := g.uncorr &&& (2 ^ 32 - 1 - n / 2 ^ 32), corr := g.corr &&& (2 ^ 32 - 1 - n % 2 ^ 32) } ∧
      (∀ d < 8, writes (0x100 + 8 * d) (set d) ∧ sets (.vctlWrite d v) (set d)) ∧ (∀ d, 8 ≤ d → sets (.vctlWrite d v) g) ∧
      (∀ d < 9, writes (0x200 + 8 * d) g) ∧
      (∀ off, off < 0x10000 ∨ 0x10800 ≤ off → sets (.registerWrite .host off v) g) ∧
      (∀ p < 16,
        (∀ i < 14, exec (.registerWrite .host (0x10000 + 128 * p + 8 * i) v) s = .next
          { s with ports := Tab.put s.ports p { Tab.get {} s.ports p with dw := Tab.put (Tab.get {} s.ports p).dw i (word (record i)) } }) ∧
        exec (.registerWrite .host (0x10000 + 128 * p + 112) v) s = .next s ∧
        exec (.registerWrite .host (0x10000 + 128 * p + 120) v) s = .next { s with lctls := s.lctls ++ [(p, v)] })) ∧
    (∀ d up, (8 ≤ d → sets (.agingMonitorStep d up) g) ∧
      (d < 8 →
        let x := vctl d
        -- Outside the bounds the nearest code that they allow is set (log 39).
        let cur := max x.lo (min x.hi (if up then x.cur + 1 else x.cur - 1))
        sets (.agingMonitorStep d up) { g with vctl := Tab.put g.vctl d { x with cur } })) ∧
    (∀ m10 m1, sets (.powerAverage m10 m1) { g with
      avg := m10 % 2 ^ 32
      peak := max g.peak (m1 % 2 ^ 32)
      overcap := if g.pwrcap < m10 then true else if 100 * m10 < 95 * g.pwrcap then false else g.overcap }) ∧
    sets .correctedError { g with corr := min (g.corr + 1) (2 ^ 32 - 1) } ∧
    (∃ h, exec .scrub s = .next { s with scrubHeld := h, scrubDone := [] })) ∧
  (∀ s : State,
    let g : Pkg := { s.pkg with uncorr := min (s.pkg.uncorr + 1) (2 ^ 32 - 1) }
    let strikes (site : ErrSite) (f : State → Prop) : Prop := ∃ t, exec (.uncorrectableError site) s = .next t ∧ t.pkg = g ∧
      t.mem = s.mem ∧ f t
    let adds (k : Nat) (old new : List Nat) : Prop := ∀ j, j ∈ new ↔ j = k ∨ j ∈ old
    (∀ k, s.isDead (k * 32) = false → strikes (.memory k) (fun t => adds k s.poison t.poison ∧ t.cores = s.cores ∧ t.threads = s.threads)) ∧
    -- A dead granule reads zero without poison.
    (∀ k, s.isDead (k * 32) = true → strikes (.memory k) (fun t => t.poison = s.poison ∧ t.cores = s.cores ∧ t.threads = s.threads)) ∧
    (∀ c k, strikes (.scratchpad c k) (fun t => adds k (s.core c).spoison (t.core c).spoison ∧ t.threads = s.threads)) ∧
    (∀ c q i e, ((s.core c).queue q).entries[i]? = some e → strikes (.queueEntry c q i) (fun t =>
      ((t.core c).queue q).entries[i]? = some { e with tok := { e.tok with poison := true } } ∧
      (∀ j, j ≠ i → ((t.core c).queue q).entries[j]? = ((s.core c).queue q).entries[j]?) ∧ t.threads = s.threads)) ∧
    (∀ c a, strikes (.accumulator c a) (fun t => Tab.get false (t.core c).matrix.apsn a = true ∧
      (t.core c).matrix.acc = (s.core c).matrix.acc ∧ t.threads = s.threads)) ∧
    (∀ m t r, r ≠ 0 → strikes (.register m t r) (fun u => adds r.toNat (s.thr (thrKey m t)).badRegs (u.thr (thrKey m t)).badRegs ∧
      (u.thr (thrKey m t)).regs = (s.thr (thrKey m t)).regs ∧ u.cores = s.cores)) ∧
    (∀ m t, strikes (.register m t 0) (fun u => u.threads = s.threads ∧ u.cores = s.cores)) ∧
    (∀ m t (w : BitVec 12),
      let k := thrKey m t
      let own : Prop := w.toNat < 4 ∨ (6 ≤ w.toNat ∧ w.toNat ≤ 0xA) ∨ 0x800 ≤ w.toNat ∨ (s.thr k).svc = true
      (own → strikes (.controlWord m t w) (fun u => adds w.toNat (s.thr k).badWords (u.thr k).badWords ∧ u.tasks = s.tasks)) ∧
      (¬own → strikes (.controlWord m t w) (fun u => u.threads = s.threads ∧
        adds w.toNat (s.taskOf (s.thr k).task).badWords (u.taskOf (s.thr k).task).badWords))) ∧
    (∀ c p (r : BitVec 6), strikes (.peRegister c p r) (fun t => adds r.toNat ((s.core c).pe p).bad ((t.core c).pe p).bad ∧
      ((t.core c).pe p).v = ((s.core c).pe p).v ∧ ((t.core c).pe p).s = ((s.core c).pe p).s ∧ t.threads = s.threads)) ∧
    (∀ c r, exec (.uncorrectableError (.rowStore c r)) s = .next s))

/-- R410, R428, R432 to R434, R464, R467 to R471. The model's choices: the boot image at the base of service memory and the threads that begin
at its entry (log 3), an image's layout and the refusal of one outside service memory (log 10), the log's place (log 29), and that host memory
and TRIP are kept (log 32). -/
def Obligations.ResetAndFirmware : Prop :=
  (∀ s : State,
    let base : State := { State.reset with tick := s.tick, mem := s.mem.filter (fun c => 2 ^ 42 ≤ c.1), out := s.out }
    let digest (v : FwImage) : List Byte :=
      Config.sha3 (toBytes 8 v.length ++ toBytes 8 v.entry.toNat ++ toBytes 8 v.version ++ v.body)
    let verified (v : FwImage) : Prop := Config.mldsaVerify (digest v) v.signature = true ∧ Config.fusedVersion ≤ v.version
    let hot : Prop := s.pkg.off = true ∧ ∃ e ∈ s.pkg.temp, 85 ≤ e.2
    let starts (t : State) (n : Nat) (pc : Word) (old : Nat → Thread) : Prop :=
      (∀ m < n, ∀ k < 8, let x := old (thrKey (0x1000 + m) k)
        t.thr (thrKey (0x1000 + m) k) = { life := .running, svc := true, pc, phys := x.phys, sctxJob := x.sctxJob, svec := x.svec }) ∧
      ∀ k, 0x1000 + n ≤ k / 8 → t.thr k = {}
    exec .vauxPowerUp s = .next base ∧
    (∀ r : ResetInfo,
      let g : Pkg := { trip := s.pkg.trip, log := r.log, mappedOut := r.failedCores, svcs := min r.svcs 32
                       pertorOff := r.failedPertor, ethernetOff := r.failedEthernet }
      let safe (t : State) : Prop := t = { base with pkg := { g with safe := true }, mem := t.mem } ∧
        ∀ k x, r.log[k]? = some x → t.byteAt (serviceBase + Config.logAt + k) = x
      let v := r.image
      (hot → exec (.packageReset r) s = .next s) ∧
      -- The log lies in service memory.
      (¬hot → r.critical = true ∨ r.svcs < 8 → s.Inv → Config.logAt + r.log.length ≤ 0x4000000 →
        ∃ t, exec (.packageReset r) s = .next t ∧ safe t) ∧
      (¬hot → r.critical = false → 8 ≤ r.svcs → s.Inv → Config.logAt + r.log.length ≤ 0x4000000 → ∃ t, exec (.packageReset r) s = .next t ∧
        (¬verified v → safe t) ∧
        (verified v → starts t (min r.svcs 32) v.entry (fun _ => {}) ∧ (∀ k, k / 8 < 0x1000 → t.thr k = {}) ∧
          t.pkg = { g with ready := true, versions := Tab.put [] 1 v.version
                           measure := Tab.put [] 1 (Config.sha3 (List.replicate 32 0 ++ digest v)) } ∧
          t.cyc = 0 ∧ t.tasks = [] ∧ t.launches = [] ∧ t.sup = {} ∧ t.frozen = [] ∧ t.cores = [] ∧
          (∀ (k : Nat) x, v.body[k]? = some x → k < 0x4000000 → t.byteAt (serviceBase + k) = x) ∧
          ∀ (k : Nat) x, r.log[k]? = some x → v.body.length ≤ Config.logAt + k → t.byteAt (serviceBase + Config.logAt + k) = x))) ∧
    (∀ n,
      (s.pkg.off = true ∨ 72 ≤ n → exec (.thermalTrip n) s = .next s) ∧
      (s.pkg.off = false → n < 72 → ∃ x h, exec (.thermalTrip n) s = .next { base with
        pkg := { s.pkg with ready := false, overcap := false, off := true, trip := true, svcs := 0
                            log := s.pkg.log ++ [x], temp := h } } ∧ 110 ≤ Tab.get 0 h (n / 8))) ∧
    (let p := s.sup
     let idle : Prop := p.fwstate ≠ .verifying ∧ p.fwstate ≠ .draining ∧ p.fwstate ≠ .completing
     (idle → exec .fwGo s = .next { s with sup := { p with fwstate := .verifying, fwfrom := p.fwimage, fwgo := some s.cyc } }) ∧ (¬idle → exec .fwGo s = .next s) ∧
     -- The image at a page, IMAGE as it was at GO: a header of three dwords, the signature, the body.
     (∀ image : Nat,
      let pa := image * 4096
      let n := s.dword pa
      let v : FwImage := { length := n, entry := word (s.dword (pa + 8)), version := s.dword (pa + 16), signature := s.bytes (pa + 24) 2420
                           body := s.bytes (pa + 2444) n }
      let good : Prop := serviceBase ≤ pa ∧ pa + 2444 + n ≤ serviceBase + 0x4000000 ∧ verified v
      (p.fwstate ≠ .verifying → exec (.fwVerifyDone image) s = .next s) ∧
       (p.fwstate = .verifying → ∃ t, exec (.fwVerifyDone image) s = .next t ∧
         (¬good → t = { s with sup := { p with fwstate := .refused } }) ∧
         (good →
           let m := Config.sha3 (Tab.get (List.replicate 32 0) s.pkg.measure 2 ++ digest v)
           t = { s with sup := { p with fwstate := .draining, fwentry := v.entry, fwsince := s.cyc }
                        pkg := { s.pkg with versions := Tab.put s.pkg.versions 2 v.version, measure := Tab.put s.pkg.measure 2 m } }))) ∧
     (p.fwstate ≠ .draining → exec .fwDrained s = .next s) ∧
     (p.fwstate ≠ .draining ∨ s.cyc < p.fwsince + 1250000 → exec .fwDrainTimeout s = .next s) ∧
     (p.fwstate = .draining → p.fwsince + 1250000 ≤ s.cyc → exec .fwDrainTimeout s = exec .fwDrained s) ∧
     (p.fwstate = .draining →
       let taken (c : Nat × PendEntry) : Bool := (p.cqhead + 2 ^ 32 - c.1 - 1) % 2 ^ 32 < 2 ^ 31
       let again := p.calls.filter taken
       let held := (s.waitFq.length, again.length + s.waitCq.length)
       ∃ t, exec .fwDrained s = .next t ∧ starts t (min s.pkg.svcs 32) p.fwentry s.thr ∧ (∀ k, k / 8 < 0x1000 → t.thr k = s.thr k) ∧
         t.waitCq = again.map (fun c => c.2) ++ s.waitCq ∧ t.waitFq = s.waitFq ∧
         t.sup = { p with fwstate := if held = (0, 0) then .idle else .completing, fwheld := held, calls := p.calls.filter (fun c => !(taken c)) } ∧ t.tasks = s.tasks ∧
         (s.migrations = [] → t.mem = s.mem)))) ∧
  (∀ (s : State) (a d : Reg), s.me.svc = true → (∀ n, s.struck n = false) →
    let code : Nat := match s.sup.fwstate with | .idle => 0 | .verifying => 1 | .draining | .completing => 2 | .refused => 3
    Gives (.getcw d 0x817) s d (word (code * 2 ^ 60 + s.sup.fwimage * 2 ^ 12)) ∧
    (s.readable [a] → (s.rx a).getLsbD 1 = false →
      let go : Prop := (s.rx a).getLsbD 0 = true ∧ s.sup.fwstate ≠ .verifying ∧ s.sup.fwstate ≠ .draining ∧ s.sup.fwstate ≠ .completing
      ∃ t, exec (.setcw 0x817 a) s = .next t ∧ t.me.pc = s.me.pc + 8 ∧ t.me.regs = s.me.regs ∧ t.mem = s.mem ∧
        t.sup = { s.sup with
          fwimage := (s.rx a).toNat / 2 ^ 12 % 2 ^ 32
          fwfrom := if go then (s.rx a).toNat / 2 ^ 12 % 2 ^ 32 else s.sup.fwfrom
          fwgo := if go then some s.cyc else s.sup.fwgo
          fwstate := if go then .verifying else s.sup.fwstate }))

/-- R143 to R163; the reductions are the model's `laneRedadd` and `laneRedpick` (R113, R160, log 20). The model's choices (log 38): ACNT
wraps after 2^32 values and the next value is taken as a first one; the flags of a partial sum of `accs` enter XFLAGS at its pop; which
bundles issue after another. -/
def Obligations.PeResults : Prop :=
  (∀ (s : State) (fmt code : Nat) (x : Src) (u : State), s.source fmt code = some (x, u) →
    let c := s.myCore
    let w := if fmt = 1 ∨ fmt = 6 ∨ fmt = 7 then 64 else 32
    let n := if fmt = 1 ∨ fmt = 6 ∨ fmt = 7 then 8 else 16
    let low (v : Nat) : Nat := v % 2 ^ (if fmt = 2 ∨ fmt = 3 then 16 else w)
    let lanes (v : Vec) : List Nat := (List.range n).map (fun i => low (v.toNat / 2 ^ (w * i)))
    let all (v : Nat) : List Nat := List.replicate n (low v)
    let closed (p : Pe) (f : Flight → Bool) : Prop := ∀ e ∈ p.flight, e.issued < s.cyc → f e = false
    let imm := (c.bundle s.cur.row (c.row s.cur.row).pc).extractLsb' 192 32
    let from_ (e : QEntry) : Prop := x.lanes = all e.tok.data.toNat ∧ x.tok = some e.tok
    let pe (row slot : Nat) : Pe := c.pe (4 * (row % 4) + slot % 4)
    (code < 16 → closed s.myPe (fun e => !e.isS && e.dst == some code) → x.lanes = lanes (Tab.get 0 s.myPe.v code) ∧ u = s) ∧
    (16 ≤ code → code < 24 → closed s.myPe (fun e => e.isS && e.dst == some (code - 16)) →
      x.lanes = all (Tab.get 0 s.myPe.s (code - 16)).toNat ∧ u = s) ∧
    (∀ p, (code = 24 ∧ p = pe (s.cur.row + 3) s.cur.pe) ∨ (code = 25 ∧ p = pe s.cur.row (s.cur.pe + 1)) ∨
      (code = 26 ∧ p = pe (s.cur.row + 1) s.cur.pe) ∨ (code = 27 ∧ p = pe s.cur.row (s.cur.pe + 3)) →
      closed p (fun _ => true) → x.lanes = lanes p.nb ∧ u = s) ∧
    (28 ≤ code → code < 32 → x.lanes = all (if fmt = 1 then imm.toNat * 2 ^ 32 else if fmt = 6 then (imm.signExtend 64).toNat else imm.toNat) ∧
      u = s) ∧
    (∀ e, 32 ≤ code → code < 48 → (c.queue (code - 32)).head s.cyc = some e → from_ e ∧ x.popped = true ∧
      u = s.setCore s.cur.m (c.setQueue (code - 32) (c.queue (code - 32)).pop)) ∧
    (∀ e, 48 ≤ code → Tab.find s.cur.peek (code - 48) = none → (c.queue (code - 48)).head s.cyc = some e →
      from_ e ∧ x.popped = false ∧ u = s)) ∧
  (∀ (s : State) (f : PeF),
    let fmt := f.fmt.toNat
    let F := floatFmt fmt
    let isWide : Prop := fmt = 1 ∨ fmt = 6 ∨ fmt = 7
    let w := if isWide then 64 else 32
    let who := 4 * (s.cur.row % 4) + s.cur.pe % 4
    let q := f.dst.toNat
    let full : Prop := f.push ≠ 0 ∧ (s.myCore.queue q).cap < (s.myCore.queue q).entries.length + 1
    let step (c : BitVec 6) : Nat := if f.step = 2 ∧ c.toNat < 16 then (c.toNat + s.cur.rep) % 16 else c.toNat
    let psn (xs : List Src) : Bool := xs.any (fun x => x.tok.any (·.poison))
    let done (xs : List Src) : Bool := xs.any (fun x => x.popped && x.tok.map (·.kind) == some 0xB)
    -- Results in flight stand by landing cycle, then in issue order.
    let joins (l : List Flight) (x : Flight) : List Flight :=
      l.takeWhile (fun y => y.land ≤ x.land) ++ [x] ++ l.dropWhile (fun y => y.land ≤ x.land)
    let writes (i : Instr) (codes : List (Nat × BitVec 6)) (keeps forwards isS : Bool) (lat : Nat) (group : List Src → Option Nat)
        (out : List Src → Nat × Nat × Flags) : Prop :=
      let l := codes.map (fun e => (e.1, step e.2))
      (full → exec i s = .next s) ∧ (s.sources l = none → exec i s = .next s) ∧
      (∀ xs u, ¬full → s.sources l = some (xs, u) →
        (xs.any (·.bad) = true → exec i s = .next (s.slotFault 0x09)) ∧
        (xs.any (·.bad) = false → psn xs = true → keeps = false →
          exec i s = .next (State.slotFault (s.modMyPe (fun p => { p with xflags := p.xflags ||| fPSN })) 0x09)) ∧
        (xs.any (·.bad) = false → psn xs = false ∨ keeps = true →
          let r := out xs
          let fl : Flight :=
            { land := s.cyc + lat, issued := s.cyc, isS, nb := !isS, value := BitVec.ofNat 512 r.1
              flags := if psn xs then r.2.2 ||| fPSN else r.2.2, lanes := group xs
              dst := if f.push = 0 then some ((q + (if f.step = 0 then 0 else s.cur.rep)) % (if isS then 8 else 16)) else none }
          -- What a bundle pushes that issues after one that popped a DONE waits for the gather.
          let start := if s.myRow.issue = 0 then s.cyc else s.myRow.began
          let ready := max (s.cyc + lat) (s.myCore.gathers.foldl (fun n g => if g.1 < start then max n g.2 else n) 0)
          let e : QEntry := { tok := ⟨BitVec.ofNat 4 (f.push.toNat - 1), forwards && psn xs, word r.2.1⟩, ready
                              key := 4 * s.cyc + s.cur.row }
          ∃ t, exec i s = .next t ∧ t.myPe = { s.myPe with flight := joins s.myPe.flight fl } ∧
            (∀ p, p ≠ who → t.myCore.pe p = s.myCore.pe p) ∧
            (∀ k, t.myCore.queue k = if f.push ≠ 0 ∧ k = q then (u.myCore.queue k).insert e else u.myCore.queue k) ∧
            (done xs = true → t.myRow.done = true) ∧ t.mem = s.mem ∧ t.threads = s.threads))
    let issues (i : Instr) (codes : List (Nat × BitVec 6)) (keeps forwards isS : Bool) (lat : Nat) (out : List Src → Nat × Nat × Flags) : Prop :=
      writes i codes keeps forwards isS lat (fun _ => none) out
    let join (l : List (Nat × Flags)) : Nat × Nat × Flags :=
      (packLanes fmt (l.map (·.1)), ((l.map (·.1)).head?.getD 0) % 2 ^ (if fmt = 2 ∨ fmt = 3 then 16 else w), l.foldl (fun x y => x ||| y.2) 0)
    let col (xs : List Src) (k : Nat) : List Nat := match xs[k]? with | some x => x.lanes | none => []
    let lat (n wide : Nat) : Nat := if isWide then wide else n
    let un (i : Instr) (n m : Nat) (g : Nat → Nat × Flags) : Prop :=
      issues i [(fmt, f.a)] false false false (lat n m) (fun xs => join ((col xs 0).map g))
    let bin (i : Instr) (n m : Nat) (g : Nat → Nat → Nat × Flags) : Prop :=
      issues i [(fmt, f.a), (fmt, f.b)] false false false (lat n m) (fun xs => join (((col xs 0).zip (col xs 1)).map (fun e => g e.1 e.2)))
    let ter (i : Instr) (n m : Nat) (g : Nat → Nat → Nat → Nat × Flags) : Prop :=
      issues i [(fmt, f.a), (fmt, f.b), (fmt, f.c)] false false false (lat n m)
        (fun xs => join (((col xs 0).zip ((col xs 1).zip (col xs 2))).map (fun e => g e.1 e.2.1 e.2.2)))
    let m := f.rnd.toNat
    let raw (v : Nat) : FVal := F.decode v
    let get (v : Nat) : FVal := F.flushIn f.fi (F.decode v)
    let put (x : FVal × Flags) : Nat × Flags := (F.encode (F.round m f.fo false x.1).1, x.2 ||| (F.round m f.fo false x.1).2)
    let root (g : FVal → FVal × Flags) (v : Nat) : Nat × Flags :=
      let x := g (get v)
      let r := F.roundAt (min F.p 14) m f.fo false x.1
      (F.encode r.1, x.2 ||| r.2)
    let mask (b : Bool) : Nat := if b then 2 ^ w - 1 else 0
    let cmp (quiet : Bool) (g : FVal → FVal → Bool) (a b : Nat) : Nat × Flags :=
      if (raw a).isNan || (raw b).isNan then (0, if quiet then 0 else fNV) else (mask (g (raw a) (raw b)), 0)
    let int (v : Nat) : Int := if fmt = 4 ∨ fmt = 6 then signedOf w v else (v : Int)
    let wrap (v : Int) : Nat × Flags := ((v % (2 ^ w : Int)).toNat, 0)
    let mode : Mode := { rnd := m, fi := f.fi, fo := f.fo }
    let control (xs : List Src) : Pack := Pack.of ((col xs 1).head?.getD 0)
    let b8 (i : Instr) (out : List Src → List Nat × Flags) : Prop :=
      issues i [(0, f.a), (0, f.b)] false false false 4 (fun xs => (packLanes 0 (out xs).1, ((out xs).1.head?.getD 0) % 2 ^ 32, (out xs).2))
    let move (i : Instr) (g : List Nat → List Nat → List Nat) : Prop :=
      issues i [(fmt, f.a), (fmt, f.b)] false false false 2 (fun xs => join ((g (col xs 0) (col xs 1)).map (fun v => (v, 0))))
    let red (i : Instr) (n : Nat) (g : List Nat → Nat × Flags) : Prop :=
      issues i [(fmt, f.a)] false false true n (fun xs => ((g (col xs 0)).1, (g (col xs 0)).1, (g (col xs 0)).2))
    let cvt (i : Instr) (sat : Bool) : Prop :=
      let src := f.c.toNat % 8
      issues i [(src, f.a)] false false false 3 (fun xs =>
        let r := cvtLanes src fmt mode sat (col xs 0)
        (packLanes fmt r.1, (r.1.head?.getD 0) % 2 ^ (if fmt = 2 ∨ fmt = 3 then 16 else w), r.2))
    (bin (.fadd f) 4 6 (fun a b => put (fAdd m (get a) (get b))) ∧ bin (.fsub f) 4 6 (fun a b => put (fAdd m (get a) (get b).negate)) ∧
      bin (.fmul f) 4 6 (fun a b => put (fMul (get a) (get b))) ∧ ter (.ffma f) 5 7 (fun a b c => put (fFma m (get a) (get b) (get c))) ∧
      ter (.ffms f) 5 7 (fun a b c => put (fFma m (get a) (get b) (get c).negate)) ∧
      ter (.fnfma f) 5 7 (fun a b c => put (fFma m (get a).negate (get b) (get c))) ∧
      bin (.fmin f) 2 2 (fun a b => (F.encode (fMin (raw a) (raw b)), 0)) ∧ bin (.fmax f) 2 2 (fun a b => (F.encode (fMax (raw a) (raw b)), 0)) ∧
      un (.fabs f) 2 2 (fun a => (F.encode (raw a).abs, 0)) ∧ un (.fneg f) 2 2 (fun a => (F.encode (raw a).negate, 0)) ∧
      bin (.fceq f) 2 2 (cmp true fEq) ∧ bin (.fclt f) 2 2 (cmp false fLt) ∧ bin (.fcle f) 2 2 (cmp false (fun a b => fLt a b || fEq a b)) ∧
      un (.frcp f) 8 12 (root fRcp) ∧ un (.frsq f) 8 12 (root fRsq) ∧ un (.fexp2 f) 8 12 (root fExp2) ∧ un (.flog2 f) 8 12 (root fLog2)) ∧
    (bin (.iadd f) 2 2 (fun a b => wrap (int a + int b)) ∧ bin (.isub f) 2 2 (fun a b => wrap (int a - int b)) ∧
      bin (.imul f) 4 6 (fun a b => wrap (int a * int b)) ∧ bin (.imulh f) 4 6 (fun a b => wrap (int a * int b / 2 ^ w)) ∧
      bin (.iand f) 2 2 (fun a b => (a &&& b, 0)) ∧ bin (.ior f) 2 2 (fun a b => (a ||| b, 0)) ∧ bin (.ixor f) 2 2 (fun a b => (a ^^^ b, 0)) ∧
      bin (.ishl f) 2 2 (fun a b => wrap ((a * 2 ^ (b % w) : Nat) : Int)) ∧ bin (.ishr f) 2 2 (fun a b => wrap ((a / 2 ^ (b % w) : Nat) : Int)) ∧
      bin (.isra f) 2 2 (fun a b => wrap (signedOf w a / 2 ^ (b % w))) ∧
      bin (.imin f) 2 2 (fun a b => wrap (min (int a) (int b))) ∧ bin (.imax f) 2 2 (fun a b => wrap (max (int a) (int b))) ∧
      bin (.iceq f) 2 2 (fun a b => (mask (int a == int b), 0)) ∧ bin (.iclt f) 2 2 (fun a b => (mask (decide (int a < int b)), 0)) ∧
      un (.iabs f) 2 2 (fun a => wrap (int a).natAbs) ∧
      bin (.iaddsat f) 2 2 (fun a b =>
        let v := int a + int b
        let lo : Int := if fmt = 4 ∨ fmt = 6 then -(2 ^ (w - 1)) else 0
        let hi : Int := if fmt = 4 ∨ fmt = 6 then 2 ^ (w - 1) - 1 else 2 ^ w - 1
        let c := max lo (min hi v)
        ((wrap c).1, if c = v then 0 else fSAT))) ∧
    cvt (.cvt f) false ∧ cvt (.cvtSat f) true ∧
    -- The four lanes of its group alone are written when it lands.
    writes (.pk8 f) [(0, f.a), (0, f.b)] false false false 4 (fun xs => some (control xs).group) (fun xs =>
      let r := lanePk8 (control xs) mode (col xs 0)
      (packLanes 0 r.1, (r.1.head?.getD 0) % 2 ^ 32, r.2)) ∧
    b8 (.upk8 f) (fun xs => laneUpk8 (control xs) mode (col xs 0)) ∧ b8 (.bscale f) (fun xs => laneBscale (control xs) mode (col xs 0)) ∧
    issues (.mov f) [(fmt, f.a)] (f.push != 0) true false 2 (fun xs => join ((col xs 0).map (fun v => (v, 0)))) ∧
    move (.lshuf f) (fun a b => b.map (fun k => a[k % a.length]?.getD 0)) ∧
    move (.lbcast f) (fun a b => a.map (fun _ => a[b.head?.getD 0 % a.length]?.getD 0)) ∧
    move (.lrot f) (fun a b => (List.range a.length).map (fun k => a[(k + b.head?.getD 0) % a.length]?.getD 0)) ∧
    ter (.peSel f) 2 2 (fun a b c => (if c ≠ 0 then a else b, 0)) ∧
    red (.redadd f) (if fmt < 4 then (if isWide then 14 else 12) else 6) (laneRedadd fmt mode) ∧
    red (.redmax f) 6 (laneRedpick fmt mode fMax max) ∧ red (.redmin f) 6 (laneRedpick fmt mode fMin min) ∧
    issues (.tkind f) [(0, f.a)] true false true 2 (fun xs =>
      let v := match xs with
        | x :: _ => (match x.tok with | some t => t.kind.toNat + (if t.poison then 16 else 0) | none => 0)
        | [] => 0
      (v, v, 0)) ∧
    exec .nop s = .next s) ∧
  (∀ (s : State) (f : PeF) (x : Src) (u : State) (t : Tok), x.tok = some t →
    let fmt := f.fmt.toNat
    let q := f.dst.toNat
    let fin (v : State) : Prop := v.myRow.tkfin = s.myRow.tkfin ||| 2 ^ (s.cur.pe % 4)
    let same (v : State) : Prop := v.myRow.tkfin = s.myRow.tkfin
    let joins (l : List Flight) (y : Flight) : List Flight :=
      l.takeWhile (fun z => z.land ≤ y.land) ++ [y] ++ l.dropWhile (fun z => z.land ≤ y.land)
    let start := if s.myRow.issue = 0 then s.cyc else s.myRow.began
    let ready := max (s.cyc + 4) (s.myCore.gathers.foldl (fun n g => if g.1 < start then max n g.2 else n) 0)
    let rest (v : State) : Prop := v.mem = s.mem ∧ v.threads = s.threads
    let stop : Option Nat := if 4 ≤ t.kind.toNat ∧ t.kind.toNat ≤ 10 then some (t.kind.toNat - 4) else none
    (s.source 0 f.a.toNat = some (x, u) →
      let hit : Prop := t.kind = f.dst ∨ ∃ k, f.dst.toNat = 4 + k ∧ k ≤ 6 ∧ (t.kind = 0xB ∨ ∃ j, stop = some j ∧ k ≤ j)
      ∃ v, exec (.qdrop f) s = .next v ∧ (hit → fin v) ∧ (¬hit → same v) ∧ rest v ∧ (∀ k, v.myCore.queue k = u.myCore.queue k) ∧
        v.myPe = (if t.poison then { s.myPe with xflags := s.myPe.xflags ||| fPSN } else s.myPe) ∧
        (t.kind = 0xB → x.popped = true → v.myRow.done = true)) ∧
    (s.source fmt f.a.toNat = some (x, u) → t.poison = false →
      let K := ((s.myCore.bundle s.cur.row (s.myCore.row s.cur.row).pc).extractLsb' 192 32).toNat
      let p := s.myPe
      let len := (s.myCore.queue q).entries.length
      let room (n : Nat) : Prop := f.push = 0 ∨ len + n ≤ (s.myCore.queue q).cap
      let runs (v : State) : Prop := exec (.accs f) s = .next v ∧ rest v
      let stays (v : State) : Prop := ∀ k, v.myCore.queue k = u.myCore.queue k
      (t.kind = 0 → room 0 → ∃ v, runs v ∧ same v ∧ stays v ∧
        (let d := t.data.toNat % 2 ^ (if fmt = 2 ∨ fmt = 3 then 16 else if fmt = 1 ∨ fmt = 6 ∨ fmt = 7 then 64 else 32)
         let r := if p.acnt = 0 then (d, 0) else sumLane fmt { rnd := f.rnd.toNat, fi := f.fi, fo := f.fo } p.asum.toNat d
         v.myPe = { p with asum := word r.1, acnt := (p.acnt + 1) % 2 ^ 32, used := true, xflags := p.xflags ||| r.2 })) ∧
      ((t.kind = 1 ∨ t.kind = 2 ∨ t.kind = 3 ∨ (t.kind = 0xB ∧ p.used = true)) → exec (.accs f) s = .next (s.slotFault 0x0D)) ∧
      (t.kind = 0xB → p.used = false → room 1 → ∃ v, runs v ∧ fin v ∧ v.myPe = p ∧ (x.popped = true → v.myRow.done = true) ∧
        (f.push = 0 → stays v) ∧
        (f.push ≠ 0 → v.myCore.queue q = (u.myCore.queue q).insert { tok := ⟨0xB, false, 0⟩, ready, key := 4 * s.cyc + s.cur.row })) ∧
      (∀ j, stop = some j →
        (j < K → room 0 → ∃ v, runs v ∧ same v ∧ stays v ∧ v.myPe = { p with used := true }) ∧
        (K ≤ j → room (if K = j then 1 else 2) → ∃ v e, runs v ∧ fin v ∧ v.myPe = { p with asum := 0, acnt := 0, used := false, flight := joins p.flight e } ∧
          e.land = s.cyc + 4 ∧ e.lanes = none ∧ e.isS = false ∧ e.nb = true ∧ e.flags = 0 ∧ e.dst = (if f.push = 0 then some (q % 16) else none) ∧
          e.value = BitVec.ofNat 512 (packLanes fmt (uniform fmt p.asum.toNat)) ∧
          (let entry (k : BitVec 4) (d : Word) : QEntry := { tok := ⟨k, false, d⟩, ready, key := 4 * s.cyc + s.cur.row }
           let first := (u.myCore.queue q).insert (entry 0 (word (p.asum.toNat % 2 ^ (if fmt = 2 ∨ fmt = 3 then 16 else if fmt = 1 ∨ fmt = 6 ∨ fmt = 7 then 64 else 32))))
           (f.push = 0 → stays v) ∧ (f.push ≠ 0 → j = K → v.myCore.queue q = first) ∧
           (f.push ≠ 0 → K < j → v.myCore.queue q = first.insert (entry (BitVec.ofNat 4 (4 + (j - K - 1))) 0)))))))

/-- R102, R138, R141, R144 to R146, R164 to R167, R364, R365. The model's choices (log 38): at bundle 511 the loop register and the `bqpush`
value of the control do not stand; NB after `pk8` holds its lanes merged with the others of vd; which gathers a `bqpush` value waits for.
The condition of R364 is the model's `mutualWait`. -/
def Obligations.RowResults : Prop :=
  (∀ (s : State) (target : BitVec 9) (q kind : BitVec 4) (l : BitVec 2) (count : Word32) (pe : BitVec 2) (r : BitVec 3),
    let c := s.myCore
    let x := s.myRow
    let at_ (loops : Tab Word32) (pc : Nat) : Row :=
      { x with loops, pc, issue := 0, tkfin := 0, counted := [], handed := false, taken := false, done := false, bqv := none
               run := if isEnd (c.bundle s.cur.row pc) then .atEnd else .running }
    let becomes (i : Instr) (y : Row) : Prop := exec i s = .next (s.setCore s.cur.m (c.setRow s.cur.row y))
    let goes (i : Instr) (loops : Tab Word32) (pc : Nat) : Prop := ∃ t, exec i s = .next t ∧ t.myRow = at_ loops pc ∧
      (∀ k, k ≠ s.cur.row → t.myCore.row k = c.row k) ∧ t.mem = s.mem ∧ t.threads = s.threads ∧ t.myCore.pes = c.pes ∧
      t.myCore.queues = c.queues
    let onward (i : Instr) (loops : Tab Word32) : Prop :=
      (x.pc ≠ 511 → goes i loops (x.pc + 1)) ∧
      (x.pc = 511 → c.xfault = none →
        ∃ t, exec i s = .next t ∧ t.myRow = x ∧ t.myCore.xfault = some ⟨s.cur.row, 0x13, 4, 511⟩ ∧ t.mem = s.mem)
    let reg := Tab.get 0 x.loops l.toNat
    goes (.jmp target) x.loops target.toNat ∧ onward (.loopRow l count) (Tab.put x.loops l.toNat count) ∧
    (1 < reg.toNat → goes (.endloop l target) (Tab.put x.loops l.toNat (reg - 1)) target.toNat) ∧
    (reg.toNat ≤ 1 → onward (.endloop l target) (Tab.put x.loops l.toNat 0)) ∧
    (∀ e, (c.queue q.toNat).head s.cyc = some e →
      (e.tok.kind = kind → goes (.brTok q kind target) x.loops target.toNat) ∧
      (e.tok.kind ≠ kind → onward (.brTok q kind target) x.loops)) ∧
    ((c.queue q.toNat).head s.cyc = none →
      (q.toNat ∈ x.counted → exec (.brTok q kind target) s = .next s) ∧
      (q.toNat ∉ x.counted → ∃ t, exec (.brTok q kind target) s = .next t ∧ t.myRow = { x with counted := q.toNat :: x.counted } ∧
        -- What the cycle adds to QEMPTYCNT enters it at its end.
        Tab.get 0 (t.taskOf c.home).qemptyAdd q.toNat = Tab.get 0 (s.taskOf c.home).qemptyAdd q.toNat + 1 ∧
        (∀ k, k ≠ q.toNat → Tab.get 0 (t.taskOf c.home).qemptyAdd k = Tab.get 0 (s.taskOf c.home).qemptyAdd k) ∧
        (t.taskOf c.home).qempty = (s.taskOf c.home).qempty)) ∧
    (let p := c.pe (4 * (s.cur.row % 4) + pe.toNat % 4)
     let v := x.bqv.getD ((Tab.get 0 p.s r.toNat).setWidth 16)
     (x.bqv ≠ none ∨ p.flight = []) →
       (8 ≤ c.bq.length → ∃ t, exec (.bqpush pe r) s = .next t ∧ t.myCore.bq = c.bq ∧ t.myRow = { x with bqv := some v } ∧ t.mem = s.mem) ∧
       (c.bq.length < 8 → x.pc ≠ 511 → ∃ t, exec (.bqpush pe r) s = .next t ∧
         -- With its value, the cycle from which it can be popped.
         (let start := if x.issue = 0 then s.cyc else x.began
          t.myCore.bq = c.bq ++ [(c.gathers.foldl (fun n g => if g.1 < start then max n g.2 else n) 0, v)]) ∧
         t.myRow = at_ x.loops (x.pc + 1) ∧ t.myCore.queues = c.queues ∧ t.myCore.pes = c.pes ∧ t.mem = s.mem) ∧
       (c.bq.length < 8 → x.pc = 511 → c.xfault = none → ∃ t, exec (.bqpush pe r) s = .next t ∧ t.myCore.bq = c.bq ∧
         t.myCore.xfault = some ⟨s.cur.row, 0x13, 4, 511⟩ ∧ t.mem = s.mem)) ∧
    becomes .halt { x with run := .halted } ∧ becomes .endRow { x with run := .atEnd }) ∧
  (∀ (s : State) (core pe : Nat),
    let c := s.core core
    let p := c.pe pe
    let due := p.flight.filter (fun f => f.land ≤ s.cyc)
    let flags (l : List Flight) : Flags := l.foldl (fun x f => x ||| f.flags) 0
    ∃ t y, exec (.peResultLands core pe) s = .next t ∧ (t.core core).pe pe = y ∧
      y.flight = p.flight.filter (fun f => s.cyc < f.land) ∧ (due = [] → y = p) ∧
      y.xflags = p.xflags ||| flags (due.filter (fun f => !f.claimed)) ∧
      (t.taskOf c.home).tflagsAdd = (s.taskOf c.home).tflagsAdd ||| flags (due.filter (·.claimed)) ∧
      -- A result of `pk8` writes the four lanes of its group, and leaves the others as they have landed.
      (∀ l e g d, due = l ++ [e] → e.lanes = some g → e.dst = some d → e.isS = false →
        (∀ i < 16, i / 4 = g → (Tab.get 0 y.v d).extractLsb' (32 * i) 32 = e.value.extractLsb' (32 * i) 32) ∧
        ((∀ f ∈ l, f.dst ≠ some d) → ∀ i < 16, i / 4 ≠ g →
          (Tab.get 0 y.v d).extractLsb' (32 * i) 32 = (Tab.get 0 p.v d).extractLsb' (32 * i) 32) ∧
        (e.nb = true → y.nb = Tab.get 0 y.v d)) ∧
      (∀ l e, due = l ++ [e] → e.lanes = none →
        (∀ d, e.dst = some d → e.isS = false → Tab.get 0 y.v d = e.value ∧ d ∉ y.bad) ∧
        (∀ d, e.dst = some d → e.isS = true → Tab.get 0 y.s d = e.value.setWidth 64 ∧ 0x10 + d ∉ y.bad) ∧
        (e.nb = true → y.nb = e.value ∧ 0x18 ∉ y.bad)) ∧
      (∀ d, (∀ e ∈ due, e.dst ≠ some d) → Tab.get 0 y.v d = Tab.get 0 p.v d ∧ Tab.get 0 y.s d = Tab.get 0 p.s d) ∧
      (∀ q, q ≠ pe → (t.core core).pe q = c.pe q) ∧ t.threads = s.threads ∧ t.mem = s.mem) ∧
  (∀ s : State,
    let m := s.cur.m
    let c := s.core m
    let sets (n : Nat) : Prop := exec .decoupleDeadlock s = .next (s.setCore m { c with mutualSince := n })
    (mutualWait s m = false → sets 0) ∧ (mutualWait s m = true → c.mutualSince = 0 → sets (s.cyc + 1)) ∧
    (mutualWait s m = true → c.mutualSince ≠ 0 →
      (c.mutualSince + 4095 ≠ s.cyc + 1 → exec .decoupleDeadlock s = .next s) ∧
      (c.mutualSince + 4095 = s.cyc + 1 → ∃ t f, exec .decoupleDeadlock s = .next t ∧ t.cores = s.cores ∧ t.mem = s.mem ∧
        (t.thr (thrKey m 0)).waiting = (s.thr (thrKey m 0)).waiting ++ [f] ∧ f.cause = 0x0C ∧ f.source = 8 ∧ f.tval = mutualWord s m ∧
        f.detail = mutualWord s m ∧ f.retry = .monitor m)))

/-- Two occupying commands in one sync group are log 38. R142, R171, R172, R180 to R189, R192, R193, R196, R199, R203. -/
def Obligations.MatrixCommands : Prop :=
  (∀ (s : State) (f : MatF),
    let c := s.myCore
    let m := c.matrix
    let a := f.acc.toNat
    let k := akindOf f.mfmt.toNat
    let free : Prop := m.cmd = none ∧ m.state ≠ 3 ∧ m.state ≠ 2
    let waits (r : Nat) : Prop := (c.row r).handed = true ∧ (c.row r).taken = false
    let ways (i : Instr) (P : Nat → Host.Outcome State Fault Refusal → Prop) : Prop := free →
      (s.myRow.taken = false → (∀ q < 4, q < s.cur.row → ¬waits q) → P s.cur.row (exec i s)) ∧
      (∀ r < 4, ∀ sync, waits r → (∀ q < r, ¬waits q) → decodeBundle (c.bundle r (c.row r).pc) = .ok (.matrix sync i) →
        P r (exec .matrixCommandAccept s))
    let frame (r : Nat) (t : State) : Prop := t.myCore.row r = { c.row r with taken := true, handed := false } ∧
      (∀ q, q ≠ r → t.myCore.row q = c.row q) ∧ t.mem = s.mem ∧ t.tasks = s.tasks ∧ t.mx.cmd = some f ∧ t.mx.stopreq = false ∧
      t.mx.misscnt = m.misscnt ∧ t.mx.mflags = m.mflags ∧ t.mx.mcopies = m.mcopies ∧
      { t.myCore with matrix := m, rows := c.rows, arrayFrozen := c.arrayFrozen } = c
    let accepts (i : Instr) (mop : Nat) (post : State → Prop) : Prop := ways i (fun r o => ∃ t, o = .next t ∧ frame r t ∧
      t.mx.mop = mop ∧ t.mx.lastop = mop ∧ t.mx.state = (if mop = 4 then 2 else 1) ∧ t.threads = s.threads ∧
      (mop ≠ 3 → t.mx.flags = m.flags) ∧ t.myCore.arrayFrozen = c.arrayFrozen ∧ (mop ≠ 4 → t.evFlight = s.evFlight) ∧ post t)
    let faults (i : Instr) (mop cause ring : Nat) : Prop := m.drains = [] → ways i (fun r o => ∃ t x, o = .next t ∧ frame r t ∧
      t.mx.lastop = mop ∧ t.mx.flags = m.flags ∧ t.mx.state = 3 ∧ t.myCore.arrayFrozen = true ∧ x.cause = cause ∧ x.source = 5 ∧
      x.detail = word (mop * 2 ^ 61 + ring * 2 ^ 58 + a * 2 ^ 56) ∧ x.retry = .array s.cur.m ∧
      (t.thr (thrKey s.cur.m 0)).waiting = (s.thr (thrKey s.cur.m 0)).waiting ++ [x] ∧
      ∀ q, q ≠ thrKey s.cur.m 0 → t.thr q = s.thr q)
    let keeps (t : State) : Prop := t.mx.acc = m.acc ∧ t.mx.akind = m.akind ∧ t.mx.apsn = m.apsn ∧ t.mx.isum = m.isum
    -- ACC is +0 in kind `k'`; a pair that a 32-bit kind breaks leaves the other member f32; no other accumulator changes
    let zeroed (k' : AKind) (t : State) : Prop := t.mx.kind a = k' ∧ t.mx.sums a = List.replicate 4096 0 ∧
      (∀ b, b = a ∨ (k' = .f64 ∧ b / 2 = a / 2) → t.mx.words b = List.replicate 4096 0 ∧ t.mx.poisoned b = false) ∧
      (∀ b, b / 2 = a / 2 → b ≠ a → k' ≠ .f64 → t.mx.poisoned b = m.poisoned b ∧ t.mx.sums b = m.sums b ∧
        (m.kind a = .f64 → t.mx.kind b = .f32) ∧ (m.kind a ≠ .f64 → t.mx.kind b = m.kind b ∧ t.mx.words b = m.words b)) ∧
      (∀ b, b / 2 ≠ a / 2 → t.mx.kind b = m.kind b ∧ t.mx.words b = m.words b ∧ t.mx.poisoned b = m.poisoned b ∧ t.mx.sums b = m.sums b)
    let starts (p : MPhase) (T : Int) (t : State) : Prop := t.mx.phase = p ∧ (t.mx.due : Int) = T ∧ t.mx.s0 = T ∧ t.mx.idx = 0
    -- untimed from the next cycle, timed at T0, never in the past
    let timed (i : Instr) (mop : Nat) (p : MPhase) (post : Int → State → Prop) : Prop :=
      (f.timed = false → accepts i mop (fun t => starts p (s.cyc + 1) t ∧ post (s.cyc + 1) t)) ∧
      (∀ T : Int, f.timed = true → (T - f.stamp.toNat) % 2 ^ 48 = 0 → (s.cyc : Int) - 2 ^ 47 ≤ T → T < s.cyc + 2 ^ 47 →
        ((s.cyc : Int) ≤ T → accepts i mop (fun t => starts p T t ∧ post T t)) ∧
        (T < s.cyc → faults i mop 0x10 f.ra.toNat))
    -- a row whose command the array has, or cannot take
    (∀ i ∈ [.mma f, .mzero f, .mload f, .mdrain f, .simmer f],
      (s.myRow.taken = true → exec i s = .next s) ∧
      (s.myRow.taken = false → ¬free ∨ (∃ q < 4, q < s.cur.row ∧ waits q) →
        exec i s = .next (s.setCore s.cur.m (c.setRow s.cur.row { s.myRow with handed := true })))) ∧
    (¬free ∨ (∀ r < 4, ¬waits r) → exec .matrixCommandAccept s = .next s) ∧
    accepts (.mzero f) 1 (fun t => t.mx.phase = .zeroing ∧ t.mx.due = s.cyc + 16 ∧
      zeroed (if m.kind a = .f64 ∧ a % 2 = 1 then .f32 else m.kind a) t) ∧
    accepts (.mload f) 2 (fun t => t.mx.phase = .loadWait ∧ t.mx.due = s.cyc + 1 ∧ keeps t) ∧
    (¬(m.kind a = .f64 ∧ (a % 2 = 1 ∨ (c.ring f.rd.toNat).slot ≠ 2)) → accepts (.mdrain f) 3 (fun t =>
      t.mx.phase = .drainWait ∧ t.mx.due = s.cyc + 1 ∧ (m.kind a ≠ .i32 → keeps t) ∧
      (m.kind a = .i32 → t.mx.words a = ((m.words a).zip (m.sums a)).map (fun e => BitVec.ofInt 32 (e.1.toInt + e.2)) ∧
        t.mx.flags = m.flags ||| (if ((m.words a).zip (m.sums a)).any (fun e => e.1.toInt + e.2 < -2 ^ 31 || 2 ^ 31 ≤ e.1.toInt + e.2)
          then fSAT else 0) ∧ t.mx.sums a = List.replicate 4096 0 ∧ ∀ b, b ≠ a → t.mx.words b = m.words b ∧ t.mx.sums b = m.sums b))) ∧
    (m.kind a = .f64 ∧ (a % 2 = 1 ∨ (c.ring f.rd.toNat).slot ≠ 2) → faults (.mdrain f) 3 0x12 f.rd.toNat) ∧
    (f.accum = true → m.kind a ≠ k → faults (.mma f) 0 0x12 f.ra.toNat) ∧
    (f.accum = true → m.kind a = k → timed (.mma f) 0 .pairWait (fun _ t => t.mx.beats = 0 ∧ keeps t)) ∧
    (f.accum = false → timed (.mma f) 0 .pairWait (fun _ t => t.mx.beats = 0 ∧ zeroed k t)) ∧
    timed (.simmer f) 4 .attempt (fun T t => t.mx.beats = 0 ∧ t.mx.slips = 0 ∧ t.mx.dla = f.la.toNat ∧ t.mx.dlb = f.lb.toNat ∧
      zeroed k t ∧
      (let task := s.taskOf c.home
       let slot := if f.trole.toNat = task.role then f.tthread.toNat else 4 + f.tthread.toNat
       let below (l : BitVec 4) : Nat := if f.count = 0 then l.toNat else min l.toNat f.count.toNat
       let ev (evk ring j : Nat) : EvFlight :=
         { id := 0, pkey := 0
           ev := { d0 := word (evk * 2 ^ 60 + ring * 2 ^ 57 + a * 2 ^ 55 + j)
                   d1 := word (task.role * 2 ^ 52 + ((T + j * beatLen f.mfmt.toNat) % 2 ^ 48).toNat) }
           task := c.home, slot, ptask := c.home, pslot := 100 }
       let demands (evk : Nat) (ring : BitVec 3) (l : BitVec 4) : List EvFlight :=
         let n := (c.ring ring.toNat).count
         (List.range' n (below l - n)).map (ev evk ring.toNat)
       let all := demands 1 f.ra f.la ++ demands 2 f.rb f.lb
       let posted := (all.zip (List.range all.length)).map (fun e => { e.1 with id := s.nextId + e.2 })
       (s.keyOf c.home slot ≠ none → t.evFlight = s.evFlight ++ posted ∧ t.mx.evlost = false) ∧
       (s.keyOf c.home slot = none → t.evFlight = s.evFlight ∧ t.mx.evlost = (posted != []))))) ∧
  (∀ s : State,
    let c := s.myCore
    let m := c.matrix
    let becomes (i : Instr) (m' : Matrix) : Prop :=
      exec i s = .next (s.setCore s.cur.m ({ c with matrix := m' }.setRow s.cur.row { s.myRow with taken := true }))
    let inRun : Prop := m.cmd ≠ none ∧ m.mop = 4 ∧ m.phase ≠ .ending
    -- The flags from before the drain gathers of this cycle.
    let now := match m.was with | some (n, f) => if n = s.cyc then f else m.flags | none => m.flags
    let copied : Matrix := { m with mflags := m.seenFlags s.cyc, mcopies := m.mcopies.filter (fun e => s.cyc < e.1) ++ [(s.cyc + 2, now)] }
    (inRun → becomes .simstop { m with stopreq := true }) ∧ (¬inRun → becomes .simstop m) ∧
    becomes .mstat copied ∧ (∀ n, s.cyc + 2 ≤ n → copied.seenFlags n = now) ∧ copied.seenFlags s.cyc = m.seenFlags s.cyc ∧
    -- mfence is accepted at once, and its row then waits at the end of its bundle until the array is idle.
    becomes .mfence m ∧
    (∀ r sync, decodeBundle (c.bundle r (c.row r).pc) = .ok (.matrix sync .mfence) →
      (controlWaits s c r = true ↔ ¬(m.cmd = none ∧ m.drains = [] ∧ m.state = 0))))

/-- R111, R182 to R187, R190, R191, R194 to R200, R203. The model's choices: the cycle in which each event completes its command (log 31); the
flags of a pair or beat taken in its first cycle, and a drain that waits for a slot (log 38); a `simstop` accepted in the cycle of a missed
attempt (log 39). -/
def Obligations.MatrixEvents : Prop :=
  ∀ (s : State) (f : MatF), s.Inv →
    let n := s.cur.m
    let c := s.myCore
    let m := c.matrix
    let a := f.acc.toNat
    let mf := f.mfmt.toNat
    let k := akindOf mf
    let bt := beatLen mf
    let zeros : List Int := List.replicate 4096 0
    let quiet (i : Instr) : Prop := exec i s = .next s
    let becomes (i : Instr) (m' : Matrix) : Prop := exec i s = .next (s.setCore n { c with matrix := m' })
    let done (m : Matrix) : Matrix := { m with cmd := none, phase := .idle, state := 0, stopreq := false, dla := 0, dlb := 0 }
    let due : Prop := m.due ≤ s.cyc
    let present (r : BitVec 3) : Prop := 0 < (c.ring r.toNat).count
    let absent : Nat := if 0 < (c.ring f.ra.toNat).count then f.rb.toNat else f.ra.toNat
    -- the fault `x` reaches the anchor
    let reaches (t : State) (cause : Nat) (w : Word) : Prop := ∃ x : FaultRec, x.cause = cause ∧ x.source = 5 ∧ x.retry = .array n ∧
      x.detail = w ∧ (t.thr (thrKey n 0)).waiting = (s.thr (thrKey n 0)).waiting ++ [x] ∧ ∀ q, q ≠ thrKey n 0 → t.thr q = s.thr q
    -- MISSCNT takes what `missAdd` counts at the end of the cycle; with drains in progress the fault waits for them
    let fails (i : Instr) (cause ring index : Nat) (miss : Word) (flags : Flags) : Prop := ∃ t, exec i s = .next t ∧
      { t.mx with state := m.state, missAdd := m.missAdd, pend := m.pend, flags := m.flags } = m ∧ t.mx.flags = m.flags ||| flags ∧ t.mx.state = 3 ∧ t.mx.missAdd = m.missAdd + miss ∧
      t.myCore.arrayFrozen = true ∧ { t.myCore with matrix := m, arrayFrozen := c.arrayFrozen } = c ∧ t.mem = s.mem ∧
      t.tasks = s.tasks ∧
      (let w := word (m.mop * 2 ^ 61 + ring * 2 ^ 58 + a * 2 ^ 56 + index % 2 ^ 48)
       (m.drains = [] → t.mx.pend = none ∧ reaches t cause w) ∧
       (m.drains ≠ [] → t.mx.pend = some (cause, w) ∧ t.threads = s.threads))
    let faults (i : Instr) (cause ring index : Nat) (miss : Word) : Prop := fails i cause ring index miss 0
    -- a refused tile: poison in its descriptor's sector sets PSN (log 38)
    let refused (i : Instr) (ring index : Nat) : Prop :=
      fails i 0x12 ring index 0 (if c.scrPoisonedIn ((c.ring ring).slotAt (c.ring ring).head) 32 then fPSN else 0)
    let stays (t : State) : Prop := t.mem = s.mem ∧ t.threads = s.threads ∧ t.tasks = s.tasks
    let added (S : List Int) : List Word32 := ((m.words a).zip S).map (fun e => BitVec.ofInt 32 (e.1.toInt + e.2))
    let wrapped (S : List Int) : Flags :=
      if ((m.words a).zip S).any (fun e => e.1.toInt + e.2 < -2 ^ 31 || 2 ^ 31 ≤ e.1.toInt + e.2) then fSAT else 0
    -- the sums of the pair at the heads
    let A := headTile c s.tick f.ra.toNat 4096
    let B := headTile c s.tick f.rb.toNat 4096
    let summed (t : State) : Prop :=
      let psn := A.2.2.2 || B.2.2.2
      let flags := m.flags ||| (if psn then fPSN else 0)
      let ra := tileRows A.1 A.2.1 mf A.2.2.1
      let rb := tileRows B.1 B.2.1 mf B.2.2.1
      let S := innerPair ra rb (m.sums a)
      let r := accPair mf ra rb (m.elems a k)
      stays t ∧ { t.myCore with matrix := m } = c ∧ t.mx.phase = .pairRun ∧ t.mx.due + 1 = s.cyc + bt ∧ t.mx.idx = m.idx ∧
      t.mx.beats = m.beats ∧ t.mx.akind = m.akind ∧ t.mx.poisoned a = (m.poisoned a || psn) ∧
      (∀ b, b ≠ a → t.mx.poisoned b = m.poisoned b ∧ t.mx.sums b = m.sums b ∧
        (¬(k = .f64 ∧ b / 2 = a / 2) → t.mx.words b = m.words b)) ∧
      (k = .i32 → t.mx.pairs = m.pairs + 1 ∧
        ((m.pairs + 1) % 4 ≠ 0 → t.mx.words a = m.words a ∧ t.mx.sums a = S ∧ t.mx.flags = flags) ∧
        ((m.pairs + 1) % 4 = 0 → t.mx.words a = added S ∧ t.mx.sums a = zeros ∧ t.mx.flags = flags ||| wrapped S)) ∧
      (k ≠ .i32 → t.mx.flags = flags ||| r.2 ∧ t.mx.sums a = m.sums a) ∧
      (k = .f32 → t.mx.words a = r.1.map (BitVec.ofNat 32)) ∧
      (k = .f64 → t.mx.words (a / 2 * 2) = r.1.map (BitVec.ofNat 32) ∧
        t.mx.words (a / 2 * 2 + 1) = r.1.map (fun v => BitVec.ofNat 32 (v / 2 ^ 32)))
    let pairClauses (i : Instr) (post : State → Prop) : Prop :=
      (operandOk A.1 mf = false → refused i f.ra.toNat m.idx) ∧
      (operandOk A.1 mf = true → operandOk B.1 mf = false → refused i f.rb.toNat m.idx) ∧
      (operandOk A.1 mf = true → operandOk B.1 mf = true → ∃ t, exec i s = .next t ∧ summed t ∧ post t)
    -- the heads of rings are released, their descriptors zero
    let released (rs : List Nat) (t : State) : Prop :=
      let at_ (j : Nat) : Prop := ∃ r ∈ rs, (c.ring r).slotAt (c.ring r).head ≤ j ∧ j < (c.ring r).slotAt (c.ring r).head + 8
      stays t ∧ t.evFlight = s.evFlight ∧ { t.myCore with matrix := m, rings := c.rings, scratch := c.scratch, sundef := c.sundef } = c ∧
      (∀ r, r ∉ rs → t.myCore.ring r = c.ring r) ∧
      (∀ r ∈ rs, t.myCore.ring r = (if 0 < (c.ring r).count then
        { c.ring r with head := ((c.ring r).head + 1) % (c.ring r).depth, count := (c.ring r).count - 1 } else c.ring r)) ∧
      (∀ j, at_ j → t.myCore.scrByte s.tick j = 0) ∧ (∀ j, ¬at_ j → t.myCore.scrByte s.tick j = c.scrByte s.tick j)
    let same (t : State) : Prop := t.mx.acc = m.acc ∧ t.mx.akind = m.akind ∧ t.mx.apsn = m.apsn ∧ t.mx.isum = m.isum
    let folded (t : State) : Prop := t.mx.words a = added (m.sums a) ∧ t.mx.sums a = zeros ∧
      t.mx.flags = m.flags ||| wrapped (m.sums a) ∧ ∀ b, b ≠ a → t.mx.words b = m.words b ∧ t.mx.sums b = m.sums b
    -- elements become +0; `mdrain` with ZERO clears APSN too
    let blanked (t : State) : Prop := t.mx.akind = m.akind ∧ t.mx.words a = List.replicate 4096 0 ∧ t.mx.sums a = zeros ∧
      (m.kind a = .f64 → ∀ b, b / 2 = a / 2 → t.mx.words b = List.replicate 4096 0) ∧
      ∀ b, b ≠ a → ¬(m.kind a = .f64 ∧ b / 2 = a / 2) → t.mx.words b = m.words b ∧ t.mx.sums b = m.sums b ∧ t.mx.poisoned b = m.poisoned b
    let zeroed (t : State) : Prop := blanked t ∧ t.mx.poisoned a = false ∧
      (m.kind a = .f64 → ∀ b, b / 2 = a / 2 → t.mx.poisoned b = false)
    let drained (t : State) : Prop := blanked t ∧ t.mx.apsn = m.apsn
    -- events of the array to its demand target
    let task := s.taskOf c.home
    let slot := if f.trole.toNat = task.role then f.tthread.toNat else 4 + f.tthread.toNat
    let event (evk ring index : Nat) (cycle : Int) : EvFlight :=
      { id := 0, pkey := 0
        ev := { d0 := word (evk * 2 ^ 60 + ring * 2 ^ 57 + a * 2 ^ 55 + index % 2 ^ 48)
                d1 := word (task.role * 2 ^ 52 + (cycle % 2 ^ 48).toNat) }
        task := c.home, slot, ptask := c.home, pslot := 100 }
    let posts (l : List EvFlight) (t : State) : Prop :=
      (s.keyOf c.home slot ≠ none → t.mx.evlost = m.evlost ∧
        t.evFlight = s.evFlight ++ (l.zip (List.range l.length)).map (fun e => { e.1 with id := s.nextId + e.2 })) ∧
      (s.keyOf c.home slot = none → t.evFlight = s.evFlight ∧ t.mx.evlost = (m.evlost || l != []))
    -- the accumulator enters a drain buffer, and its tail slot is reserved
    let reserved := (m.drains.filter (fun d => d.ring == f.rd.toNat)).length
    let room : Prop := (c.ring f.rd.toNat).count + reserved < (c.ring f.rd.toNat).depth
    let begun (tag last : Nat) (simmer final : Bool) (t : State) : Prop :=
      stays t ∧ t.evFlight = s.evFlight ∧ { t.myCore with matrix := m } = c ∧
      t.mx.drains = m.drains ++
        [{ ring := f.rd.toNat
           due := s.cyc + (if m.kind a = .f64 then 129 else 65), tag, fcode := match m.kind a with | .f32 => 3 | .f64 => 4 | .i32 => 6
           words := match m.kind a with
             | .f32 => m.words a
             | .i32 => added (m.sums a)
             | .f64 => ((m.words (a / 2 * 2)).zip (m.words (a / 2 * 2 + 1))).flatMap (fun e => [e.1, e.2])
           poison := m.poisoned a, last, simmer, final }]
    let finalDrain (tag : Nat) (t : State) : Prop :=
      begun tag (m.idx - 1) true true t ∧ drained t ∧ t.mx.period = 0 ∧ t.mx.phase = .ending
    -- it is due, and its ring has a slot to publish (log 38)
    let ripe (d : Drain) : Prop := d.due ≤ s.cyc ∧ (c.ring d.ring).count < (c.ring d.ring).depth
    -- a drained tile is written and published, and the flags are gathered
    let written (d : Drain) (t : State) : Prop :=
      let r := c.ring d.ring
      let off := r.slotAt r.tail
      let size := 256 + 4 * d.words.length
      let byte (i : Nat) : Byte := t.myCore.scrByte s.tick (off + i)
      (∀ i < 8, byte i = BitVec.ofNat 8 ((d.tag % 2 ^ 32 * 2 ^ 32 + 0x8000 + d.fcode) / 256 ^ i)) ∧
      (∀ i < 248, byte (8 + i) = 0) ∧
      (∀ i w, d.words[i]? = some w → ∀ b < 4, byte (256 + 4 * i + b) = BitVec.ofNat 8 (w.toNat / 256 ^ b)) ∧
      (∀ j, j < off ∨ off + size ≤ j → t.myCore.scrByte s.tick j = c.scrByte s.tick j) ∧
      t.myCore.ring d.ring = { r with tail := (r.tail + 1) % r.depth, count := r.count + 1 } ∧
      (∀ q, q ≠ d.ring → t.myCore.ring q = c.ring q) ∧
      (off % 32 = 0 → size % 32 = 0 → ∀ x, x ∈ t.myCore.spoison ↔
        (d.poison = true ∧ (off + 256) / 32 ≤ x ∧ x < (off + size) / 32) ∨
        (x ∈ c.spoison ∧ ¬(off / 32 ≤ x ∧ x < (off + size) / 32))) ∧
      { t.myCore with matrix := m, rings := c.rings, scratch := c.scratch, spoison := c.spoison,
                        sundef := c.sundef } = c ∧
      (t.taskOf c.home).tflagsAdd = (s.taskOf c.home).tflagsAdd ||| m.flags ∧ (∀ q, q ≠ c.home → t.taskOf q = s.taskOf q) ∧
      t.mx.flags = 0 ∧ t.mem = s.mem
    -- without a command, and the ends of mma and mzero
    (m.cmd = none → ∀ i ∈ [Instr.mmaPairStart, .mmaPairEnd, .mloadComplete, .mdrainComplete, .simmerAttempt, .beatEnd, .simmerDrainPublish],
      quiet i) ∧
    (m.phase = .finishing ∧ due → becomes .mmaComplete (done m)) ∧ (¬(m.phase = .finishing ∧ due) → quiet .mmaComplete) ∧
    (m.phase = .zeroing ∧ due → becomes .mzeroComplete (done m)) ∧ (¬(m.phase = .zeroing ∧ due) → quiet .mzeroComplete) ∧
    (m.cmd = some f →
      -- pairs of an mma
      (¬(m.phase = .pairWait ∧ due) → quiet .mmaPairStart) ∧
      (m.phase = .pairWait → due →
        (present f.ra → present f.rb → pairClauses .mmaPairStart (fun t => t.evFlight = s.evFlight)) ∧
        (¬(present f.ra ∧ present f.rb) → (m.untimed = true → quiet .mmaPairStart) ∧
          (m.untimed = false → faults .mmaPairStart 0x10 absent m.idx 0))) ∧
      (¬(m.mop = 0 ∧ m.phase = .pairRun ∧ due) → quiet .mmaPairEnd) ∧
      (m.mop = 0 → m.phase = .pairRun → due → f.ra ≠ f.rb → ∃ t, exec .mmaPairEnd s = .next t ∧
        released [f.ra.toNat, f.rb.toNat] t ∧ t.mx.idx = m.idx + 1 ∧ t.mx.beats = (m.beats + 1) % 2 ^ 35 ∧ t.mx.state = m.state ∧
        (m.idx + 1 < f.count.toNat → t.mx.phase = .pairWait ∧ t.mx.due = s.cyc + 1 ∧ same t) ∧
        (f.count.toNat ≤ m.idx + 1 → t.mx.phase = .finishing ∧ t.mx.due = s.cyc + 9 ∧
          (m.kind a = .i32 → folded t) ∧ (m.kind a ≠ .i32 → same t))) ∧
      -- loads
      (¬(due ∧ (m.phase = .loadWait ∨ m.phase = .loading)) → quiet .mloadComplete) ∧
      (m.phase = .loadWait → due →
        let T := headTile c s.tick f.ra.toNat (if mf = 4 then 32768 else 16384)
        (¬present f.ra → quiet .mloadComplete) ∧
        (present f.ra → loadOk T.1 mf = false → refused .mloadComplete f.ra.toNat 0) ∧
        (present f.ra → loadOk T.1 mf = true → ∃ t, exec .mloadComplete s = .next t ∧ stays t ∧ { t.myCore with matrix := m } = c ∧
          t.mx.phase = .loading ∧ t.mx.due + 1 = s.cyc + (if mf = 4 then 128 else 64) ∧ t.mx.kind a = k ∧ t.mx.sums a = zeros ∧
          t.mx.poisoned a = T.2.2.2 ∧ t.mx.flags = m.flags ||| (if T.2.2.2 then fPSN else 0) ∧
          (k ≠ .f64 → t.mx.words a = (pieces 4 4096 T.2.2.1).map (fun p => BitVec.ofNat 32 (ofBytes p))) ∧
          (k = .f64 → t.mx.words (a / 2 * 2) = (pieces 8 4096 T.2.2.1).map (fun p => BitVec.ofNat 32 (ofBytes p)) ∧
            t.mx.words (a / 2 * 2 + 1) = (pieces 8 4096 T.2.2.1).map (fun p => BitVec.ofNat 32 (ofBytes p / 2 ^ 32))) ∧
          ∀ b, b / 2 ≠ a / 2 → t.mx.words b = m.words b ∧ t.mx.kind b = m.kind b ∧ t.mx.sums b = m.sums b)) ∧
      (m.phase = .loading → due → ∃ t, exec .mloadComplete s = .next t ∧ released [f.ra.toNat] t ∧ t.mx = done m) ∧
      -- drains
      (m.phase = .drainWait →
        (due ∧ room → ∃ t, exec .mdrainComplete s = .next t ∧ begun 0 0 false false t ∧ t.mx.phase = .draining ∧
          (m.kind a ≠ .i32 → same t) ∧ (m.kind a = .i32 → folded t)) ∧
        (¬(due ∧ room) → quiet .mdrainComplete)) ∧
      (∀ d l, m.phase = .draining → m.drains = d :: l →
        (¬ripe d → quiet .mdrainComplete) ∧
        (ripe d → ∃ t, exec .mdrainComplete s = .next t ∧ written d t ∧ t.threads = s.threads ∧ t.evFlight = s.evFlight ∧ t.mx.drains = l ∧
          t.mx.cmd = none ∧ t.mx.state = 0 ∧ t.mx.phase = .idle ∧ (f.zero = true → zeroed t) ∧ (f.zero = false → same t))) ∧
      (m.phase ≠ .drainWait → m.phase ≠ .draining ∨ m.drains = [] → quiet .mdrainComplete) ∧
      -- beats of a run
      (¬(m.phase = .attempt ∧ due) → quiet .simmerAttempt) ∧
      -- after a restart the beats up to the lookahead are looked at first
      (m.again = true → due → m.phase = .attempt ∨ (m.mop = 4 ∧ m.phase = .drainPoint) →
        let hi (l : BitVec 4) : Nat := if f.count = 0 then m.idx + l.toNat else min (m.idx + l.toNat) f.count.toNat
        let demands (evk : Nat) (ring : BitVec 3) (l : BitVec 4) (seen : Nat) : List EvFlight :=
          ((List.range' (max seen m.idx) (hi l - max seen m.idx)).filter
            (fun j => decide ((c.ring ring.toNat).count ≤ j - m.idx))).map
            (fun j => event evk ring.toNat j (m.s0 + ((j + m.slipk) * bt : Nat)))
        ∃ u, stays u ∧ { u.myCore with matrix := m } = c ∧ posts (demands 1 f.ra f.la m.seenA ++ demands 2 f.rb f.lb m.seenB) u ∧
          { u.mx with again := true, seenA := m.seenA, seenB := m.seenB, evlost := m.evlost } = m ∧ u.mx.again = false ∧
          u.mx.seenA = max m.seenA (hi f.la) ∧ u.mx.seenB = max m.seenB (hi f.lb) ∧
          (m.phase = .attempt → exec .simmerAttempt s = exec .simmerAttempt u) ∧
          (m.phase = .drainPoint → exec .beatEnd s = exec .beatEnd u)) ∧
      (m.phase = .attempt → due → m.again = false → present f.ra → present f.rb → pairClauses .simmerAttempt (fun t =>
        let hi (l : BitVec 4) : Nat := if f.count = 0 then m.idx + l.toNat + 1 else min (m.idx + l.toNat + 1) f.count.toNat
        let demands (evk : Nat) (ring : BitVec 3) (l : BitVec 4) (seen : Nat) : List EvFlight :=
          ((List.range' (max seen m.idx) (hi l - max seen m.idx)).filter
            (fun j => decide ((c.ring ring.toNat).count ≤ j - m.idx))).map
            (fun j => event evk ring.toNat j (m.s0 + ((j + m.slipk) * bt : Nat)))
        posts (demands 1 f.ra f.la m.seenA ++ demands 2 f.rb f.lb m.seenB) t ∧
        t.mx.seenA = max m.seenA (hi f.la) ∧ t.mx.seenB = max m.seenB (hi f.lb))) ∧
      (m.phase = .attempt → due → m.again = false → ¬(present f.ra ∧ present f.rb) →
        let missed : Matrix := { m with missAdd := m.missAdd + 1 }
        let slips (m : Matrix) : Matrix := { m with slipk := m.slipk + 1, slips := min (m.slips + 1) 0xFFFF, due := s.cyc + bt }
        (f.policy = true → faults .simmerAttempt 0x11 absent m.idx 1) ∧
        (f.policy = false → m.stopreq = false → becomes .simmerAttempt (slips missed)) ∧
        (f.policy = false → m.stopreq = true →
          (m.period = 0 → m.drains ≠ [] → becomes .simmerAttempt { missed with phase := .ending }) ∧
          (m.period = 0 → m.drains = [] → ∃ t, exec .simmerAttempt s = .next t ∧ stays t ∧ { t.myCore with matrix := m } = c ∧
            posts [event 4 f.rd.toNat m.idx s.cyc] t ∧ { t.mx with evlost := m.evlost } = done missed) ∧
          (0 < m.period → room → ∃ t, exec .simmerAttempt s = .next t ∧ finalDrain m.ndrain t ∧ t.mx.missAdd = m.missAdd + 1) ∧
          (0 < m.period → ¬room → becomes .simmerAttempt { slips missed with fin := true, phase := .drainPoint }))) ∧
      (¬(m.mop = 4 ∧ due ∧ (m.phase = .pairRun ∨ m.phase = .drainPoint)) → quiet .beatEnd) ∧
      (m.mop = 4 → m.phase = .pairRun → due → f.ra ≠ f.rb → ∃ t, exec .beatEnd s = .next t ∧ released [f.ra.toNat, f.rb.toNat] t ∧
        t.mx.idx = m.idx + 1 ∧ t.mx.beats = (m.beats + 1) % 2 ^ 35 ∧ t.mx.period = m.period + 1 ∧ t.mx.phase = .drainPoint ∧
        t.mx.due = s.cyc + 1 ∧ same t) ∧
      (m.mop = 4 → m.phase = .drainPoint → due → m.again = false →
        let last : Prop := f.count ≠ 0 ∧ m.idx = f.count.toNat
        let point : Prop := m.fin = true ∨ last ∨ m.idx % f.dper.toNat = 0
        let ends : Prop := m.fin = true ∨ last ∨ m.stopreq = true
        (¬point → becomes .beatEnd { m with phase := .attempt, due := s.cyc }) ∧
        (point → room → ends → ∃ t, exec .beatEnd s = .next t ∧ finalDrain m.ndrain t ∧ t.mx.missAdd = m.missAdd) ∧
        (point → room → ¬ends → ∃ t, exec .beatEnd s = .next t ∧ begun m.ndrain (m.idx - 1) true false t ∧ drained t ∧
          t.mx.period = 0 ∧ t.mx.ndrain = m.ndrain + 1 ∧ t.mx.phase = .attempt ∧ t.mx.due = s.cyc) ∧
        (point → ¬room → (f.policy = true → faults .beatEnd 0x11 f.rd.toNat m.idx 0) ∧
          (f.policy = false → becomes .beatEnd
            { m with slipk := m.slipk + 1, slips := min (m.slips + 1) 0xFFFF, due := s.cyc + bt }))) ∧
      -- drains of a run
      (m.drains = [] → quiet .simmerDrainPublish) ∧
      (∀ d l, m.drains = d :: l →
        (d.simmer = false ∨ ¬ripe d → quiet .simmerDrainPublish) ∧
        (d.simmer = true → ripe d → ∃ t, exec .simmerDrainPublish s = .next t ∧ written d t ∧ same t ∧ t.mx.drains = l ∧
          -- a fault that waited for the last drain reaches the anchor
          (l ≠ [] ∨ m.pend = none ∨ m.phase = .ending → t.threads = s.threads) ∧
          (∀ cause w, l = [] → m.pend = some (cause, w) → m.phase ≠ .ending → t.mx.pend = none ∧ reaches t cause w) ∧
          posts ((if d.final then [] else [event 3 f.rd.toNat d.last s.cyc]) ++
            (if m.phase = .ending ∧ l = [] then [event 4 f.rd.toNat m.idx s.cyc] else [])) t ∧
          (¬(m.phase = .ending ∧ l = []) → t.mx.cmd = some f ∧ t.mx.phase = m.phase ∧ t.mx.state = m.state) ∧
          (m.phase = .ending → l = [] → t.mx.cmd = none ∧ t.mx.state = 0 ∧ t.mx.stopreq = false ∧ t.mx.dla = 0 ∧ t.mx.dlb = 0 ∧
            t.mx.beats = m.beats ∧ t.mx.slips = m.slips))))

/-- R44, R59, R133, R138, R141, R330, R357; the agenda of turns is the model's (log 1). The model's choices: PAGE_PROT for a fetch from the
aperture, or of a service thread outside the store (log 5); the part of the cycle in which `tquery`, a helper's `getcw` and `setcw`,
and a `resume` of an entry act (log 39). -/
def Obligations.StepRunsInstruction : Prop :=
  (∀ s : State, ∃ t, step s = .next t) ∧
  (∀ s : State, s.agenda = [] → ∃ t, step s = .next t ∧ t.cyc = (if s.pkg.off then s.cyc else s.cyc + 1) ∧ t.tick = s.tick + 1 ∧
    t.agenda = (if s.pkg.off then [.phase 13] else (List.range 16).map .phase) ∧ t.older = [] ∧ t.accOld = [] ∧ t.late = [] ∧
    { t with cyc := s.cyc, tick := s.tick, agenda := [], older := s.older, accOld := s.accOld, late := s.late, prior := s.prior,
             pkg := { t.pkg with temp := s.pkg.temp } } = s) ∧
  (∀ (s : State) (m t : Nat) (rest : List Move), s.agenda = .thread m t :: rest →
    let s0 : State := { s with agenda := rest, tick := s.tick + 1, cur := { m, t } }
    let runs (base : State) (w : Word) : Prop :=
      (w.toNat / 2 ^ 56 = 0x90 → base.me.svc = false → step s = .next (base.trap 0x02 0)) ∧
      (w.toNat / 2 ^ 56 ≠ 0x90 ∨ base.me.svc = true →
        (∀ e, decode w = .error e → step s = .next (base.trap 0x01 0)) ∧
        ∀ i, decode w = .ok i →
          -- These act in a later part of the cycle, while it is still to come.
          let resumes : Prop := ∃ d a, i = .resumeRetry d a ∨ i = .resumeDeliver d a ∨ i = .resumeKill d a
          let late : Prop := .phase 8 ∈ rest ∧ ((∃ d k, i = .tquery d k) ∨ (∃ d k, i = .tqueryCrc d k) ∨ resumes ∨
            (base.me.helper = true ∧ ((∃ d n, i = .getcw d n) ∨ ∃ n a, i = .setcw n a)))
          (late → step s = .next { base with late := base.late ++ [(base.curKey, i)] }) ∧ (¬late → step s = exec i base))
    let ag : Agent := if s0.me.svc then { s0.agent with phys := true } else s0.agent
    (s0.runnable s0.curKey = false → step s = .next s0) ∧
    (s0.runnable s0.curKey = true →
      (∀ w, s0.me.fetched = some w → runs (s0.modMe (fun th => { th with fetched := none })) w) ∧
      (let out : Prop := (s0.me.svc = true ∧ inService s0.me.pc = false) ∨ (s0.me.svc = false ∧ inAperture s0.me.pc.toNat = true)
       (s0.me.fetched = none → out → step s = .next (s0.trap 0x06 s0.me.pc)) ∧
       (s0.me.fetched = none → ¬out →
        (∀ c v, checkAccess s0 ag s0.me.pc 8 needFetch false = .error (.trap c v) → step s = .next (s0.trap c s0.me.pc)) ∧
        (∀ t u, checkAccess s0 ag s0.me.pc 8 needFetch false = .error (.denied t u) →
          step s = .next (s0.deny ag.master t u true false)) ∧
        (∀ acc, checkAccess s0 ag s0.me.pc 8 needFetch false = .ok acc →
          (acc.poisoned s0 false = true → step s = .next (s0.trap 0x09 s0.me.pc)) ∧
          (acc.poisoned s0 false = false → acc.far ≠ none →
            step s = .next (s0.sendRemote ag needFetch acc s0.me.pc (.read 0 8) .fetch)) ∧
          (acc.poisoned s0 false = false → acc.far = none →
            runs (commitAccess s0 ag needFetch acc) (word (s0.valueSeen acc.locs)))))))) ∧
  -- In their part of the cycle the deferred instructions run; a `resume` of an entry runs after the moves of the hub.
  (∀ (s : State) (k : Nat) (i : Instr) (rest : List Move), s.late = [(k, i)] → s.runnable k = true →
    let resumes : Prop := ∃ d a, i = .resumeRetry d a ∨ i = .resumeDeliver d a ∨ i = .resumeKill d a
    let act : Move := .event (k / 8) (k % 8) i
    (s.agenda = .phase 8 :: rest →
      (¬resumes → step s = .next { s with agenda := act :: rest, tick := s.tick + 1, late := [] }) ∧
      (resumes → step s = .next { s with agenda := rest, tick := s.tick + 1 })) ∧
    (s.agenda = .phase 12 :: rest → resumes → ∃ l,
      step s = .next { s with agenda := l ++ act :: rest, tick := s.tick + 1, late := [] })) ∧
  (∀ (s : State) (core r : Nat) (rest : List Move), s.agenda = .rows core [r] :: rest →
    let s0 : State := { s with agenda := rest, tick := s.tick + 1 }
    let c := s0.core core
    let s1 := s0.setCore core c
    let at_ : State := { s1 with cur := { m := core, row := r } }
    c.isSync r = false →
      (c.form r = some .theEnd → step s = exec .endRow at_) ∧
      (c.form r ≠ some .theEnd → breach s1 core r = none → (judge s1 core [r]).holds = false → (judge s1 core [r]).faults = [] →
        -- A command is handed over, and the row's issue cycle takes place in the cycle in which the array takes it.
        (∀ i, c.matrixOp r = some i → (c.row r).taken = false →
          let goes : Prop := commandOf i = none ∨ (c.matrix.accepts = true ∧ lowerHands s1 core r [r] = false)
          (goes → ∃ t, exec (if (c.row r).handed && c.matrix.accepts then .matrixCommandAccept else i) at_ = .next t ∧
            step s = .next (issueTaken t core r)) ∧
          (¬goes → lowerHands s1 core r [r] = true →
            step s = .next (s1.setCore core (c.setRow r { c.row r with handed := true }))) ∧
          (¬goes → lowerHands s1 core r [r] = false → step s = exec i at_)) ∧
        (∀ o, c.matrixOp r = none → c.finished r = false → c.issuing r = [o] →
          ∃ t, exec o.op { s1 with cur := { m := core, row := o.row, pe := o.slot, rep := o.rep, peek := unitHeads s1 core } } = .next t ∧
            step s = .next (let u := issueTaken t core r
              -- what a `bqpush` sends is fixed at the end of the last issue cycle
              if (u.core core).finished r then latchRow u core r else u)))) ∧
  (∀ (s : State) (core r : Nat) (rest : List Move) (i : Instr), s.agenda = .controls core :: rest →
    let s0 : State := { s with agenda := rest, tick := s.tick + 1 }
    let c := s0.core core
    (∀ q < 4, (c.row q).done = false ∧ (q ≠ r → c.finished q = false ∨ (c.row q).run ≠ .running)) → c.group = [] →
      c.xfault = none → c.arrayFrozen = false → s0.taskSaving c.home = false → r < 4 → (c.row r).run = .running → c.finished r = true → c.control r = some i →
      ∃ t, exec i { s0 with cur := { m := core, row := r } } = .next t ∧ step s = .next (freezeArray t core)) ∧
  (∀ (s : State) (m t : Nat) (i : Instr) (rest : List Move), s.agenda = .event m t i :: rest →
    step s = exec i { s with agenda := rest, tick := s.tick + 1, cur := { m, t } })

def Obligations.InvariantKept : Prop := ∀ s t : State, s.Inv → step s = .next t → t.Inv

/-- R123, R371, R387, R410, R468, R471; the contents of memory: log 2. -/
def Obligations.ResetState : Prop :=
  State.reset.Inv ∧ State.reset.cyc = 0 ∧ State.reset.tasks = [] ∧ State.reset.launches = [] ∧ State.reset.wgraphs = [] ∧
  State.reset.frozen = [] ∧ State.reset.waitFq = [] ∧ State.reset.waitCq = [] ∧ State.reset.mem = [] ∧ State.reset.agenda = [] ∧
  (∀ (pc : Word) (d : Reg),
    let s := { State.reset with cur := { m := 0x1000 } }.setThr (thrKey 0x1000 0) { life := .running, svc := true, pc }
    Gives (.getcw d 0x801) s d 0x8000000000000000 ∧
    ∀ n ∈ [0x800, 0x802, 0x810, 0x811, 0x812, 0x813, 0x814, 0x815, 0x816, 0x817, 0x818], Gives (.getcw d n) s d 0) ∧
  State.reset.hubDword 8 = 30000 ∧ (∀ off ∈ [0, 0x10, 0x300] ++ (List.range 9).map (fun n => 0x200 + 8 * n), State.reset.hubDword off = 0) ∧
  (∀ target i, State.reset.accEntry target i = (if i = 0 then ⟨0xFFFFFFFF, 0, true, true, true, 0x101F, 0x1000⟩ else {})) ∧
  ∀ target master unit rd wr, unit < 2 ^ 32 →
    (accAllows State.reset target master unit rd wr = true ↔ 0x1000 ≤ master ∧ master ≤ 0x101F)
end

