-- ==== Sys2Proof/Laws/State.lean ====
section
/-! SUPPORT. Tables and the record updates of State: what each update sets, and that it leaves every other field as it
was. -/

namespace Sys2Proof

@[simp] theorem Tab.get_put_same {α : Type} (d : α) (t : Tab α) (k : Nat) (v : α) : Tab.get d (Tab.put t k v) k = v := by
  induction t with
  | nil => simp [Tab.put, Tab.get]
  | cons e t ih =>
    obtain ⟨k', v'⟩ := e
    simp only [Tab.put]
    split
    · simp [Tab.get]
    · split
      · simp [Tab.get]
      · simp [Tab.get, *]

theorem Tab.get_put_other {α : Type} (d : α) (t : Tab α) (k j : Nat) (v : α) (h : k ≠ j) :
    Tab.get d (Tab.put t k v) j = Tab.get d t j := by
  induction t with
  | nil => simp [Tab.put, Tab.get, h]
  | cons e t ih =>
    obtain ⟨k', v'⟩ := e
    simp only [Tab.put]
    split
    · simp [Tab.get, h]
    · split
      · next h' => subst h'; simp [Tab.get, h]
      · simp [Tab.get, ih]

@[simp] theorem Tab.find_put_same {α : Type} (t : Tab α) (k : Nat) (v : α) : Tab.find (Tab.put t k v) k = some v := by
  induction t with
  | nil => simp [Tab.put, Tab.find]
  | cons e t ih =>
    obtain ⟨k', v'⟩ := e
    simp only [Tab.put]
    split
    · simp [Tab.find]
    · split
      · simp [Tab.find]
      · simp [Tab.find, *]

theorem Tab.find_put_other {α : Type} (t : Tab α) (k j : Nat) (v : α) (h : k ≠ j) :
    Tab.find (Tab.put t k v) j = Tab.find t j := by
  induction t with
  | nil => simp [Tab.put, Tab.find, h]
  | cons e t ih =>
    obtain ⟨k', v'⟩ := e
    simp only [Tab.put]
    split
    · simp [Tab.find, h]
    · split
      · next h' => subst h'; simp [Tab.find, h]
      · simp [Tab.find, ih]

@[simp] theorem Tab.put_put {α : Type} (t : Tab α) (k : Nat) (v w : α) : Tab.put (Tab.put t k v) k w = Tab.put t k w := by
  induction t with
  | nil => simp [Tab.put]
  | cons e t ih =>
    obtain ⟨k', v'⟩ := e
    by_cases h : k < k'
    · simp [Tab.put, h]
    · by_cases h' : k' = k
      · subst h'; simp [Tab.put]
      · simp [Tab.put, h, h', ih]

end Sys2Proof

namespace Sys2Proof.Machine

@[simp] theorem State.setThr_tick (s : State) (k : Nat) (x : Thread) : (s.setThr k x).tick = s.tick := rfl
@[simp] theorem State.setThr_agenda (s : State) (k : Nat) (x : Thread) : (s.setThr k x).agenda = s.agenda := rfl
@[simp] theorem State.setThr_cur (s : State) (k : Nat) (x : Thread) : (s.setThr k x).cur = s.cur := rfl
@[simp] theorem State.setThr_cyc (s : State) (k : Nat) (x : Thread) : (s.setThr k x).cyc = s.cyc := rfl
@[simp] theorem State.setThr_mem (s : State) (k : Nat) (x : Thread) : (s.setThr k x).mem = s.mem := rfl
@[simp] theorem State.setThr_poison (s : State) (k : Nat) (x : Thread) : (s.setThr k x).poison = s.poison := rfl
@[simp] theorem State.setThr_dead (s : State) (k : Nat) (x : Thread) : (s.setThr k x).dead = s.dead := rfl
@[simp] theorem State.setThr_deadFrames (s : State) (k : Nat) (x : Thread) : (s.setThr k x).deadFrames = s.deadFrames := rfl
@[simp] theorem State.setThr_undef (s : State) (k : Nat) (x : Thread) : (s.setThr k x).undef = s.undef := rfl
@[simp] theorem State.setThr_older (s : State) (k : Nat) (x : Thread) : (s.setThr k x).older = s.older := rfl
@[simp] theorem State.setThr_late (s : State) (k : Nat) (x : Thread) : (s.setThr k x).late = s.late := rfl
@[simp] theorem State.setThr_prior (s : State) (k : Nat) (x : Thread) : (s.setThr k x).prior = s.prior := rfl
@[simp] theorem State.setThr_walks (s : State) (k : Nat) (x : Thread) : (s.setThr k x).walks = s.walks := rfl
@[simp] theorem State.setThr_jobs (s : State) (k : Nat) (x : Thread) : (s.setThr k x).jobs = s.jobs := rfl
@[simp] theorem State.setThr_accOld (s : State) (k : Nat) (x : Thread) : (s.setThr k x).accOld = s.accOld := rfl
@[simp] theorem State.setThr_frozeAt (s : State) (k : Nat) (x : Thread) : (s.setThr k x).frozeAt = s.frozeAt := rfl
@[simp] theorem State.setThr_deniedAt (s : State) (k : Nat) (x : Thread) : (s.setThr k x).deniedAt = s.deniedAt := rfl
@[simp] theorem State.setThr_lctls (s : State) (k : Nat) (x : Thread) : (s.setThr k x).lctls = s.lctls := rfl
@[simp] theorem State.setThr_cores (s : State) (k : Nat) (x : Thread) : (s.setThr k x).cores = s.cores := rfl
@[simp] theorem State.setThr_tasks (s : State) (k : Nat) (x : Thread) : (s.setThr k x).tasks = s.tasks := rfl
@[simp] theorem State.setThr_launches (s : State) (k : Nat) (x : Thread) : (s.setThr k x).launches = s.launches := rfl
@[simp] theorem State.setThr_wgraphs (s : State) (k : Nat) (x : Thread) : (s.setThr k x).wgraphs = s.wgraphs := rfl
@[simp] theorem State.setThr_chains (s : State) (k : Nat) (x : Thread) : (s.setThr k x).chains = s.chains := rfl
@[simp] theorem State.setThr_spills (s : State) (k : Nat) (x : Thread) : (s.setThr k x).spills = s.spills := rfl
@[simp] theorem State.setThr_seq (s : State) (k : Nat) (x : Thread) : (s.setThr k x).seq = s.seq := rfl
@[simp] theorem State.setThr_nextId (s : State) (k : Nat) (x : Thread) : (s.setThr k x).nextId = s.nextId := rfl
@[simp] theorem State.setThr_reservation (s : State) (k : Nat) (x : Thread) : (s.setThr k x).reservation = s.reservation := rfl
@[simp] theorem State.setThr_dirty (s : State) (k : Nat) (x : Thread) : (s.setThr k x).dirty = s.dirty := rfl
@[simp] theorem State.setThr_sup (s : State) (k : Nat) (x : Thread) : (s.setThr k x).sup = s.sup := rfl
@[simp] theorem State.setThr_acc (s : State) (k : Nat) (x : Thread) : (s.setThr k x).acc = s.acc := rfl
@[simp] theorem State.setThr_frozen (s : State) (k : Nat) (x : Thread) : (s.setThr k x).frozen = s.frozen := rfl
@[simp] theorem State.setThr_cache (s : State) (k : Nat) (x : Thread) : (s.setThr k x).cache = s.cache := rfl
@[simp] theorem State.setThr_migrations (s : State) (k : Nat) (x : Thread) : (s.setThr k x).migrations = s.migrations := rfl
@[simp] theorem State.setThr_waitFq (s : State) (k : Nat) (x : Thread) : (s.setThr k x).waitFq = s.waitFq := rfl
@[simp] theorem State.setThr_waitCq (s : State) (k : Nat) (x : Thread) : (s.setThr k x).waitCq = s.waitCq := rfl
@[simp] theorem State.setThr_openEntries (s : State) (k : Nat) (x : Thread) : (s.setThr k x).openEntries = s.openEntries := rfl
@[simp] theorem State.setThr_hub (s : State) (k : Nat) (x : Thread) : (s.setThr k x).hub = s.hub := rfl
@[simp] theorem State.setThr_remotes (s : State) (k : Nat) (x : Thread) : (s.setThr k x).remotes = s.remotes := rfl
@[simp] theorem State.setThr_evFlight (s : State) (k : Nat) (x : Thread) : (s.setThr k x).evFlight = s.evFlight := rfl
@[simp] theorem State.setThr_msgs (s : State) (k : Nat) (x : Thread) : (s.setThr k x).msgs = s.msgs := rfl
@[simp] theorem State.setThr_recvRings (s : State) (k : Nat) (x : Thread) : (s.setThr k x).recvRings = s.recvRings := rfl
@[simp] theorem State.setThr_received (s : State) (k : Nat) (x : Thread) : (s.setThr k x).received = s.received := rfl
@[simp] theorem State.setThr_out (s : State) (k : Nat) (x : Thread) : (s.setThr k x).out = s.out := rfl
@[simp] theorem State.setThr_ports (s : State) (k : Nat) (x : Thread) : (s.setThr k x).ports = s.ports := rfl
@[simp] theorem State.setThr_scrubHeld (s : State) (k : Nat) (x : Thread) : (s.setThr k x).scrubHeld = s.scrubHeld := rfl
@[simp] theorem State.setThr_scrubDone (s : State) (k : Nat) (x : Thread) : (s.setThr k x).scrubDone = s.scrubDone := rfl
@[simp] theorem State.setThr_pkg (s : State) (k : Nat) (x : Thread) : (s.setThr k x).pkg = s.pkg := rfl

@[simp] theorem State.setCore_tick (s : State) (k : Nat) (x : Core) : (s.setCore k x).tick = s.tick := rfl
@[simp] theorem State.setCore_agenda (s : State) (k : Nat) (x : Core) : (s.setCore k x).agenda = s.agenda := rfl
@[simp] theorem State.setCore_cur (s : State) (k : Nat) (x : Core) : (s.setCore k x).cur = s.cur := rfl
@[simp] theorem State.setCore_cyc (s : State) (k : Nat) (x : Core) : (s.setCore k x).cyc = s.cyc := rfl
@[simp] theorem State.setCore_mem (s : State) (k : Nat) (x : Core) : (s.setCore k x).mem = s.mem := rfl
@[simp] theorem State.setCore_poison (s : State) (k : Nat) (x : Core) : (s.setCore k x).poison = s.poison := rfl
@[simp] theorem State.setCore_dead (s : State) (k : Nat) (x : Core) : (s.setCore k x).dead = s.dead := rfl
@[simp] theorem State.setCore_deadFrames (s : State) (k : Nat) (x : Core) : (s.setCore k x).deadFrames = s.deadFrames := rfl
@[simp] theorem State.setCore_undef (s : State) (k : Nat) (x : Core) : (s.setCore k x).undef = s.undef := rfl
@[simp] theorem State.setCore_older (s : State) (k : Nat) (x : Core) : (s.setCore k x).older = s.older := rfl
@[simp] theorem State.setCore_late (s : State) (k : Nat) (x : Core) : (s.setCore k x).late = s.late := rfl
@[simp] theorem State.setCore_prior (s : State) (k : Nat) (x : Core) : (s.setCore k x).prior = s.prior := rfl
@[simp] theorem State.setCore_walks (s : State) (k : Nat) (x : Core) : (s.setCore k x).walks = s.walks := rfl
@[simp] theorem State.setCore_jobs (s : State) (k : Nat) (x : Core) : (s.setCore k x).jobs = s.jobs := rfl
@[simp] theorem State.setCore_accOld (s : State) (k : Nat) (x : Core) : (s.setCore k x).accOld = s.accOld := rfl
@[simp] theorem State.setCore_frozeAt (s : State) (k : Nat) (x : Core) : (s.setCore k x).frozeAt = s.frozeAt := rfl
@[simp] theorem State.setCore_deniedAt (s : State) (k : Nat) (x : Core) : (s.setCore k x).deniedAt = s.deniedAt := rfl
@[simp] theorem State.setCore_lctls (s : State) (k : Nat) (x : Core) : (s.setCore k x).lctls = s.lctls := rfl
@[simp] theorem State.setCore_threads (s : State) (k : Nat) (x : Core) : (s.setCore k x).threads = s.threads := rfl
@[simp] theorem State.setCore_tasks (s : State) (k : Nat) (x : Core) : (s.setCore k x).tasks = s.tasks := rfl
@[simp] theorem State.setCore_launches (s : State) (k : Nat) (x : Core) : (s.setCore k x).launches = s.launches := rfl
@[simp] theorem State.setCore_wgraphs (s : State) (k : Nat) (x : Core) : (s.setCore k x).wgraphs = s.wgraphs := rfl
@[simp] theorem State.setCore_chains (s : State) (k : Nat) (x : Core) : (s.setCore k x).chains = s.chains := rfl
@[simp] theorem State.setCore_spills (s : State) (k : Nat) (x : Core) : (s.setCore k x).spills = s.spills := rfl
@[simp] theorem State.setCore_seq (s : State) (k : Nat) (x : Core) : (s.setCore k x).seq = s.seq := rfl
@[simp] theorem State.setCore_nextId (s : State) (k : Nat) (x : Core) : (s.setCore k x).nextId = s.nextId := rfl
@[simp] theorem State.setCore_reservation (s : State) (k : Nat) (x : Core) : (s.setCore k x).reservation = s.reservation := rfl
@[simp] theorem State.setCore_dirty (s : State) (k : Nat) (x : Core) : (s.setCore k x).dirty = s.dirty := rfl
@[simp] theorem State.setCore_sup (s : State) (k : Nat) (x : Core) : (s.setCore k x).sup = s.sup := rfl
@[simp] theorem State.setCore_acc (s : State) (k : Nat) (x : Core) : (s.setCore k x).acc = s.acc := rfl
@[simp] theorem State.setCore_frozen (s : State) (k : Nat) (x : Core) : (s.setCore k x).frozen = s.frozen := rfl
@[simp] theorem State.setCore_cache (s : State) (k : Nat) (x : Core) : (s.setCore k x).cache = s.cache := rfl
@[simp] theorem State.setCore_migrations (s : State) (k : Nat) (x : Core) : (s.setCore k x).migrations = s.migrations := rfl
@[simp] theorem State.setCore_waitFq (s : State) (k : Nat) (x : Core) : (s.setCore k x).waitFq = s.waitFq := rfl
@[simp] theorem State.setCore_waitCq (s : State) (k : Nat) (x : Core) : (s.setCore k x).waitCq = s.waitCq := rfl
@[simp] theorem State.setCore_openEntries (s : State) (k : Nat) (x : Core) : (s.setCore k x).openEntries = s.openEntries := rfl
@[simp] theorem State.setCore_hub (s : State) (k : Nat) (x : Core) : (s.setCore k x).hub = s.hub := rfl
@[simp] theorem State.setCore_remotes (s : State) (k : Nat) (x : Core) : (s.setCore k x).remotes = s.remotes := rfl
@[simp] theorem State.setCore_evFlight (s : State) (k : Nat) (x : Core) : (s.setCore k x).evFlight = s.evFlight := rfl
@[simp] theorem State.setCore_msgs (s : State) (k : Nat) (x : Core) : (s.setCore k x).msgs = s.msgs := rfl
@[simp] theorem State.setCore_recvRings (s : State) (k : Nat) (x : Core) : (s.setCore k x).recvRings = s.recvRings := rfl
@[simp] theorem State.setCore_received (s : State) (k : Nat) (x : Core) : (s.setCore k x).received = s.received := rfl
@[simp] theorem State.setCore_out (s : State) (k : Nat) (x : Core) : (s.setCore k x).out = s.out := rfl
@[simp] theorem State.setCore_ports (s : State) (k : Nat) (x : Core) : (s.setCore k x).ports = s.ports := rfl
@[simp] theorem State.setCore_scrubHeld (s : State) (k : Nat) (x : Core) : (s.setCore k x).scrubHeld = s.scrubHeld := rfl
@[simp] theorem State.setCore_scrubDone (s : State) (k : Nat) (x : Core) : (s.setCore k x).scrubDone = s.scrubDone := rfl
@[simp] theorem State.setCore_pkg (s : State) (k : Nat) (x : Core) : (s.setCore k x).pkg = s.pkg := rfl

@[simp] theorem State.setTask_tick (s : State) (k : Nat) (x : Task) : (s.setTask k x).tick = s.tick := rfl
@[simp] theorem State.setTask_agenda (s : State) (k : Nat) (x : Task) : (s.setTask k x).agenda = s.agenda := rfl
@[simp] theorem State.setTask_cur (s : State) (k : Nat) (x : Task) : (s.setTask k x).cur = s.cur := rfl
@[simp] theorem State.setTask_cyc (s : State) (k : Nat) (x : Task) : (s.setTask k x).cyc = s.cyc := rfl
@[simp] theorem State.setTask_mem (s : State) (k : Nat) (x : Task) : (s.setTask k x).mem = s.mem := rfl
@[simp] theorem State.setTask_poison (s : State) (k : Nat) (x : Task) : (s.setTask k x).poison = s.poison := rfl
@[simp] theorem State.setTask_dead (s : State) (k : Nat) (x : Task) : (s.setTask k x).dead = s.dead := rfl
@[simp] theorem State.setTask_deadFrames (s : State) (k : Nat) (x : Task) : (s.setTask k x).deadFrames = s.deadFrames := rfl
@[simp] theorem State.setTask_undef (s : State) (k : Nat) (x : Task) : (s.setTask k x).undef = s.undef := rfl
@[simp] theorem State.setTask_older (s : State) (k : Nat) (x : Task) : (s.setTask k x).older = s.older := rfl
@[simp] theorem State.setTask_late (s : State) (k : Nat) (x : Task) : (s.setTask k x).late = s.late := rfl
@[simp] theorem State.setTask_prior (s : State) (k : Nat) (x : Task) : (s.setTask k x).prior = s.prior := rfl
@[simp] theorem State.setTask_walks (s : State) (k : Nat) (x : Task) : (s.setTask k x).walks = s.walks := rfl
@[simp] theorem State.setTask_jobs (s : State) (k : Nat) (x : Task) : (s.setTask k x).jobs = s.jobs := rfl
@[simp] theorem State.setTask_accOld (s : State) (k : Nat) (x : Task) : (s.setTask k x).accOld = s.accOld := rfl
@[simp] theorem State.setTask_frozeAt (s : State) (k : Nat) (x : Task) : (s.setTask k x).frozeAt = s.frozeAt := rfl
@[simp] theorem State.setTask_deniedAt (s : State) (k : Nat) (x : Task) : (s.setTask k x).deniedAt = s.deniedAt := rfl
@[simp] theorem State.setTask_lctls (s : State) (k : Nat) (x : Task) : (s.setTask k x).lctls = s.lctls := rfl
@[simp] theorem State.setTask_cores (s : State) (k : Nat) (x : Task) : (s.setTask k x).cores = s.cores := rfl
@[simp] theorem State.setTask_threads (s : State) (k : Nat) (x : Task) : (s.setTask k x).threads = s.threads := rfl
@[simp] theorem State.setTask_launches (s : State) (k : Nat) (x : Task) : (s.setTask k x).launches = s.launches := rfl
@[simp] theorem State.setTask_wgraphs (s : State) (k : Nat) (x : Task) : (s.setTask k x).wgraphs = s.wgraphs := rfl
@[simp] theorem State.setTask_chains (s : State) (k : Nat) (x : Task) : (s.setTask k x).chains = s.chains := rfl
@[simp] theorem State.setTask_spills (s : State) (k : Nat) (x : Task) : (s.setTask k x).spills = s.spills := rfl
@[simp] theorem State.setTask_seq (s : State) (k : Nat) (x : Task) : (s.setTask k x).seq = s.seq := rfl
@[simp] theorem State.setTask_nextId (s : State) (k : Nat) (x : Task) : (s.setTask k x).nextId = s.nextId := rfl
@[simp] theorem State.setTask_reservation (s : State) (k : Nat) (x : Task) : (s.setTask k x).reservation = s.reservation := rfl
@[simp] theorem State.setTask_dirty (s : State) (k : Nat) (x : Task) : (s.setTask k x).dirty = s.dirty := rfl
@[simp] theorem State.setTask_sup (s : State) (k : Nat) (x : Task) : (s.setTask k x).sup = s.sup := rfl
@[simp] theorem State.setTask_acc (s : State) (k : Nat) (x : Task) : (s.setTask k x).acc = s.acc := rfl
@[simp] theorem State.setTask_frozen (s : State) (k : Nat) (x : Task) : (s.setTask k x).frozen = s.frozen := rfl
@[simp] theorem State.setTask_cache (s : State) (k : Nat) (x : Task) : (s.setTask k x).cache = s.cache := rfl
@[simp] theorem State.setTask_migrations (s : State) (k : Nat) (x : Task) : (s.setTask k x).migrations = s.migrations := rfl
@[simp] theorem State.setTask_waitFq (s : State) (k : Nat) (x : Task) : (s.setTask k x).waitFq = s.waitFq := rfl
@[simp] theorem State.setTask_waitCq (s : State) (k : Nat) (x : Task) : (s.setTask k x).waitCq = s.waitCq := rfl
@[simp] theorem State.setTask_openEntries (s : State) (k : Nat) (x : Task) : (s.setTask k x).openEntries = s.openEntries := rfl
@[simp] theorem State.setTask_hub (s : State) (k : Nat) (x : Task) : (s.setTask k x).hub = s.hub := rfl
@[simp] theorem State.setTask_remotes (s : State) (k : Nat) (x : Task) : (s.setTask k x).remotes = s.remotes := rfl
@[simp] theorem State.setTask_evFlight (s : State) (k : Nat) (x : Task) : (s.setTask k x).evFlight = s.evFlight := rfl
@[simp] theorem State.setTask_msgs (s : State) (k : Nat) (x : Task) : (s.setTask k x).msgs = s.msgs := rfl
@[simp] theorem State.setTask_recvRings (s : State) (k : Nat) (x : Task) : (s.setTask k x).recvRings = s.recvRings := rfl
@[simp] theorem State.setTask_received (s : State) (k : Nat) (x : Task) : (s.setTask k x).received = s.received := rfl
@[simp] theorem State.setTask_out (s : State) (k : Nat) (x : Task) : (s.setTask k x).out = s.out := rfl
@[simp] theorem State.setTask_ports (s : State) (k : Nat) (x : Task) : (s.setTask k x).ports = s.ports := rfl
@[simp] theorem State.setTask_scrubHeld (s : State) (k : Nat) (x : Task) : (s.setTask k x).scrubHeld = s.scrubHeld := rfl
@[simp] theorem State.setTask_scrubDone (s : State) (k : Nat) (x : Task) : (s.setTask k x).scrubDone = s.scrubDone := rfl
@[simp] theorem State.setTask_pkg (s : State) (k : Nat) (x : Task) : (s.setTask k x).pkg = s.pkg := rfl

@[simp] theorem State.setLaunch_tick (s : State) (k : Nat) (x : Launch) : (s.setLaunch k x).tick = s.tick := rfl
@[simp] theorem State.setLaunch_agenda (s : State) (k : Nat) (x : Launch) : (s.setLaunch k x).agenda = s.agenda := rfl
@[simp] theorem State.setLaunch_cur (s : State) (k : Nat) (x : Launch) : (s.setLaunch k x).cur = s.cur := rfl
@[simp] theorem State.setLaunch_cyc (s : State) (k : Nat) (x : Launch) : (s.setLaunch k x).cyc = s.cyc := rfl
@[simp] theorem State.setLaunch_mem (s : State) (k : Nat) (x : Launch) : (s.setLaunch k x).mem = s.mem := rfl
@[simp] theorem State.setLaunch_poison (s : State) (k : Nat) (x : Launch) : (s.setLaunch k x).poison = s.poison := rfl
@[simp] theorem State.setLaunch_dead (s : State) (k : Nat) (x : Launch) : (s.setLaunch k x).dead = s.dead := rfl
@[simp] theorem State.setLaunch_deadFrames (s : State) (k : Nat) (x : Launch) : (s.setLaunch k x).deadFrames = s.deadFrames := rfl
@[simp] theorem State.setLaunch_undef (s : State) (k : Nat) (x : Launch) : (s.setLaunch k x).undef = s.undef := rfl
@[simp] theorem State.setLaunch_older (s : State) (k : Nat) (x : Launch) : (s.setLaunch k x).older = s.older := rfl
@[simp] theorem State.setLaunch_late (s : State) (k : Nat) (x : Launch) : (s.setLaunch k x).late = s.late := rfl
@[simp] theorem State.setLaunch_prior (s : State) (k : Nat) (x : Launch) : (s.setLaunch k x).prior = s.prior := rfl
@[simp] theorem State.setLaunch_walks (s : State) (k : Nat) (x : Launch) : (s.setLaunch k x).walks = s.walks := rfl
@[simp] theorem State.setLaunch_jobs (s : State) (k : Nat) (x : Launch) : (s.setLaunch k x).jobs = s.jobs := rfl
@[simp] theorem State.setLaunch_accOld (s : State) (k : Nat) (x : Launch) : (s.setLaunch k x).accOld = s.accOld := rfl
@[simp] theorem State.setLaunch_frozeAt (s : State) (k : Nat) (x : Launch) : (s.setLaunch k x).frozeAt = s.frozeAt := rfl
@[simp] theorem State.setLaunch_deniedAt (s : State) (k : Nat) (x : Launch) : (s.setLaunch k x).deniedAt = s.deniedAt := rfl
@[simp] theorem State.setLaunch_lctls (s : State) (k : Nat) (x : Launch) : (s.setLaunch k x).lctls = s.lctls := rfl
@[simp] theorem State.setLaunch_cores (s : State) (k : Nat) (x : Launch) : (s.setLaunch k x).cores = s.cores := rfl
@[simp] theorem State.setLaunch_threads (s : State) (k : Nat) (x : Launch) : (s.setLaunch k x).threads = s.threads := rfl
@[simp] theorem State.setLaunch_tasks (s : State) (k : Nat) (x : Launch) : (s.setLaunch k x).tasks = s.tasks := rfl
@[simp] theorem State.setLaunch_wgraphs (s : State) (k : Nat) (x : Launch) : (s.setLaunch k x).wgraphs = s.wgraphs := rfl
@[simp] theorem State.setLaunch_chains (s : State) (k : Nat) (x : Launch) : (s.setLaunch k x).chains = s.chains := rfl
@[simp] theorem State.setLaunch_spills (s : State) (k : Nat) (x : Launch) : (s.setLaunch k x).spills = s.spills := rfl
@[simp] theorem State.setLaunch_seq (s : State) (k : Nat) (x : Launch) : (s.setLaunch k x).seq = s.seq := rfl
@[simp] theorem State.setLaunch_nextId (s : State) (k : Nat) (x : Launch) : (s.setLaunch k x).nextId = s.nextId := rfl
@[simp] theorem State.setLaunch_reservation (s : State) (k : Nat) (x : Launch) : (s.setLaunch k x).reservation = s.reservation := rfl
@[simp] theorem State.setLaunch_dirty (s : State) (k : Nat) (x : Launch) : (s.setLaunch k x).dirty = s.dirty := rfl
@[simp] theorem State.setLaunch_sup (s : State) (k : Nat) (x : Launch) : (s.setLaunch k x).sup = s.sup := rfl
@[simp] theorem State.setLaunch_acc (s : State) (k : Nat) (x : Launch) : (s.setLaunch k x).acc = s.acc := rfl
@[simp] theorem State.setLaunch_frozen (s : State) (k : Nat) (x : Launch) : (s.setLaunch k x).frozen = s.frozen := rfl
@[simp] theorem State.setLaunch_cache (s : State) (k : Nat) (x : Launch) : (s.setLaunch k x).cache = s.cache := rfl
@[simp] theorem State.setLaunch_migrations (s : State) (k : Nat) (x : Launch) : (s.setLaunch k x).migrations = s.migrations := rfl
@[simp] theorem State.setLaunch_waitFq (s : State) (k : Nat) (x : Launch) : (s.setLaunch k x).waitFq = s.waitFq := rfl
@[simp] theorem State.setLaunch_waitCq (s : State) (k : Nat) (x : Launch) : (s.setLaunch k x).waitCq = s.waitCq := rfl
@[simp] theorem State.setLaunch_openEntries (s : State) (k : Nat) (x : Launch) : (s.setLaunch k x).openEntries = s.openEntries := rfl
@[simp] theorem State.setLaunch_hub (s : State) (k : Nat) (x : Launch) : (s.setLaunch k x).hub = s.hub := rfl
@[simp] theorem State.setLaunch_remotes (s : State) (k : Nat) (x : Launch) : (s.setLaunch k x).remotes = s.remotes := rfl
@[simp] theorem State.setLaunch_evFlight (s : State) (k : Nat) (x : Launch) : (s.setLaunch k x).evFlight = s.evFlight := rfl
@[simp] theorem State.setLaunch_msgs (s : State) (k : Nat) (x : Launch) : (s.setLaunch k x).msgs = s.msgs := rfl
@[simp] theorem State.setLaunch_recvRings (s : State) (k : Nat) (x : Launch) : (s.setLaunch k x).recvRings = s.recvRings := rfl
@[simp] theorem State.setLaunch_received (s : State) (k : Nat) (x : Launch) : (s.setLaunch k x).received = s.received := rfl
@[simp] theorem State.setLaunch_out (s : State) (k : Nat) (x : Launch) : (s.setLaunch k x).out = s.out := rfl
@[simp] theorem State.setLaunch_ports (s : State) (k : Nat) (x : Launch) : (s.setLaunch k x).ports = s.ports := rfl
@[simp] theorem State.setLaunch_scrubHeld (s : State) (k : Nat) (x : Launch) : (s.setLaunch k x).scrubHeld = s.scrubHeld := rfl
@[simp] theorem State.setLaunch_scrubDone (s : State) (k : Nat) (x : Launch) : (s.setLaunch k x).scrubDone = s.scrubDone := rfl
@[simp] theorem State.setLaunch_pkg (s : State) (k : Nat) (x : Launch) : (s.setLaunch k x).pkg = s.pkg := rfl

@[simp] theorem State.setThr_thr_same (s : State) (k : Nat) (x : Thread) : (s.setThr k x).thr k = x := Tab.get_put_same _ _ _ _
theorem State.setThr_thr_other (s : State) (k j : Nat) (x : Thread) (h : k ≠ j) : (s.setThr k x).thr j = s.thr j :=
  Tab.get_put_other _ _ _ _ _ h
@[simp] theorem State.setThr_setThr (s : State) (k : Nat) (x y : Thread) : (s.setThr k x).setThr k y = s.setThr k y := by
  simp [State.setThr]
@[simp] theorem State.setCore_core_same (s : State) (k : Nat) (x : Core) : (s.setCore k x).core k = x := Tab.get_put_same _ _ _ _
theorem State.setCore_core_other (s : State) (k j : Nat) (x : Core) (h : k ≠ j) : (s.setCore k x).core j = s.core j :=
  Tab.get_put_other _ _ _ _ _ h
@[simp] theorem State.setCore_setCore (s : State) (k : Nat) (x y : Core) : (s.setCore k x).setCore k y = s.setCore k y := by
  simp [State.setCore]
@[simp] theorem State.setTask_taskOf_same (s : State) (k : Nat) (x : Task) : (s.setTask k x).taskOf k = x := Tab.get_put_same _ _ _ _
theorem State.setTask_taskOf_other (s : State) (k j : Nat) (x : Task) (h : k ≠ j) : (s.setTask k x).taskOf j = s.taskOf j :=
  Tab.get_put_other _ _ _ _ _ h
@[simp] theorem State.setTask_setTask (s : State) (k : Nat) (x y : Task) : (s.setTask k x).setTask k y = s.setTask k y := by
  simp [State.setTask]
@[simp] theorem State.setLaunch_launchOf_same (s : State) (k : Nat) (x : Launch) : (s.setLaunch k x).launchOf k = x := Tab.get_put_same _ _ _ _
theorem State.setLaunch_launchOf_other (s : State) (k j : Nat) (x : Launch) (h : k ≠ j) : (s.setLaunch k x).launchOf j = s.launchOf j :=
  Tab.get_put_other _ _ _ _ _ h
@[simp] theorem State.setLaunch_setLaunch (s : State) (k : Nat) (x y : Launch) : (s.setLaunch k x).setLaunch k y = s.setLaunch k y := by
  simp [State.setLaunch]
@[simp] theorem State.setThr_core (s : State) (k : Nat) (x : Thread) (j : Nat) : (s.setThr k x).core j = s.core j := rfl
@[simp] theorem State.setThr_taskOf (s : State) (k : Nat) (x : Thread) (j : Nat) : (s.setThr k x).taskOf j = s.taskOf j := rfl
@[simp] theorem State.setThr_launchOf (s : State) (k : Nat) (x : Thread) (j : Nat) : (s.setThr k x).launchOf j = s.launchOf j := rfl
@[simp] theorem State.setCore_thr (s : State) (k : Nat) (x : Core) (j : Nat) : (s.setCore k x).thr j = s.thr j := rfl
@[simp] theorem State.setCore_taskOf (s : State) (k : Nat) (x : Core) (j : Nat) : (s.setCore k x).taskOf j = s.taskOf j := rfl
@[simp] theorem State.setCore_launchOf (s : State) (k : Nat) (x : Core) (j : Nat) : (s.setCore k x).launchOf j = s.launchOf j := rfl
@[simp] theorem State.setTask_thr (s : State) (k : Nat) (x : Task) (j : Nat) : (s.setTask k x).thr j = s.thr j := rfl
@[simp] theorem State.setTask_core (s : State) (k : Nat) (x : Task) (j : Nat) : (s.setTask k x).core j = s.core j := rfl
@[simp] theorem State.setTask_launchOf (s : State) (k : Nat) (x : Task) (j : Nat) : (s.setTask k x).launchOf j = s.launchOf j := rfl
@[simp] theorem State.setLaunch_thr (s : State) (k : Nat) (x : Launch) (j : Nat) : (s.setLaunch k x).thr j = s.thr j := rfl
@[simp] theorem State.setLaunch_core (s : State) (k : Nat) (x : Launch) (j : Nat) : (s.setLaunch k x).core j = s.core j := rfl
@[simp] theorem State.setLaunch_taskOf (s : State) (k : Nat) (x : Launch) (j : Nat) : (s.setLaunch k x).taskOf j = s.taskOf j := rfl

@[simp] theorem State.setThr_curKey (s : State) (k : Nat) (x : Thread) : (s.setThr k x).curKey = s.curKey := rfl
@[simp] theorem State.setCore_curKey (s : State) (k : Nat) (x : Core) : (s.setCore k x).curKey = s.curKey := rfl
@[simp] theorem State.setTask_curKey (s : State) (k : Nat) (x : Task) : (s.setTask k x).curKey = s.curKey := rfl
@[simp] theorem State.setThr_me (s : State) (x : Thread) : (s.setThr s.curKey x).me = x := State.setThr_thr_same _ _ _
theorem State.modThr_eq (s : State) (k : Nat) (f : Thread → Thread) : s.modThr k f = s.setThr k (f (s.thr k)) := rfl
theorem State.modMe_eq (s : State) (f : Thread → Thread) : s.modMe f = s.setThr s.curKey (f s.me) := rfl
theorem State.modCore_eq (s : State) (k : Nat) (f : Core → Core) : s.modCore k f = s.setCore k (f (s.core k)) := rfl
theorem State.modMyCore_eq (s : State) (f : Core → Core) : s.modMyCore f = s.setCore s.cur.m (f s.myCore) := rfl

/-! ## Registers -/

@[simp] theorem Thread.reg_zero (th : Thread) : th.reg 0 = 0 := rfl

theorem Thread.reg_setReg (th : Thread) (d r : Reg) (v : Word) :
    (th.setReg d v).reg r = if r = d ∧ r ≠ 0 then v else th.reg r := by
  unfold Thread.setReg Thread.reg
  by_cases hd : d = 0#6
  · by_cases hr : r = 0#6 <;> simp [hd, hr]
  · by_cases hr : r = 0#6
    · simp [hr]
    · by_cases h : r = d
      · subst h; simp [hd]
      · have : d.toNat ≠ r.toNat := fun e => h (BitVec.eq_of_toNat_eq e.symm)
        simp [hd, hr, h, Tab.get_put_other _ _ _ _ _ this]

@[simp] theorem Thread.setReg_pc (th : Thread) (d : Reg) (v : Word) : (th.setReg d v).pc = th.pc := by
  unfold Thread.setReg; split <;> rfl
@[simp] theorem Thread.setReg_busyTo (th : Thread) (d : Reg) (v : Word) : (th.setReg d v).busyTo = th.busyTo := by
  unfold Thread.setReg; split <;> rfl

/-- A register result: only the acting thread's registers, pc and hold change. -/
theorem State.result_eq (s : State) (d : Reg) (v : Word) :
    s.result d v = s.setThr s.curKey { s.me.setReg d v with pc := s.me.pc + 8, held := none } := by
  simp [State.result, State.next, State.goto, State.wx, State.modMe_eq]

end Sys2Proof.Machine
end

