-- ==== Sys2Proof/Laws/Memory.lean ====
section
/-! SUPPORT. Memory: what every operation over it reads and writes, and that each keeps the canonical form. -/

namespace Sys2Proof.Machine

/-- Every address listed is above `k`. -/
def Memory.above (k : Nat) (m : List Host.Cell) : Prop := ∀ c ∈ m, k < c.1

theorem Memory.wf_cons (a : Nat) (v : Byte) (t : List Host.Cell) :
    Memory.wf ((a, v) :: t) = true ↔ v ≠ 0 ∧ Memory.above a t ∧ Memory.wf t = true := by
  induction t generalizing a v with
  | nil => simp [Memory.wf, Memory.above]
  | cons e t ih =>
    obtain ⟨b, w⟩ := e
    have h := ih b w
    simp only [Memory.wf, Bool.and_eq_true, bne_iff_ne, ne_eq, decide_eq_true_eq]
    constructor
    · rintro ⟨⟨hv, hab⟩, hw⟩
      refine ⟨hv, ?_, hw⟩
      intro c hc
      rcases List.mem_cons.mp hc with rfl | hc
      · exact hab
      · exact Nat.lt_trans hab ((h.mp hw).2.1 c hc)
    · rintro ⟨hv, hab, hw⟩
      exact ⟨⟨hv, hab (b, w) (by simp)⟩, hw⟩

theorem Memory.get_of_above {m : List Host.Cell} {k : Nat} (h : Memory.above k m) : Memory.get m k = 0 := by
  induction m with
  | nil => rfl
  | cons e t ih =>
    obtain ⟨a, v⟩ := e
    have : a ≠ k := Nat.ne_of_gt (h (a, v) (by simp))
    simp only [Memory.get, this, if_false]
    exact ih (fun c hc => h c (by simp [hc]))

theorem Memory.above_trans {m : List Host.Cell} {j k : Nat} (h : Memory.above k m) (hj : j ≤ k) : Memory.above j m :=
  fun c hc => Nat.lt_of_le_of_lt hj (h c hc)

theorem Memory.above_put {m : List Host.Cell} {j k : Nat} {v : Byte} (h : Memory.above j m) (hk : j < k) :
    Memory.above j (Memory.put m k v) := by
  induction m with
  | nil => simp only [Memory.put]; split <;> simp_all [Memory.above]
  | cons e t ih =>
    obtain ⟨a, x⟩ := e
    have ha : j < a := h (a, x) (by simp)
    have ht : Memory.above j t := fun c hc => h c (by simp [hc])
    simp only [Memory.put]
    split
    · split
      · exact h
      · intro c hc; rcases List.mem_cons.mp hc with rfl | hc
        · exact hk
        · exact h c hc
    · split
      · split
        · exact ht
        · intro c hc; rcases List.mem_cons.mp hc with rfl | hc
          · exact hk
          · exact ht c hc
      · intro c hc; rcases List.mem_cons.mp hc with rfl | hc
        · exact ha
        · exact ih ht c hc

/-- Writing a byte keeps the canonical form. -/
theorem Memory.wf_put {m : List Host.Cell} (k : Nat) (v : Byte) (h : Memory.wf m = true) :
    Memory.wf (Memory.put m k v) = true := by
  induction m with
  | nil => simp only [Memory.put]; split <;> simp_all [Memory.wf]
  | cons e t ih =>
    obtain ⟨a, x⟩ := e
    obtain ⟨hx, ha, ht⟩ := (Memory.wf_cons a x t).mp h
    simp only [Memory.put]
    split
    · next hk =>
      split
      · exact h
      · next hv =>
        refine (Memory.wf_cons _ _ _).mpr ⟨hv, ?_, h⟩
        intro c hc; rcases List.mem_cons.mp hc with rfl | hc
        · exact hk
        · exact Nat.lt_trans hk (ha c hc)
    · next hk =>
      split
      · next he =>
        subst he
        split
        · exact ht
        · next hv => exact (Memory.wf_cons _ _ _).mpr ⟨hv, ha, ht⟩
      · next he =>
        exact (Memory.wf_cons _ _ _).mpr ⟨hx, Memory.above_put ha (by omega), ih ht⟩

/-- A read after the write of a byte. -/
theorem Memory.get_put {m : List Host.Cell} (k j : Nat) (v : Byte) (h : Memory.wf m = true) :
    Memory.get (Memory.put m k v) j = if j = k then v else Memory.get m j := by
  induction m with
  | nil =>
    simp only [Memory.put]
    by_cases hv : v = 0
    · subst hv; simp [Memory.get]
    · rw [if_neg hv]
      by_cases e : k = j
      · subst e; simp [Memory.get]
      · simp [Memory.get, e, Ne.symm e]
  | cons e t ih =>
    obtain ⟨a, x⟩ := e
    obtain ⟨hx, ha, ht⟩ := (Memory.wf_cons a x t).mp h
    simp only [Memory.put]
    split
    · next hk =>
      have hab : Memory.get ((a, x) :: t) k = 0 := Memory.get_of_above (fun c hc => by
        rcases List.mem_cons.mp hc with rfl | hc
        · exact hk
        · exact Nat.lt_trans hk (ha c hc))
      by_cases e : j = k
      · subst e
        split
        · next hv => rw [hab]; simp [hv]
        · simp [Memory.get]
      · split
        · simp
        · simp [Memory.get, Ne.symm e]
    · next hk =>
      split
      · next he =>
        subst he
        by_cases e : j = a
        · subst e
          split
          · next hv => rw [Memory.get_of_above ha]; simp [hv]
          · simp [Memory.get]
        · split
          · simp [Memory.get, Ne.symm e]
          · simp [Memory.get, Ne.symm e]
      · next he =>
        have := ih ht
        by_cases e : a = j
        · subst e; simp [Memory.get, he]
        · simp only [Memory.get, e, if_false]; exact this

/-- Writing bytes keeps the canonical form. -/
theorem Memory.wf_puts {m : List Host.Cell} (k : Nat) (bs : List Byte) (h : Memory.wf m = true) :
    Memory.wf (Memory.puts m k bs) = true := by
  induction bs generalizing m k with
  | nil => exact h
  | cons b bs ih => exact ih (k + 1) (Memory.wf_put k b h)

/-- A read after the write of bytes. -/
theorem Memory.get_puts {m : List Host.Cell} (k j : Nat) (bs : List Byte) (h : Memory.wf m = true) :
    Memory.get (Memory.puts m k bs) j = if k ≤ j ∧ j < k + bs.length then bs[j - k]?.getD 0 else Memory.get m j := by
  induction bs generalizing m k with
  | nil => rw [if_neg (by rw [List.length_nil]; omega)]; rfl
  | cons b bs ih =>
    rw [Memory.puts, ih (k + 1) (Memory.wf_put k b h), Memory.get_put k j b h]
    by_cases e : j = k
    · subst e; rw [if_neg (by omega), if_pos rfl, if_pos (by simp only [List.length_cons]; omega)]; simp
    · by_cases e2 : k + 1 ≤ j ∧ j < k + 1 + bs.length
      · have h3 : j - k = (j - (k + 1)) + 1 := by omega
        have h4 : k ≤ j ∧ j < k + (b :: bs).length := by simp only [List.length_cons]; omega
        rw [if_pos e2, if_pos h4, h3, List.getElem?_cons_succ]
      · have h4 : ¬(k ≤ j ∧ j < k + (b :: bs).length) := by simp only [List.length_cons]; omega
        rw [if_neg e2, if_neg e, if_neg h4]

/-- Any sublist of a memory in canonical form is in canonical form. -/
theorem Memory.wf_filter {m : List Host.Cell} (p : Host.Cell → Bool) (h : Memory.wf m = true) :
    Memory.wf (m.filter p) = true := by
  induction m with
  | nil => rfl
  | cons e t ih =>
    obtain ⟨a, v⟩ := e
    obtain ⟨hv, ha, ht⟩ := (Memory.wf_cons a v t).mp h
    simp only [List.filter_cons]
    split
    · exact (Memory.wf_cons _ _ _).mpr ⟨hv, fun c hc => ha c (List.mem_filter.mp hc).1, ih ht⟩
    · exact ih ht

/-- Clearing a range keeps the canonical form. -/
theorem Memory.wf_clear {m : List Host.Cell} (lo hi : Nat) (h : Memory.wf m = true) :
    Memory.wf (Memory.clear m lo hi) = true := Memory.wf_filter _ h

theorem Memory.get_filter_of {m : List Host.Cell} (p : Host.Cell → Bool) (j : Nat) (hp : ∀ v, p (j, v) = true) :
    Memory.get (m.filter p) j = Memory.get m j := by
  induction m with
  | nil => rfl
  | cons e t ih =>
    obtain ⟨a, v⟩ := e
    simp only [List.filter_cons]
    by_cases e : a = j
    · subst e; simp [hp, Memory.get]
    · split
      · simp [Memory.get, e, ih]
      · simp [Memory.get, e, ih]

/-- A cleared range reads 0, and every other byte as before. -/
theorem Memory.get_clear {m : List Host.Cell} (lo hi j : Nat) :
    Memory.get (Memory.clear m lo hi) j = if lo ≤ j ∧ j < hi then 0 else Memory.get m j := by
  by_cases e : lo ≤ j ∧ j < hi
  · rw [if_pos e]
    unfold Memory.clear
    induction m with
    | nil => rfl
    | cons c t ih =>
      obtain ⟨a, v⟩ := c
      simp only [List.filter_cons]
      split
      · next hp =>
        have : a ≠ j := by
          intro h; subst h
          simp only [Bool.or_eq_true, decide_eq_true_eq] at hp; omega
        simp [Memory.get, this, ih]
      · exact ih
  · rw [if_neg e]
    apply Memory.get_filter_of
    intro v
    simp only [Bool.or_eq_true, decide_eq_true_eq]; omega

/-- Two memories in canonical form that read alike are equal. -/
theorem Memory.ext_of_wf {m n : List Host.Cell} (hm : Memory.wf m = true) (hn : Memory.wf n = true)
    (h : ∀ k, Memory.get m k = Memory.get n k) : m = n := by
  induction m generalizing n with
  | nil =>
    cases n with
    | nil => rfl
    | cons e t =>
      obtain ⟨a, v⟩ := e
      have := h a
      simp only [Memory.get, if_true] at this
      exact absurd this.symm ((Memory.wf_cons a v t).mp hn).1
  | cons e t ih =>
    obtain ⟨a, v⟩ := e
    obtain ⟨hv, ha, ht⟩ := (Memory.wf_cons a v t).mp hm
    cases n with
    | nil =>
      have := h a
      simp only [Memory.get, if_true] at this
      exact absurd this hv
    | cons f u =>
      obtain ⟨b, w⟩ := f
      obtain ⟨hw, hb, hu⟩ := (Memory.wf_cons b w u).mp hn
      have hab : a = b := by
        rcases Nat.lt_trichotomy a b with lt | eq | gt
        · have := h a
          rw [Memory.get_of_above (m := (b, w) :: u) (fun c hc => by
            rcases List.mem_cons.mp hc with rfl | hc
            · exact lt
            · exact Nat.lt_trans lt (hb c hc))] at this
          simp only [Memory.get, if_true] at this
          exact absurd this hv
        · exact eq
        · have := h b
          rw [Memory.get_of_above (m := (a, v) :: t) (fun c hc => by
            rcases List.mem_cons.mp hc with rfl | hc
            · exact gt
            · exact Nat.lt_trans gt (ha c hc))] at this
          simp only [Memory.get, if_true] at this
          exact absurd this.symm hw
      subst hab
      have hvw : v = w := by have := h a; simpa [Memory.get] using this
      subst hvw
      have : t = u := ih ht hu (fun k => by
        by_cases e : a = k
        · subst e; rw [Memory.get_of_above ha, Memory.get_of_above hb]
        · have := h k; simpa [Memory.get, e] using this)
      rw [this]

theorem Memory.wf_reset : Memory.wf State.reset.mem = true := rfl

/-! ## Bytes of values -/

theorem toBytes_length (n v : Nat) : (toBytes n v).length = n := by
  induction n generalizing v with
  | zero => rfl
  | succ n ih => simp [toBytes, ih]

theorem toBytes_get (n v k : Nat) (h : k < n) : (toBytes n v)[k]? = some (BitVec.ofNat 8 (v / 256 ^ k)) := by
  induction n generalizing v k with
  | zero => omega
  | succ n ih =>
    cases k with
    | zero => simp [toBytes]
    | succ k => simp [toBytes, ih (v / 256) k (by omega), Nat.div_div_eq_div_mul, Nat.pow_succ, Nat.mul_comm]

theorem ofBytes_toBytes (n v : Nat) : ofBytes (toBytes n v) = v % 256 ^ n := by
  induction n generalizing v with
  | zero => simp [toBytes, ofBytes, Nat.mod_one]
  | succ n ih =>
    simp only [toBytes, ofBytes, ih, BitVec.toNat_ofNat]
    rw [show (2 : Nat) ^ 8 = 256 from rfl, Nat.pow_succ, Nat.mul_comm (256 ^ n) 256, Nat.mod_mul]

end Sys2Proof.Machine
end

