-- ==== Sys2Proof/Machine/Placement.lean ====
section
/-! DEFINITION. Where a line of memory lies (10 R332 to R334). No result and no ordering depends on it (R313, R334): no step
reads it. -/

namespace Sys2Proof.Machine

/-- Bits [lo + n − 1:lo] of a number. -/
def slice (v lo n : Nat) : Nat := v / 2 ^ lo % 2 ^ n

/-- The home L2 slice, within its die, of the HBM line of `pa` (R332). -/
def homeSlice (pa : Nat) : Nat := slice pa 6 9 ^^^ slice pa 15 9 ^^^ slice pa 24 9 ^^^ slice pa 33 4

/-- The physical number of the core beside the home slice of `pa`: core s mod 64 of cluster ⌊s / 64⌋ of its die (R332). -/
def homeCore (pa : Nat) : Nat := 512 * slice pa 37 3 + homeSlice pa

/-- A place in HBM; `column` counts 64-byte units of a row. -/
structure HbmPlace where
  die : Nat
  stack : Nat
  channel : Nat
  pseudo : Nat
  group : Nat
  bank : Nat
  row : Nat
  column : Nat
deriving DecidableEq, Repr

/-- Each hashed field is its raw bits exclusive-or row bits (R333). -/
def hbmPlace (pa : Nat) : HbmPlace :=
  let rw_ := slice pa 21 16
  { die := slice pa 37 3
    stack := slice pa 8 1 ^^^ slice rw_ 0 1 ^^^ slice rw_ 11 1
    channel := slice pa 9 5 ^^^ slice rw_ 1 5 ^^^ slice rw_ 6 5
    pseudo := slice pa 14 1 ^^^ slice rw_ 6 1 ^^^ slice rw_ 12 1
    group := slice pa 15 2 ^^^ slice rw_ 0 2 ^^^ slice rw_ 8 2
    bank := slice pa 17 2 ^^^ slice rw_ 2 2 ^^^ slice rw_ 13 2
    row := rw_
    column := slice pa 19 2 * 4 + slice pa 6 2 }

/-- The LPDDR channel of `pa`, and the address within it (R334). -/
def lpddrPlace (pa : Nat) : Nat × Nat :=
  let o := pa - 0x10000000000
  (slice o 8 6 ^^^ slice o 16 6 ^^^ slice o 24 6, slice o 14 30 * 256 + slice o 0 8)

end Sys2Proof.Machine
end

