-- ==== Sys2Proof/Laws/Placement.lean ====
section
/-! SUPPORT. The map from an HBM line to its place is one-to-one (10 R333). -/

namespace Sys2Proof.Machine

theorem xor_cancel_right {a b x y : Nat} (h : a ^^^ x ^^^ y = b ^^^ x ^^^ y) : a = b :=
  Nat.xor_left_injective (Nat.xor_left_injective h)

/-- The raw fields make up the line's number. -/
theorem line_of_fields {v : Nat} (h : v < 2 ^ 40) :
    v / 64 = slice v 6 2 + 4 * slice v 8 1 + 8 * slice v 9 5 + 2 ^ 8 * slice v 14 1 + 2 ^ 9 * slice v 15 2 + 2 ^ 11 * slice v 17 2 +
      2 ^ 13 * slice v 19 2 + 2 ^ 15 * slice v 21 16 + 2 ^ 31 * slice v 37 3 := by
  simp only [slice]
  omega

theorem slice_lt (v lo n : Nat) : slice v lo n < 2 ^ n := Nat.mod_lt _ (by positivity)

/-- Two HBM addresses with the same place lie in the same 64-byte line. -/
theorem hbmPlace_injective {p q : Nat} (hp : p < 2 ^ 40) (hq : q < 2 ^ 40) (h : hbmPlace p = hbmPlace q) : p / 64 = q / 64 := by
  simp only [hbmPlace, HbmPlace.mk.injEq] at h
  obtain ⟨die, stack, channel, pseudo, group, bank, row, column⟩ := h
  rw [row] at stack channel pseudo group bank
  have low := slice_lt p 6 2
  have low' := slice_lt q 6 2
  rw [line_of_fields hp, line_of_fields hq, die, row, xor_cancel_right stack, xor_cancel_right channel, xor_cancel_right pseudo,
    xor_cancel_right group, xor_cancel_right bank]
  omega

end Sys2Proof.Machine
end

