-- ==== Sys2Proof/Laws/Results.lean ====
section
/-! SUPPORT. How the operations over registers and the pc give what the statements of Safety say of a completed
instruction, and the guards of the meanings where they let the instruction pass. -/

namespace Sys2Proof.Machine

theorem Thread.mem_setReg_badRegs (th : Thread) (d r : Reg) (v : Word) :
    r.toNat ∈ (th.setReg d v).badRegs ↔ r.toNat ∈ th.badRegs ∧ ¬(r = d ∧ r ≠ 0) := by
  unfold Thread.setReg
  by_cases hd : d = 0#6
  · simp only [hd, BitVec.ofNat_eq_ofNat, if_true]
    exact ⟨fun h => ⟨h, fun ⟨a, b⟩ => b a⟩, fun h => h.1⟩
  · have e : (r.toNat = d.toNat) ↔ r = d := ⟨BitVec.eq_of_toNat_eq, fun h => h ▸ rfl⟩
    simp only [BitVec.ofNat_eq_ofNat, hd, if_false, List.mem_filter, bne_iff_ne, ne_eq, e]
    exact ⟨fun ⟨a, b⟩ => ⟨a, fun h => b h.1⟩, fun ⟨a, b⟩ => ⟨a, fun h => b ⟨h, fun z => hd (h ▸ z)⟩⟩⟩

/-- A state that differs from `base` in the acting thread's destination, pc, hold and issue time. -/
theorem leavesAt_of_eq {i : Instr} {s base : State} {d : Reg} {v pc : Word} {b : Nat}
    (h : exec i s = .next (base.setThr base.curKey { base.me.setReg d v with pc := pc, held := none, busyTo := b })) :
    LeavesAt i s base d v pc b := by
  refine ⟨_, h, ⟨by simp, ?_⟩, ?_, ?_, by simp, by simp, by simp⟩
  · simp only [State.setThr_me, Thread.setReg]; split <;> rfl
  · intro r
    have h : State.rx (base.setThr base.curKey { base.me.setReg d v with pc := pc, held := none, busyTo := b }) r =
        (base.me.setReg d v).reg r := by
      simp only [State.rx]; rw [show State.me _ = _ from State.setThr_me _ _]; rfl
    rw [h]; exact Thread.reg_setReg _ _ _ _
  · intro r; rw [show State.me _ = _ from State.setThr_me _ _]; exact Thread.mem_setReg_badRegs _ _ _ _

theorem leavesAt_of_result {i : Instr} {s base : State} {d : Reg} {v : Word} (h : exec i s = .next (base.result d v)) :
    LeavesAt i s base d v (base.me.pc + 8) base.me.busyTo := by
  apply leavesAt_of_eq
  rw [h, State.result_eq]
  congr 2
  simp only [Thread.setReg]; split <;> rfl

theorem givesAt_of_eq {i : Instr} {s : State} {d : Reg} {v pc : Word} {b : Nat}
    (h : exec i s = .next (s.setThr s.curKey { s.me.setReg d v with pc := pc, held := none, busyTo := b })) :
    GivesAt i s d v pc b := leavesAt_of_eq h

theorem gives_of_result {i : Instr} {s : State} {d : Reg} {v : Word} (h : exec i s = .next (s.result d v)) :
    Gives i s d v := leavesAt_of_result h

theorem givesAt_of_goto {i : Instr} {s : State} {d : Reg} {v pc : Word} (h : exec i s = .next ((s.wx d v).goto pc)) :
    GivesAt i s d v pc s.me.busyTo := by
  apply givesAt_of_eq
  rw [h]; simp only [State.goto, State.wx, State.modMe_eq, State.setThr_me, State.setThr_curKey, State.setThr_setThr]
  congr 2
  simp only [Thread.setReg]; split <;> rfl

theorem jumpsTo_of_goto {i : Instr} {s : State} {pc : Word} (h : exec i s = .next (s.goto pc)) : JumpsTo i s pc := by
  apply givesAt_of_eq
  rw [h]; simp [State.goto, State.modMe_eq, Thread.setReg]

theorem givesAt_of_occupy {i : Instr} {s : State} {d : Reg} {v : Word}
    (h : exec i s = .next ((s.result d v).occupy)) : GivesAt i s d v (s.me.pc + 8) (s.cyc + 40) := by
  apply givesAt_of_eq
  rw [h, State.result_eq]
  simp only [State.occupy, State.modMe_eq, State.setThr_me, State.setThr_curKey, State.setThr_setThr, State.setThr_cyc]

/-- No struck register among those an instruction reads: its meaning goes on. -/
theorem State.reading_of_readable {s : State} {rs : List Reg} (h : s.readable rs) (k : State) : s.reading rs k = k := by
  unfold State.reading
  rw [List.find?_eq_none.mpr (fun r hr => by simpa using h r hr)]

theorem State.homeOnly_of {s : State} (h : s.me.svc = false) (h' : s.me.helper = false) (k : State) : s.homeOnly k = k := by
  simp [State.homeOnly, h, h']
theorem State.taskOnly_of {s : State} (h : s.me.svc = false) (k : State) : s.taskOnly k = k := by
  simp [State.taskOnly, h]
theorem State.supervisor_of {s : State} (h : s.me.svc = true) (k : State) : s.supervisor k = k := by
  simp [State.supervisor, h]

/-- x0 is never struck: reading it traps nothing. -/
theorem State.readable_zero (s : State) : s.readable [0] := by simp [State.readable, State.struckReg]

end Sys2Proof.Machine
end

