-- ==== Sys2Proof/Tests/Slice0.lean ====
section
/-! SUPPORT. Decoding of words written out from the encoding tables and the examples of 02, ill-formed terms that every
check refuses, and for each statement with hypotheses a state and operands that meet them. -/

open Sys2Proof Sys2Proof.Machine

/-- 02 R48, R49. -/
theorem test_decode_integer_1 : [
    (0x10D494000000000, .add 3 20 37),
    (0x10D494000000001, .sub 3 20 37),
    (0x10D494000000002, .addw 3 20 37),
    (0x10D494000000003, .subw 3 20 37),
    (0x10D494000000004, .and 3 20 37),
    (0x10D494000000005, .or 3 20 37),
    (0x10D494000000006, .xor 3 20 37),
    (0x10D494000000007, .andn 3 20 37),
    (0x10D494000000008, .orn 3 20 37),
    (0x10D494000000009, .xnor 3 20 37),
    (0x10D49400000000A, .sll 3 20 37),
    (0x10D49400000000B, .srl 3 20 37),
    (0x10D49400000000C, .sra 3 20 37),
    (0x10D49400000000D, .rol 3 20 37),
    (0x10D49400000000E, .ror 3 20 37),
    (0x10D494000000010, .mul 3 20 37),
    (0x10D494000000011, .mulh 3 20 37),
    (0x10D494000000012, .mulhu 3 20 37),
    (0x10D494000000013, .mulhsu 3 20 37),
    (0x10D494000000014, .mulw 3 20 37),
    (0x10D497600000015, .madd 3 20 37 54),
    (0x10D494000000016, .div 3 20 37),
    (0x10D494000000017, .divu 3 20 37),
    (0x10D494000000018, .rem 3 20 37)].all
    (fun (p : Nat × Instr) => decodeTableWord 64 p.1 == some p.2) = true := by decide

/-- 02 R48, R49. -/
theorem test_decode_integer_2 : [
    (0x10D494000000019, .remu 3 20 37),
    (0x10D49400000001A, .min 3 20 37),
    (0x10D49400000001B, .max 3 20 37),
    (0x10D49400000001C, .minu 3 20 37),
    (0x10D49400000001D, .maxu 3 20 37),
    (0x10D49400000001E, .slt 3 20 37),
    (0x10D49400000001F, .sltu 3 20 37),
    (0x10D494000000020, .seq 3 20 37),
    (0x10D494000000021, .sne 3 20 37),
    (0x10D497600000022, .sel 3 20 37 54),
    (0x10D400000000023, .clz 3 20),
    (0x10D400000000024, .ctz 3 20),
    (0x10D400000000025, .popc 3 20),
    (0x10D400000000026, .brev 3 20),
    (0x10D400000000027, .bswap 3 20),
    (0x10D497600000028, .bfx 3 20 37 54),
    (0x10D497600000029, .bfxu 3 20 37 54),
    (0x10D49760000002A, .bfi 3 20 37 54),
    (0x50D49407FFFFFF0, .lea 3 20 37 3 0x1FFFFFF0)].all
    (fun (p : Nat × Instr) => decodeTableWord 64 p.1 == some p.2) = true := by decide

/-- 02 R50. -/
theorem test_decode_immediate : [
    (0x100D400080000001, .addi 3 20 0x80000001),
    (0x110D400080000001, .addiw 3 20 0x80000001),
    (0x120D400080000001, .andi 3 20 0x80000001),
    (0x130D400080000001, .ori 3 20 0x80000001),
    (0x140D400080000001, .xori 3 20 0x80000001),
    (0x150D40000000002A, .slli 3 20 0x2A),
    (0x160D40000000002A, .srli 3 20 0x2A),
    (0x170D40000000002A, .srai 3 20 0x2A),
    (0x180D400080000001, .slti 3 20 0x80000001),
    (0x190D400080000001, .sltiu 3 20 0x80000001),
    (0x1A0C000080000001, .li 3 0x80000001),
    (0x1B0D400080000001, .lih 3 20 0x80000001),
    (0x1C0D400080000001, .muli 3 20 0x80000001),
    (0x1D0D400000000B08, .bfxi 3 20 0xB08),
    (0x1E0D400000000B08, .bfxui 3 20 0xB08),
    (0x1F0D400000000B08, .bfii 3 20 0xB08)].all
    (fun (p : Nat × Instr) => decodeTableWord 64 p.1 == some p.2) = true := by decide

/-- 02 R50, 04 R129 to R132. -/
theorem test_decode_control : [
    (0x200D4000FFFFFFFE, .beq 3 20 0xFFFFFFFE),
    (0x200D4001FFFFFFFE, .bne 3 20 0xFFFFFFFE),
    (0x200D4002FFFFFFFE, .blt 3 20 0xFFFFFFFE),
    (0x200D4003FFFFFFFE, .bge 3 20 0xFFFFFFFE),
    (0x200D4004FFFFFFFE, .bltu 3 20 0xFFFFFFFE),
    (0x200D4005FFFFFFFE, .bgeu 3 20 0xFFFFFFFE),
    (0x2100000000000008, .j 8),
    (0x220C000000000008, .jal 3 8),
    (0x230D400000000010, .jalr 3 20 0x10),
    (0x240C0000FFFFFFFF, .loop 3 0xFFFFFFFF)].all
    (fun (p : Nat × Instr) => decodeTableWord 64 p.1 == some p.2) = true := by decide

/-- 02 R41, R42, R47, R51. -/
theorem test_decode_memory : [
    (0x300D44A900000010, .ld 3 20 ⟨.h, .acq, .group, true, .nt⟩ 16),
    (0x310D4E6200000010, .st 3 20 ⟨.d, .sc, .system, false, .keep⟩ 16),
    (0x3201403200000010, .pf 20 .die .keep 16),
    (0x3301404000000010, .cwb 20 .package 16),
    (0x3401405000000010, .cinv 20 .domain 16),
    (0x3500019000000000, .fence .acqRel .cluster),
    (0x400D480094080008, .aadd 3 20 37 ⟨false, .plain, .core⟩ 0x80008),
    (0x410D4C9094080008, .aand 3 20 37 ⟨true, .acq, .cluster⟩ 0x80008),
    (0x420D492094080008, .aor 3 20 37 ⟨false, .rel, .group⟩ 0x80008),
    (0x430D4DB094080008, .axor 3 20 37 ⟨true, .acqRel, .die⟩ 0x80008),
    (0x440D4A4094080008, .amin 3 20 37 ⟨false, .sc, .package⟩ 0x80008),
    (0x450D4C5094080008, .amax 3 20 37 ⟨true, .plain, .domain⟩ 0x80008),
    (0x460D48E094080008, .aminu 3 20 37 ⟨false, .acq, .system⟩ 0x80008),
    (0x470D4D0094080008, .amaxu 3 20 37 ⟨true, .rel, .core⟩ 0x80008),
    (0x480D499094080008, .aswap 3 20 37 ⟨false, .acqRel, .cluster⟩ 0x80008),
    (0x490D4E2097680008, .acas 3 20 37 54 ⟨true, .sc, .group⟩ 0x80008),
    (0x4A0D483094080008, .afadd 3 20 37 ⟨false, .plain, .die⟩ 0x80008)].all
    (fun (p : Nat × Instr) => decodeTableWord 64 p.1 == some p.2) = true := by decide

/-- 02 R52, R56. -/
theorem test_decode_queue : [
    (0x5001400000009300, .qpush 20 9 3),
    (0x50000000FFFFB301, .qpushi 0xFFFF 11 3),
    (0x500C094000000F02, .qpop 3 37 15),
    (0x500C097600000F03, .qtry 3 37 54 15),
    (0x500C000000000004, .bqpop 3),
    (0x500C003600000005, .bqtry 3 54),
    (0x500C000000000706, .qstat 3 7),
    (0x700D494000003200, .waita 3 20 37 true 2),
    (0x70014940C0000001, .bar 20 37 .system),
    (0x700C000000000002, .evwait 3),
    (0x7001497600000003, .evpost 20 37 54)].all
    (fun (p : Nat × Instr) => decodeTableWord 64 p.1 == some p.2) = true := by decide

/-- 02 R53, R54. -/
theorem test_decode_copy : [
    (0x580D497658000500, .copy 3 20 37 54 ⟨.group, true, true, 5⟩),
    (0x580D497658000501, .copy2 3 20 37 54 ⟨.group, true, true, 5⟩),
    (0x580D497658C00502, .copyr 3 20 37 54 6 ⟨.group, true, true, 5⟩),
    (0x580D497658C00503, .copyrg 3 20 37 54 6 ⟨.group, true, true, 5⟩),
    (0x5800000000000504, .twait 5),
    (0x580C000000000505, .tquery 3 5),
    (0x580C000008000505, .tqueryCrc 3 5),
    (0x6001400000000600, .sbase 6 20),
    (0x6001494000002601, .sdim 6 2 20 37),
    (0x6000000020980602, .sgoLd 6 9 .w .cluster),
    (0x60000000209A0602, .sgoSt 6 9 .w .cluster),
    (0x6000000000000603, .sstop 6),
    (0x6000000000000604, .sresume 6),
    (0x600000000000A505, .sbar 0xA5)].all
    (fun (p : Nat × Instr) => decodeTableWord 64 p.1 == some p.2) = true := by decide

/-- 02 R55, R57. -/
theorem test_decode_fibre : [
    (0x680D497600050000, .fnode 3 20 37 54 0 5),
    (0x6800000012564001, .fedge ⟨1, 2, 1, 5, 9, 0⟩),
    (0x680C000005000002, .fgo 3 5),
    (0x680C000005000003, .fwait 3 5),
    (0x6800000005000004, .fkill 5),
    (0x6800000005000005, .fresume 5),
    (0x780D494000000000, .alloc 3 20 37),
    (0x7801400000000001, .free 20),
    (0x7801400000000002, .freeD 20),
    (0x7C0D4000C0000000, .nsend 3 20 .system),
    (0x7C0D400000000001, .nrecv 3 20),
    (0x7C0D4940A0000002, .ssubmit 3 20 37 .domain)].all
    (fun (p : Nat × Instr) => decodeTableWord 64 p.1 == some p.2) = true := by decide

/-- 02 R58. -/
theorem test_decode_task : [
    (0x800D400000000000, .launch 3 20),
    (0x8001400000000001, .cancelTask 20),
    (0x8001400000000101, .cancelLaunch 20),
    (0x8001400000000201, .cancelGraph 20),
    (0x8001400000000301, .cancelJob 20),
    (0x8000000000000002, .exit),
    (0x8000000000000003, .exitAbort),
    (0x8000000000000004, .yield),
    (0x800D400000000005, .spawn 3 20),
    (0x8801400000123400, .syscall 20 0x1234),
    (0x8800000000123401, .trap 0x1234),
    (0x8800000000000002, .rte),
    (0x880C0000000ABC03, .getcw 3 0xABC),
    (0x88014000000ABC04, .setcw 0xABC 20),
    (0x880C000000000005, .cyc 3)].all
    (fun (p : Nat × Instr) => decodeTableWord 64 p.1 == some p.2) = true := by decide

/-- 02 R58. -/
theorem test_decode_supervisor : [
    (0x900D494000000000, .tlbinvPage 3 20 37),
    (0x900D497600000100, .tlbinvRange 3 20 37 54),
    (0x900D400000000200, .tlbinvJob 3 20),
    (0x900C000000000300, .tlbinvAll 3),
    (0x900D497600000001, .acctab 3 20 37 54),
    (0x900D400000000002, .freeze 3 20),
    (0x900D400000000003, .thaw 3 20),
    (0x900D494000000004, .preempt 3 20 37),
    (0x900D400000000005, .resumeTask 3 20),
    (0x900D400000000105, .resumeRetry 3 20),
    (0x900D400000000205, .resumeDeliver 3 20),
    (0x900D400000000305, .resumeKill 3 20),
    (0x900D497600000006, .migrate 3 20 37 54)].all
    (fun (p : Nat × Instr) => decodeTableWord 64 p.1 == some p.2) = true := by decide

/-- 02 R63 to R67. -/
theorem test_decode_pe_1 : [
    (0x0, .nop),
    (0x2A0840010E0, .fadd ⟨5, 1, 2, 0, 0, 0, false, true, 3, 2, 0⟩),
    (0x4A0860160E0, .fsub ⟨5, 1, 3, 0, 1, 1, true, false, 3, 2, 0⟩),
    (0x6A0880290E0, .fmul ⟨5, 1, 4, 0, 2, 2, false, true, 3, 2, 0⟩),
    (0x8A08B5BE0E0, .ffma ⟨5, 1, 5, 43, 3, 3, true, false, 3, 2, 0⟩),
    (0xAA08D5810E0, .ffms ⟨5, 1, 6, 43, 0, 0, false, true, 3, 2, 0⟩),
    (0xCA08F5960E0, .fnfma ⟨5, 1, 7, 43, 1, 1, true, false, 3, 2, 0⟩),
    (0xEA0900200E0, .fmin ⟨5, 1, 8, 0, 2, 0, false, false, 3, 2, 0⟩),
    (0x10A0920300E0, .fmax ⟨5, 1, 9, 0, 3, 0, false, false, 3, 2, 0⟩),
    (0x12A0800000E0, .fabs ⟨5, 1, 0, 0, 0, 0, false, false, 3, 2, 0⟩),
    (0x14A0800100E0, .fneg ⟨5, 1, 0, 0, 1, 0, false, false, 3, 2, 0⟩),
    (0x16A0980200E0, .fceq ⟨5, 1, 12, 0, 2, 0, false, false, 3, 2, 0⟩),
    (0x18A09A0300E0, .fclt ⟨5, 1, 13, 0, 3, 0, false, false, 3, 2, 0⟩),
    (0x1AA09C0000E0, .fcle ⟨5, 1, 14, 0, 0, 0, false, false, 3, 2, 0⟩),
    (0x1CA0800160E0, .frcp ⟨5, 1, 0, 0, 1, 1, true, false, 3, 2, 0⟩),
    (0x1EA0800290E0, .frsq ⟨5, 1, 0, 0, 2, 2, false, true, 3, 2, 0⟩),
    (0x20A08003E0E0, .fexp2 ⟨5, 1, 0, 0, 3, 3, true, false, 3, 2, 0⟩),
    (0x22A0800010E0, .flog2 ⟨5, 1, 0, 0, 0, 0, false, true, 3, 2, 0⟩),
    (0x40A0FE040000, .iadd ⟨5, 1, 63, 0, 4, 0, false, false, 0, 0, 0⟩),
    (0x42A0FC05000C, .isub ⟨5, 1, 62, 0, 5, 0, false, false, 0, 0, 12⟩),
    (0x44A0FA060000, .imul ⟨5, 1, 61, 0, 6, 0, false, false, 0, 0, 0⟩),
    (0x46A0F807000C, .imulh ⟨5, 1, 60, 0, 7, 0, false, false, 0, 0, 12⟩),
    (0x48A0F6040000, .iand ⟨5, 1, 59, 0, 4, 0, false, false, 0, 0, 0⟩),
    (0x4AA0F405000C, .ior ⟨5, 1, 58, 0, 5, 0, false, false, 0, 0, 12⟩)].all
    (fun (p : Nat × Instr) => decodeTableWord 48 p.1 == some p.2) = true := by decide

/-- 02 R63 to R67. -/
theorem test_decode_pe_2 : [
    (0x4CA0F2060000, .ixor ⟨5, 1, 57, 0, 6, 0, false, false, 0, 0, 0⟩),
    (0x4EA0F007000C, .ishl ⟨5, 1, 56, 0, 7, 0, false, false, 0, 0, 12⟩),
    (0x50A0EE040000, .ishr ⟨5, 1, 55, 0, 4, 0, false, false, 0, 0, 0⟩),
    (0x52A0EC05000C, .isra ⟨5, 1, 54, 0, 5, 0, false, false, 0, 0, 12⟩),
    (0x54A0EA060000, .imin ⟨5, 1, 53, 0, 6, 0, false, false, 0, 0, 0⟩),
    (0x56A0E807000C, .imax ⟨5, 1, 52, 0, 7, 0, false, false, 0, 0, 12⟩),
    (0x58A0E6040000, .iceq ⟨5, 1, 51, 0, 4, 0, false, false, 0, 0, 0⟩),
    (0x5AA0E405000C, .iclt ⟨5, 1, 50, 0, 5, 0, false, false, 0, 0, 12⟩),
    (0x5CA080060000, .iabs ⟨5, 1, 0, 0, 6, 0, false, false, 0, 0, 0⟩),
    (0x5EA0E007000C, .iaddsat ⟨5, 1, 48, 0, 7, 0, false, false, 0, 0, 12⟩),
    (0x60A08021C000, .cvt ⟨5, 1, 0, 4, 1, 3, false, false, 0, 0, 0⟩),
    (0x62A080064000, .cvtSat ⟨5, 1, 0, 0, 6, 1, false, false, 0, 0, 0⟩),
    (0x64A084004000, .pk8 ⟨5, 1, 2, 0, 0, 1, false, false, 0, 0, 0⟩),
    (0x66A084000000, .upk8 ⟨5, 1, 2, 0, 0, 0, false, false, 0, 0, 0⟩),
    (0x68A084002000, .bscale ⟨5, 1, 2, 0, 0, 0, true, false, 0, 0, 0⟩),
    (0x70A080070010, .mov ⟨5, 1, 0, 0, 7, 0, false, false, 0, 1, 0⟩),
    (0x72A084050000, .lshuf ⟨5, 1, 2, 0, 5, 0, false, false, 0, 0, 0⟩),
    (0x74A084030000, .lbcast ⟨5, 1, 2, 0, 3, 0, false, false, 0, 0, 0⟩),
    (0x76A0A4000000, .lrot ⟨5, 1, 18, 0, 0, 0, false, false, 0, 0, 0⟩),
    (0x78A080008000, .redadd ⟨5, 1, 0, 0, 0, 2, false, false, 0, 0, 0⟩),
    (0x7AA080060000, .redmax ⟨5, 1, 0, 0, 6, 0, false, false, 0, 0, 0⟩),
    (0x7CA080040000, .redmin ⟨5, 1, 0, 0, 4, 0, false, false, 0, 0, 0⟩),
    (0x7EA0841A0000, .peSel ⟨5, 1, 2, 3, 2, 0, false, false, 0, 0, 0⟩),
    (0x80B0B8002001, .accs ⟨5, 33, 28, 0, 0, 0, true, false, 0, 0, 1⟩)].all
    (fun (p : Nat × Instr) => decodeTableWord 48 p.1 == some p.2) = true := by decide

/-- 02 R63 to R67. -/
theorem test_decode_pe_3 : [
    (0x833780000000, .qdrop ⟨9, 47, 0, 0, 0, 0, false, false, 0, 0, 0⟩),
    (0x84F980000000, .tkind ⟨7, 51, 0, 0, 0, 0, false, false, 0, 0, 0⟩)].all
    (fun (p : Nat × Instr) => decodeTableWord 48 p.1 == some p.2) = true := by decide

/-- 02 R68, R69. -/
theorem test_decode_matrix : [
    (0x286B802468ACF135780000000E000000000000000000000, .mma ⟨1, 2, 0, 3, 5, true, true, false, false, 20015998343868, 7, 0, 0, 0, 0, 0⟩),
    (0x100400000000000000000000000000000000000000000000, .mzero ⟨0, 0, 0, 2, 0, false, false, false, false, 0, 0, 0, 0, 0, 0, 0⟩),
    (0x2C0480000000000000000000000000000000000000000000, .mload ⟨6, 0, 0, 2, 4, false, false, false, false, 0, 0, 0, 0, 0, 0, 0⟩),
    (0x302A02000000000000000000000000000000000000000000, .mdrain ⟨0, 0, 5, 1, 0, false, false, false, true, 0, 0, 0, 0, 0, 0, 0⟩),
    (0x429A2C000000000000A00000013FFE300038000000000000, .simmer ⟨1, 2, 3, 1, 1, false, true, true, false, 5, 9, 255, 15, 1, 32769, 6⟩),
    (0x500000000000000000000000000000000000000000000000, .simstop),
    (0x600000000000000000000000000000000000000000000000, .mstat),
    (0x700000000000000000000000000000000000000000000000, .mfence)].all
    (fun (p : Nat × Instr) => decodeTableWord 192 p.1 == some p.2) = true := by decide

/-- 02 R60, R61, R67 and 05 R161 (their examples). -/
theorem test_decode_bundle : [
    (0xFFC00000000000000000000000000000000000000000000000000000000000, .jmp 511),
    (0x1016AC000000000000000000000000000000000000000000000000000000000, .brTok 10 11 5),
    (0x180200000000064000000000000000000000000000000000000000000000000, .loopRow 2 100),
    (0x201B00000000000000000000000000000000000000000000000000000000000, .endloop 3 6),
    (0x2802E0000000000000000000000000000000000000000000000000000000000, .bqpush 2 7),
    (0x300000000000000000000000000000000000000000000000000000000000000, .halt),
    (0x2000000000000000000000000000000000000000000000000000000000000000, .endRow),
    (0x8000000000000000000000000000000000000000220C4000000000000000000, .fadd ⟨1, 1, 34, 0, 0, 0, false, false, 0, 0, 0⟩),
    (0x803038020001, .accs ⟨1, 32, 28, 0, 2, 0, false, false, 0, 0, 1⟩)].all
    (fun (p : Nat × Instr) => decodeTableWord 256 p.1 == some p.2) = true := by decide

/-- Words the spec gives in its examples (02, 04, 07, 08). -/
theorem test_decode_examples : [
    (0x10C414000000000, .add 3 4 5),
    (0x110518700000015, .madd 4 5 6 7),
    (0x10249000FFFFFFFF, .addi 9 9 0xFFFFFFFF),
    (0x528B30060000010, .lea 10 11 12 3 16),
    (0x201C800200000008, .blt 7 8 8),
    (0x2301F00000000000, .jalr 0 31 0),
    (0x242C0000FFFFFFFF, .loop 11 0xFFFFFFFF),
    (0x30146C9000000010, .ld 5 6 ⟨.d, .acq, .cluster, false, .none⟩ 16),
    (0x30146800FFFFFFFC, .ld 5 6 ⟨.w, .plain, .core, false, .none⟩ 0xFFFFFFFC),
    (0x3130BC0000000000, .st 12 11 ⟨.d, .plain, .core, false, .none⟩ 0),
    (0x3500026000000000, .fence .sc .system),
    (0x50000000FFFFB301, .qpushi 0xFFFF 11 3),
    (0x5020024000000102, .qpop 8 9 1),
    (0x5030000D00000005, .bqtry 12 13),
    (0x7010500000003000, .waita 4 5 0 true 0),
    (0x7018D1C000002300, .waita 6 13 7 false 3),
    (0x7000A2C040000001, .bar 10 11 .group),
    (0x5834A2CC38000200, .copy 13 10 11 12 ⟨.cluster, true, true, 2⟩),
    (0x581C000008000205, .tqueryCrc 7 2)].all
    (fun (p : Nat × Instr) => decodeTableWord 64 p.1 == some p.2) = true := by decide

/-- Words the spec gives in its examples (08, 09, 11, 12, 13). -/
theorem test_decode_more_examples : [
    (0x6000414000001301, .sdim 3 1 4 5),
    (0x60000000205C0302, .sgoLd 3 5 .d .cluster),
    (0x781461C000000000, .alloc 5 6 7),
    (0x7C250000C0000000, .nsend 9 16 .system),
    (0x6850000005000002, .fgo 20 5),
    (0x6854000005000003, .fwait 21 5),
    (0x6800000010504001, .fedge ⟨1, 0, 1, 4, 1, 0⟩),
    (0x6800A2C000000000, .fnode 0 10 11 0 0 0),
    (0x6800F41100400000, .fnode 0 15 16 17 4 0),
    (0x8014600000000000, .launch 5 6),
    (0x8014600000000005, .spawn 5 6),
    (0x8000000000000002, .exit),
    (0x8000700000000101, .cancelLaunch 7),
    (0x8800000000001201, .trap 0x12),
    (0x8800600000000B04, .setcw 0xB 6),
    (0x881C000000000005, .cyc 7),
    (0x901461C800000100, .tlbinvRange 5 6 7 8),
    (0x901461C800000006, .migrate 5 6 7 8),
    (0x901461C000000004, .preempt 5 6 7),
    (0x9014600000000105, .resumeRetry 5 6)].all
    (fun (p : Nat × Instr) => decodeTableWord 64 p.1 == some p.2) = true := by decide

/-- Refused as ill formed: 02 R50. -/
theorem test_ill_formed_shift : ([
    .slli 1 2 64,
    .srli 1 2 64,
    .srai 1 2 0x80000000] : List Instr).all (fun i => !i.wf) = true := by decide

/-- Refused as ill formed: 02 R43. -/
theorem test_ill_formed_field_immediate : ([
    .bfxi 1 2 0x4000,
    .bfxui 1 2 0x40,
    .bfii 1 2 0x80] : List Instr).all (fun i => !i.wf) = true := by decide

/-- Refused as ill formed: 02 R47. -/
theorem test_ill_formed_memory : ([
    .ld 1 2 ⟨.d, .plain, .core, true, .none⟩ 0,
    .ld 1 2 ⟨.d, .rel, .core, false, .none⟩ 0,
    .ld 1 2 ⟨.d, .acqRel, .core, false, .none⟩ 0,
    .st 1 2 ⟨.d, .acq, .core, false, .none⟩ 0,
    .st 1 2 ⟨.b, .plain, .core, true, .none⟩ 0,
    .fence .plain .core] : List Instr).all (fun i => !i.wf) = true := by decide

/-- Refused as ill formed: 02 R52, 07 R221. -/
theorem test_ill_formed_queue : ([
    .qpush 1 12 0,
    .qpushi 1 12 0,
    .qpop 5 5 0,
    .qtry 5 6 5 0,
    .bqtry 7 7] : List Instr).all (fun i => !i.wf) = true := by decide

/-- Refused as ill formed: 02 R56. -/
theorem test_ill_formed_event : ([
    .evwait 0,
    .evwait 63] : List Instr).all (fun i => !i.wf) = true := by decide

/-- Refused as ill formed: 02 R53. -/
theorem test_ill_formed_copy : ([
    .copy 1 2 3 4 ⟨.core, false, false, 0⟩,
    .copy2 0 2 3 61 ⟨.core, false, false, 0⟩,
    .copyr 0 2 3 61 0 ⟨.core, false, false, 0⟩,
    .copyrg 0 2 3 61 0 ⟨.core, false, false, 0⟩] : List Instr).all (fun i => !i.wf) = true := by decide

/-- Refused as ill formed: 02 R57. -/
theorem test_ill_formed_net : ([
    .nsend 1 57 .core,
    .nrecv 1 61] : List Instr).all (fun i => !i.wf) = true := by decide

/-- Refused as ill formed: 09 R283, R285, R287. -/
theorem test_ill_formed_fibre : ([
    .fnode 1 2 3 4 0 8,
    .fnode 0 0 0 0 7 0,
    .fnode 1 2 3 4 4 0,
    .fnode 0 2 3 0 5 0,
    .fnode 1 0 0 0 6 0,
    .fnode 0 1 0 0 1 0,
    .fedge ⟨0, 8, 0, 4, 0, 0⟩,
    .fedge ⟨0, 0, 0, 4, 4, 0⟩,
    .fedge ⟨0, 0, 1, 4, 0, 0⟩,
    .fedge ⟨0, 0, 0, 4, 0, 1⟩] : List Instr).all (fun i => !i.wf) = true := by decide

/-- Refused as ill formed: 02 R65, R67. -/
theorem test_ill_formed_pe_format : ([
    .fadd ⟨1, 1, 2, 0, 4, 0, false, false, 0, 0, 0⟩,
    .iadd ⟨1, 1, 2, 0, 3, 0, false, false, 0, 0, 0⟩,
    .pk8 ⟨1, 1, 2, 0, 1, 0, false, false, 0, 0, 0⟩,
    .tkind ⟨1, 32, 0, 0, 1, 0, false, false, 0, 0, 0⟩,
    .redadd ⟨1, 1, 0, 0, 4, 1, false, false, 0, 0, 0⟩] : List Instr).all (fun i => !i.wf) = true := by decide

/-- Refused as ill formed: 02 R65. -/
theorem test_ill_formed_pe_rounding : ([
    .fmin ⟨1, 1, 2, 0, 0, 1, false, false, 0, 0, 0⟩,
    .iadd ⟨1, 1, 2, 0, 4, 0, true, false, 0, 0, 0⟩,
    .mov ⟨1, 1, 0, 0, 0, 0, false, true, 0, 0, 0⟩] : List Instr).all (fun i => !i.wf) = true := by decide

/-- Refused as ill formed: 02 R64, R67. -/
theorem test_ill_formed_pe_sources : ([
    .fadd ⟨1, 29, 2, 0, 0, 0, false, false, 0, 0, 0⟩,
    .fadd ⟨1, 1, 31, 0, 0, 0, false, false, 0, 0, 0⟩,
    .fabs ⟨1, 1, 1, 0, 0, 0, false, false, 0, 0, 0⟩,
    .fadd ⟨1, 1, 2, 1, 0, 0, false, false, 0, 0, 0⟩,
    .ffma ⟨1, 1, 2, 30, 0, 0, false, false, 0, 0, 0⟩] : List Instr).all (fun i => !i.wf) = true := by decide

/-- Refused as ill formed: 02 R63, R65, 05 R167. -/
theorem test_ill_formed_pe_step_and_push : ([
    .fadd ⟨1, 1, 2, 0, 0, 0, false, false, 0, 3, 0⟩,
    .fadd ⟨1, 16, 17, 0, 0, 0, false, false, 0, 2, 0⟩,
    .fadd ⟨1, 1, 2, 0, 0, 0, false, false, 0, 1, 1⟩,
    .fadd ⟨1, 1, 2, 0, 0, 0, false, false, 0, 0, 13⟩,
    .redadd ⟨8, 1, 0, 0, 0, 0, false, false, 0, 0, 0⟩,
    .pk8 ⟨1, 1, 2, 0, 0, 0, false, false, 0, 0, 1⟩] : List Instr).all (fun i => !i.wf) = true := by decide

/-- Refused as ill formed: 02 R63, 05 R161 to R163. -/
theorem test_ill_formed_pe_tokens : ([
    .cvt ⟨1, 1, 0, 8, 0, 0, false, false, 0, 0, 0⟩,
    .accs ⟨1, 1, 28, 0, 0, 0, false, false, 0, 0, 0⟩,
    .accs ⟨1, 32, 2, 0, 0, 0, false, false, 0, 0, 0⟩,
    .accs ⟨1, 32, 28, 0, 0, 0, false, false, 1, 0, 0⟩,
    .accs ⟨1, 32, 28, 0, 0, 0, false, false, 0, 0, 2⟩,
    .qdrop ⟨12, 32, 0, 0, 0, 0, false, false, 0, 0, 0⟩,
    .qdrop ⟨1, 48, 0, 0, 0, 0, false, false, 0, 0, 0⟩,
    .tkind ⟨1, 1, 0, 0, 0, 0, false, false, 0, 0, 0⟩] : List Instr).all (fun i => !i.wf) = true := by decide

/-- Refused as ill formed: 02 R61. -/
theorem test_ill_formed_row : ([
    .brTok 0 12 0,
    .loopRow 0 0] : List Instr).all (fun i => !i.wf) = true := by decide

/-- Refused as ill formed: 02 R68, R69. -/
theorem test_ill_formed_matrix : ([
    .mma ⟨0, 0, 0, 0, 0, false, false, false, false, 0, 0, 0, 0, 0, 0, 0⟩,
    .mma ⟨0, 0, 0, 0, 6, false, false, false, false, 0, 1, 0, 0, 0, 0, 0⟩,
    .mma ⟨0, 0, 0, 1, 4, false, false, false, false, 0, 1, 0, 0, 0, 0, 0⟩,
    .mma ⟨0, 0, 1, 0, 0, false, false, false, false, 0, 1, 0, 0, 0, 0, 0⟩,
    .mzero ⟨1, 0, 0, 0, 0, false, false, false, false, 0, 0, 0, 0, 0, 0, 0⟩,
    .mload ⟨0, 0, 0, 0, 2, false, false, false, false, 0, 0, 0, 0, 0, 0, 0⟩,
    .mload ⟨0, 1, 0, 0, 3, false, false, false, false, 0, 0, 0, 0, 0, 0, 0⟩,
    .mdrain ⟨1, 0, 0, 0, 0, false, false, false, false, 0, 0, 0, 0, 0, 0, 0⟩,
    .simmer ⟨0, 0, 0, 0, 0, false, false, false, false, 0, 0, 0, 1, 1, 0, 0⟩,
    .simmer ⟨0, 0, 0, 0, 0, false, false, false, false, 0, 0, 1, 1, 0, 0, 0⟩,
    .simmer ⟨0, 0, 0, 0, 0, false, false, false, false, 0, 0, 1, 0, 1, 0, 0⟩,
    .simmer ⟨0, 0, 0, 0, 0, true, false, false, false, 0, 0, 1, 1, 1, 0, 0⟩] : List Instr).all (fun i => !i.wf) = true := by decide

/-! ## Where a line lies -/

/-- The example of 10 R333. -/
theorem test_hbm_place : hbmPlace 0x0040_4000_2340 = ⟨2, 1, 25, 0, 2, 0, 512, 1⟩ := by decide

/-- The example of 10 R333: slice 205, beside core 13 of cluster 3 of die 2. -/
theorem test_home_slice : homeSlice 0x0040_4000_2340 = 205 ∧ homeCore 0x0040_4000_2340 = 0x4CD := by decide

/-- From the formula of 10 R334, by hand: bits 13:8, 21:16 and 29:24 of the offset hold 1, 2 and 4. -/
theorem test_lpddr_place : lpddrPlace 0x0100_0402_0100 = (7, 0x100800) := by decide

/-! ## States that meet the hypotheses of the statements -/

section
set_option Elab.async false

/-- A thread of task 1 on core 0 at address 0x1000, with these registers. -/
def demoThread (regs : Tab Word) : Thread := { life := .running, task := 1, regs, pc := 0x1000 }
def demo (regs : Tab Word) : State := { threads := [(0, demoThread regs)] }
/-- The same as a service thread in physical mode, and as a helper thread. -/
def demoService (regs : Tab Word) : State :=
  { cur := { m := 0x1000 }, threads := [(0x8000, { demoThread regs with svc := true })] }
/-- Job 0 with a page table whose only leaf maps page 0x5000 to frame 7 without execute permission: the job entry at 0, the
levels at 2 MiB, 3 MiB, and so on. -/
def demoPages : State :=
  (((((demo []).writeDword 0 0x200001).writeDword 0x200000 0x300001).writeDword 0x300000 0x301001).writeDword
    0x301000 0x302001).writeDword 0x302028 (0xFF * 2 ^ 48 + 7 * 2 ^ 12 + 0x867)
def okAnd {ε α : Type} (x : Except ε α) (p : α → Bool) : Bool := match x with | .ok a => p a | .error _ => false
def errIs {ε α : Type} (x : Except ε α) (p : ε → Bool) : Bool := match x with | .ok _ => false | .error e => p e
/-- The locations of `n` bytes at physical address 0x1000. -/
def at1000 (n : Nat) : List Loc := (List.range n).map (fun k => .mem (0x1000 + k))
/-- The cells of dwords at rising addresses, the zero bytes left out. -/
def cellsOf (l : List (Nat × Nat)) : List Host.Cell :=
  l.flatMap (fun e => (List.range 8).filterMap (fun k =>
    let b := BitVec.ofNat 8 (e.2 / 256 ^ k)
    if b = 0 then none else some (e.1 + k, b)))
/-- A service thread, and job 0 with its tables, each in a page of its own so that no cached translation is chosen: a pool
entry at 0x9000 with one block free of four, its stack at 0xA100, the granule map at 0xB200, one endpoint at 0x5FC0 and one
storage queue at 0x7FC0; page p maps to frame p + 2. Entry 1 of each target's access table admits the hub's masters. -/
def demoHub (regs : Tab Word) : State :=
  let leaf (p : Nat) : Nat × Nat := (0x302000 + 8 * p, 0xFF * 2 ^ 48 + (p + 2) * 2 ^ 12 + 0x867)
  { demoService regs with
    mem := cellsOf ([(0, 0x200001), (8, 0x9000), (16, 0xB200), (32, 0x200000), (40, 0x5FC0), (48, 0x7FC0), (56, 0x5500),
      (0x7FC0, 1), (0x8000, 2 ^ 63 + 2 ^ 32 + 9), (0x9FC0, 1), (0xA000, 2 ^ 63 + 63 * 2 ^ 32 + 63 * 2 ^ 16 + 1), (0xA008, 0x1000),
      (0xA010, 0x1004), (0xB000, 0xA100), (0xB008, 4 * 2 ^ 32 + 1), (0xC100, 0xABC0), (0xD200, 0x80),
      (0x200000, 0x300001), (0x300000, 0x301001), (0x301000, 0x302001)] ++ (List.range' 5 8).map leaf)
    acc := [(64 * 0x10 + 1, ⟨0xFFFFFFFF, 0, true, true, true, 0x1FFF, 0⟩)] }

/-! EncodeThenDecodeAccess -/

theorem witness_EncodeThenDecodeAccess :
    (Instr.add 3 4 5).wf = true ∧ encode (.add 3 4 5) = some 0x10C414000000000 := by decide

/-! EncodeThenDecodeExecute -/

theorem witness_EncodeThenDecodeExecute :
    (Instr.mstat).wf = true ∧ encodeMatrix .mstat = some (0x6#192 <<< 188) ∧ encodePe .nop = some 0 ∧
    (Instr.nop).wf = true ∧ (Instr.jmp 3).wf = true ∧ (encodeRowControl true 7 (.jmp 3)).isSome = true := by decide

/-! DecodeThenEncode -/

theorem witness_DecodeThenEncode : okOf (decode 0x10C414000000000) = some (.add 3 4 5) := by decide

/-! IntegerResults -/

theorem witness_IntegerResults : (demo [(1, 0x8000000000000000), (2, 7), (3, 0)]).readable [1, 2, 3] ∧
    (demo [(1, 0x8000000000000000)]).rx 1 = 0x8000000000000000 ∧
    ((demo [(1, 0x8000000000000000)]).rx 1).getLsbD 63 = true := by decide
/-- The counts' and reversals' clauses at their boundaries: no bit set, and the highest bit. -/
theorem witness_IntegerResults_counts :
    (∀ k < 64, ((demo []).rx 1).getLsbD (63 - k) = false) ∧ (∀ k < 64, ((demo []).rx 1).getLsbD k = false) ∧
    ((demo [(1, 0x8000000000000000)]).rx 1).getLsbD (63 - 0) = true ∧ ((demo [(1, 1)]).rx 1).getLsbD 0 = true ∧
    (∀ k < 64, (1#64).getLsbD k = ((demo [(1, 0x8000000000000000)]).rx 1).getLsbD (63 - k)) ∧
    (∀ k < 8, (0x80#64).toNat / 256 ^ k % 256 =
      ((demo [(1, 0x8000000000000000)]).rx 1).toNat / 256 ^ (7 - k) % 256) ∧
    (∀ k < 64, (1#64).getLsbD ((k + 1) % 64) = ((demo [(1, 0x8000000000000000)]).rx 1).getLsbD k) ∧
    (∀ k < 64, (0x8000000000000000#64).getLsbD k = ((demo [(1, 1)]).rx 1).getLsbD ((k + 1) % 64)) := by decide

/-! DivisionResults -/

theorem witness_DivisionResults : (demo [(1, 0x8000000000000000), (2, 0xFFFFFFFFFFFFFFFF)]).readable [1, 2] ∧
    ((demo [(1, 0x8000000000000000)]).rx 1).toInt = -2 ^ 63 ∧ ((demo []).rx 2).toInt = 0 ∧
    ((demo [(2, 0xFFFFFFFFFFFFFFFF)]).rx 2).toInt = -1 := by decide

/-! FieldResults -/

theorem witness_FieldResults : (demo [(1, 0xABCD00), (2, 8), (3, 11)]).readable [1, 2, 3] ∧
    (demo [(1, 0xABCD00), (2, 8), (3, 11)]).readable [5] := by decide
/-- A field of one bit at the top, and one that passes the register's end. -/
theorem witness_FieldResults_insert :
    (∀ k < 64, (0x8000000000000000#64).getLsbD k =
      if 63 ≤ k ∧ k < 63 + 1 then ((demo [(1, 3)]).rx 1).getLsbD (k - 63) else ((demo []).rx 5).getLsbD k) := by decide

/-! ImmediateResults -/

theorem witness_ImmediateResults : (demo [(1, 5)]).readable [1] ∧ (demo [(1, 5), (2, 9)]).readable [1, 2] ∧ (63#32).toNat < 64 ∧
    okOf (decode 0x151410000000003F) = some (.slli 5 1 63) ∧
    okOf (decode 0x1E14600000000B08) = some (.bfxui 5 6 0xB08) := by decide

/-! ControlTransfers -/

/-- Taken and canonical, not taken, and taken to a target that is not canonical. -/
theorem witness_ControlTransfers : (demo [(1, 1), (2, 0)]).readable [1, 2] ∧
    canonical (wrap64 ((demo []).me.pc.toNat + 8 * (0xFFFFFFFF#32).toInt)) = true ∧
    ((demo [(1, 1), (2, 0)]).rx 1 != (demo [(1, 1), (2, 0)]).rx 2) = true ∧
    canonical (wrap64 ((0x00FFFFFFFFFFFFF8#64).toNat + 8 * (1#32).toInt)) = false := by decide
theorem witness_ControlTransfers_jumps : (demo [(11, 5)]).readable [11] ∧ (demo [(11, 5)]).rx 11 - 1 ≠ 0 ∧
    (demo [(11, 1)]).rx 11 - 1 = 0 ∧ (demo [(11, 1)]).readable [11] ∧
    canonical (wrap64 ((demo [(11, 5)]).me.pc.toNat + 8 * (0xFFFFFFFF#32).toInt)) = true ∧
    canonical (wrap64 ((0x00FFFFFFFFFFFFF8#64).toNat + 8 * (1#32).toInt)) = false := by decide
theorem witness_ControlTransfers_jalr : (demo [(31, 0x2000)]).readable [31] ∧
    (wrap64 (((demo [(31, 0x2000)]).rx 31).toInt + (0#32).toInt)).toNat % 8 = 0 ∧
    canonical (wrap64 (((demo [(31, 0x2000)]).rx 31).toInt + (0#32).toInt)) = true ∧
    (wrap64 (((demo [(31, 0x2000)]).rx 31).toInt + (1#32).toInt)).toNat % 8 ≠ 0 ∧
    canonical (wrap64 (((demo [(31, 0x100000000000000)]).rx 31).toInt + (0#32).toInt)) = false := by decide

/-! FaultRoutes -/

/-- A task thread with a trap vector, one without, and a service thread outside and inside a trap. -/
theorem witness_FaultRoutes :
    let s : State := { demo [] with tasks := [(1, { trapvec := 0x2000 })] }
    (s.me.life = .running ∧ s.me.held = none ∧ s.me.parked = none ∧ s.me.svc = false ∧ (s.taskOf s.me.task).trapvec ≠ 0 ∧
      s.me.intrap = false) ∧ ((demo []).taskOf (demo []).me.task).trapvec = 0 ∧
    ((demoService []).me.svc = true ∧ (demoService []).me.life = .running ∧ (demoService []).me.intrap = false) ∧
    (let u := (demoService []).modMe (fun th => { th with intrap := true })
     u.me.svc = true ∧ u.me.intrap = true ∧ u.me.life = .running ∧ u.me.held = none ∧ u.me.parked = none) := by decide

/-! TrapAndReturn -/

theorem witness_TrapAndReturn :
    let s : State := { demo [] with tasks := [(1, { trapvec := 0x2000 })] }
    s.me.life = .running ∧ s.me.held = none ∧ s.me.parked = none ∧ s.me.svc = false ∧
      (s.taskOf s.me.task).trapvec ≠ 0 ∧ s.me.intrap = false := by decide
theorem witness_TrapAndReturn_rte :
    let s := (demo []).modMe (fun th => { th with intrap := true, epc := 0x1008 })
    s.me.intrap = true ∧ s.me.epc.toNat % 8 = 0 ∧ canonical s.me.epc = true ∧ s.me.arrayHandler = false ∧
    s.me.svc = false ∧ s.me.life = .running ∧ s.me.held = none ∧ (demo []).me.intrap = false ∧
    s.struck 0 = false ∧ s.struck 1 = false ∧ (s.modMe (fun th => { th with badWords := [0] })).struck 0 = true ∧
    (s.modMe (fun th => { th with badWords := [1] })).struck 1 = true ∧
    (let u := s.modMe (fun th => { th with arrayHandler := true }); u.me.arrayHandler = true ∧ u.me.intrap = true) ∧
    canonical 0x100000000000000 = false := by decide

/-! StruckRegisterTraps -/

theorem witness_StruckRegisterTraps :
    let s := (demo []).modMe (fun th => { th with badRegs := [2] })
    [1, 2].find? s.struckReg = some 2 ∧ s.me.svc = false ∧ s.me.helper = false ∧
    (let u := s.setCore 0 { queues := [(1, { decl := true })] }
     (u.myCore.queue 1).decl = true ∧ (u.myCore.queue 1).xa = false) := by
  decide

/-! LoadStoreResults -/

/-- A service thread in physical mode, loading and storing at 0x1000. -/
theorem witness_LoadStoreResults :
    let s := demoService [(1, 0x1000), (2, 0x1122334455667788)]
    s.readable [1, 2] ∧ (s.scrubHeld = none) ∧
    ∃ locs base, s.reaches 0x1000 8 needRead false locs base ∧ s.soundSeen locs ∧
      s.reaches 0x1000 8 needWrite false locs base ∧ base.Inv ∧ locs.Nodup ∧ locs.all Loc.plain = true ∧ base.holdsSlots locs := by
  refine ⟨by decide, by decide, at1000 8, demoService [(1, 0x1000), (2, 0x1122334455667788)], ⟨⟨at1000 8, []⟩, ?_⟩, by decide,
    ⟨⟨at1000 8, []⟩, ?_⟩, by decide, by decide, by decide, trivial, trivial⟩ <;>
    exact ⟨by rfl, by decide, by decide, rfl, rfl⟩

/-! AtomicResults -/

theorem witness_AtomicResults :
    let s := demoService [(1, 0x1000), (2, 5), (3, 1)]
    s.readable [1, 2, 3] ∧ s.readable [1, 2] ∧
    ∃ locs base, s.reaches 0x1000 4 needBoth true locs base ∧ s.sound locs ∧ base.Inv ∧ locs.Nodup ∧ locs.all Loc.plain = true ∧ base.holdsSlots locs ∧
      ofBytes (locs.map base.locByte) ≠ (s.rx 3).toNat % 2 ^ 32 ∧ ofBytes (locs.map base.locByte) = (s.rx 4).toNat % 2 ^ 32 := by
  refine ⟨by decide, by decide, at1000 4, demoService [(1, 0x1000), (2, 5), (3, 1)],
    ⟨⟨at1000 4, []⟩, by rfl, by decide, by decide, rfl, rfl⟩, by decide, by decide, by decide, by decide, ⟨trivial, trivial⟩, by decide,
    by decide⟩

/-! AccessChecks -/

/-- Addresses for each clause; the page table of job 0 with one leaf for page 0x400000 stands at 4 MiB. -/
theorem witness_AccessChecks :
    canonical (word ((0x00FFFFFFFFFFFFFC : Nat) + 4)) = false ∧ (∀ k < 4, canonical (word ((0x00FFFFFFFFF00002#64).toNat + k)) = true) ∧
    ((0x00FFFFFFFFF00002#64).toNat % 4 ≠ 0) ∧ (∀ b ∈ [0x00FFFFFFFFF00000, 0x00FFFFFFFFF00001], inLocal b = true) ∧
    (∀ b ∈ [0x00FFFFFFF0100000, 0x00FFFFFFF0100001], inCluster b = true ∧ b / 2 ^ 20 = 0x00FFFFFFF0100000 / 2 ^ 20) ∧
    (∀ b ∈ [0x00FFFFFFF4000000, 0x00FFFFFFF4000001], placeOf b = 3) ∧ placeOf 0x00FFFFFFEFFFFFFF ≠ placeOf 0x00FFFFFFF0000000 ∧
    demoPages.cache = [] ∧ demoPages.walks = [] ∧ demoPages.jobs = [] ∧ demoPages.migrations = [] ∧
    okAnd (walk demoPages 0 0x5000) (fun tr => leafC tr.leaf == false && leafRpkg tr.leaf == 0xFF && tr.level == 3 &&
      leafPfn tr.leaf == 7 && denies { master := 0, job := 0 } needRead tr.leaf == none &&
      denies { master := 0, job := 0 } needFetch tr.leaf == some 6) = true ∧
    errIs (walk demoPages 0 0x6000) (· == 5) = true := by decide

/-! AccessFailures -/

theorem witness_AccessFailures :
    (demo [(1, 0x00FFFFFFFFFFFFFF)]).readable [1, 2, 3, 4] ∧
    errIs (checkAccess (demo []) (demo []).agent 0x00FFFFFFFFFFFFFF 4 needRead false)
      (· == .trap 0x03 0x00FFFFFFFFFFFFFF) = true ∧
    errIs (checkAccess (demoService []) (demoService []).agent 0x1800000000 8 needRead false)
      (· == .denied 0x10 0x1800000) = true ∧
    okAnd (checkAccess { demoService [] with poison := [0x80] } (demoService []).agent 0x1000 8 needRead false)
      (fun acc => acc.poisoned { demoService [] with poison := [0x80] } false && acc.far.isNone) = true ∧
    okAnd (checkVirtual { demo [] with tasks := [(1, { life := .live })] }
      ({ demo [] with tasks := [(1, { life := .live })] } : State).agent 0x00FFFFFFFFF00010 1 needRead false)
      (fun acc => acc.pages == []) = true := by decide

/-! LinePrefetchFence -/

theorem witness_LinePrefetchFence : (demoService [(1, 0x1000)]).readable [1] ∧
    okAnd (checkAccess (demoService [(1, 0x1000)]) (demoService [(1, 0x1000)]).agent 0x1000 1 needRead false)
      (fun acc => acc.far.isNone) = true := by decide
/-- A page of job 0 whose leaf names package 3. -/
def demoFar (regs : Tab Word) : State :=
  { (demoPages.writeDword 0x302028 (0x03 * 2 ^ 48 + 7 * 2 ^ 12 + 0x867)).setThr 0 (demoThread regs) with cache := [] }
theorem witness_LinePrefetchFence_far :
    (demoFar [(1, 0x5008)]).readable [1] ∧
    okAnd (checkAccess (demoFar [(1, 0x5008)]) (demoFar [(1, 0x5008)]).agent 0x5008 1 needRead false)
      (fun acc => acc.locs == [.far 3 0x7008]) = true := by decide

/-! TranslationMarks -/

theorem witness_TranslationMarks : demoPages.Inv ∧
    okAnd (checkAccess demoPages { master := 0x1000, job := 0 } 0x5008 8 needRead false)
      (fun acc => acc.pages != [] && acc.pages.all (fun p => p.2.leafAt + 8 ≤ hubBase)) = true := by decide

/-! WaitaResults -/

/-- The dword at 0x1000 is 0: eq against 0 is met, ne is not; a first read and a reread. -/
theorem witness_WaitaResults :
    let s := demoService [(1, 0x1000)]
    let u := s.modMe (fun th => { th with held := some (.waita 4 1 0 true 0) })
    s.readable [1, 0] ∧ u.me.held = some (.waita 4 1 0 true 0) ∧
    (s.hold (.waita 4 1 0 true 0)).reaches (s.rx 1) 8 needRead true (at1000 8) (s.hold (.waita 4 1 0 true 0)) ∧
    (u.hold (.waita 4 1 0 true 0)).reaches (u.rx 1) 8 needRead true (at1000 8) (u.hold (.waita 4 1 0 true 0)) ∧
    (s.hold (.waita 4 1 0 true 0)).soundSeen (at1000 8) ∧ u.readable [1, 0] ∧
    ofBytes ((at1000 8).map (fun l => ((s.hold (.waita 4 1 0 true 0)).seen l).1)) = (s.rx 0).toNat % 2 ^ 64 := by
  refine ⟨by decide, by decide, ⟨⟨at1000 8, []⟩, by rfl, by decide, by decide, rfl, rfl⟩,
    ⟨⟨at1000 8, []⟩, by rfl, by decide, by decide, rfl, rfl⟩, by decide, by decide, by decide⟩

/-! BarrierResults -/

/-- A bar of one participant on a zero dword, one of three, and a bar held in generation 1 that reads generation 0. -/
theorem witness_BarrierResults :
    let s := demoService [(1, 0x1000), (2, 3)]
    let i : Instr := .bar 1 2 .group
    let u := s.modMe (fun th => { th with held := some i, gen := some (1, 0x1000) })
    let o := s.modMe (fun th => { th with gen := some (2 ^ 32 + 1, 0x1000) })
    (s.hold i).sound (at1000 8) ∧ (s.hold i).Inv ∧ (at1000 8).Nodup ∧ (at1000 8).all Loc.plain = true ∧ s.readable [1, 2] ∧
    (s.hold i).holdsSlots (at1000 8) ∧ s.me.theGen = none ∧ u.readable [1, 2] ∧ (s.hold i).reaches (s.rx 1) 8 needBoth true (at1000 8) (s.hold i) ∧
    ofBytes ((at1000 8).map (s.hold i).locByte) % 2 ^ 32 + 1 < (s.rx 2).toNat % 2 ^ 32 ∧ (s.rx 0).toNat % 2 ^ 32 = 0 ∧
    u.me.theGen = some (1, u.me.pc) ∧ u.me.held = some i ∧ (u.hold i).reaches (u.rx 1) 8 needBoth true (at1000 8) (u.hold i) ∧
    o.me.theGen = some (2 ^ 32 + 1, o.me.pc) ∧ 2 ^ 32 ≤ 2 ^ 32 + 1 ∧ (o.hold i).reaches (o.rx 1) 8 needWrite true (at1000 8) (o.hold i) := by
  refine ⟨by decide, by decide, by decide, by decide, by decide, ⟨trivial, trivial⟩, by decide, by decide,
    ⟨⟨at1000 8, []⟩, by rfl, by decide, by decide, rfl, rfl⟩, by decide, by decide, by decide, by decide, ⟨⟨at1000 8, []⟩, by rfl, by decide, by decide, rfl, rfl⟩,
    by decide, by decide, ⟨⟨at1000 8, []⟩, by rfl, by decide, by decide, rfl, rfl⟩⟩

/-! EventResults -/

/-- A thread of a launch of one role on core 0 that names itself, with one event queued and one on its way. -/
def demoEvents (events : List Event) : State :=
  { threads := [(0, { demoThread [(1, 0)] with events, task := 0x1000 })], tasks := [(0x1000, { lid := 0x1000, life := .live })],
    launches := [(0x1000, { img := { groupsz := 1 }, bind := [(0, 1)] })], evFlight := [⟨7, ⟨1, 2⟩, 0x1000, 0, 0x1000, 0, 0, false⟩] }
theorem witness_EventResults :
    let s := demoEvents [⟨9, 0x40⟩]
    s.me.svc = false ∧ s.me.events = ⟨9, 0x40⟩ :: [] ∧ (demoEvents []).me.events = [] ∧ s.readable [1, 2, 3] ∧
    (s.rx 1).toNat % 4096 < (s.launchOf 0x1000).img.groupsz ∧ s.bound 0x1000 0 = some 0 ∧ s.isLive 0 = true ∧
    handleLid (s.thr 0).task = 0x1000 ∧ (s.thr 0).events.length + s.eventsTo 0 < 16 ∧
    16 ≤ ((demoEvents (List.replicate 15 ⟨0, 0⟩)).thr 0).events.length + (demoEvents (List.replicate 15 ⟨0, 0⟩)).eventsTo 0 ∧
    s.evFlight[0]? = some ⟨7, ⟨1, 2⟩, 0x1000, 0, 0x1000, 0, 0, false⟩ ∧ s.keyOf 0x1000 0 = some 0 ∧ (demo [(1, 1)]).bound 0 1 = none ∧
    (demoService []).me.svc = true := by decide

/-! QueuePushes -/

/-- A home thread with ax queue 1 of capacity 2 and xa queue 2 of capacity 2, holding `n` entries each. -/
def demoQueues (n : Nat) (task : Task) (th : Thread) : State :=
  { threads := [(0, th)], tasks := [(1, task)],
    cores := [(0, { queues := [(1, { decl := true, cap := 2, entries := List.replicate n ⟨⟨3, false, 7⟩, 0, 0⟩ }),
      (2, { decl := true, xa := true, cap := 2, entries := List.replicate n ⟨⟨3, false, 7⟩, 0, 0⟩ })] })] }
theorem witness_QueuePushes :
    let th := demoThread [(1, 5)]
    let s := demoQueues 1 {} th
    let full := demoQueues 2 {} th
    let arms := demoQueues 2 { trapen := 1, trapvec := 0x2000 } th
    let held := demoQueues 1 {} { th with held := some (.qpush 1 3 1) }
    let heldImm := demoQueues 1 {} { th with held := some (.qpushi 9 3 1) }
    s.me.svc = false ∧ s.me.helper = false ∧ s.readable [1] ∧ (s.myCore.queue 1).decl = true ∧ (s.myCore.queue 1).xa = false ∧
    (s.myCore.queue 1).taken < (s.myCore.queue 1).cap ∧ (s.myCore.queue 0).decl = false ∧ (s.myCore.queue 2).xa = true ∧
    (full.myCore.queue 1).cap ≤ (full.myCore.queue 1).taken ∧ ((full.taskOf 1).trapen = 0) ∧
    bit (arms.taskOf 1).trapen 0 = true ∧ (arms.taskOf 1).trapvec ≠ 0 ∧
    (arms.taskOf 1).trapen.toNat / 2 ^ 16 % 2 ^ 16 ≤ arms.me.qfullcnt.toNat ∧ held.me.held = some (.qpush 1 3 1) ∧
    heldImm.me.held = some (.qpushi 9 3 1) ∧ (demoService []).me.svc = true := by decide

/-! QueuePops -/

theorem witness_QueuePops :
    let th := demoThread []
    let s := demoQueues 1 {} th
    let none_ := demoQueues 0 {} th
    let arms := demoQueues 0 { trapen := 2, trapvec := 0x2000 } th
    let held := demoQueues 1 {} { th with held := some (.qpop 5 6 2) }
    let bq : State := { s with cores := [(0, { bq := [(0, 0xBEEF)] })] }
    let bqHeld := bq.modMe (fun th => { th with held := some (.bqpop 5) })
    let sick : State := { s with cores := [(0, { queues := [(2, { decl := true, xa := true, cap := 2, entries :=
      [⟨⟨3, true, 7⟩, 0, 0⟩] })] })] }
    s.me.svc = false ∧ s.me.helper = false ∧ (s.myCore.queue 2).decl = true ∧ (s.myCore.queue 2).xa = true ∧
    s.chained s.me.task 2 = false ∧ (s.myCore.queue 2).head s.cyc = some ⟨⟨3, false, 7⟩, 0, 0⟩ ∧
    (sick.myCore.queue 2).head sick.cyc = some ⟨⟨3, true, 7⟩, 0, 0⟩ ∧ (none_.myCore.queue 2).head none_.cyc = none ∧
    (s.myCore.queue 1).xa = false ∧ (s.myCore.queue 0).decl = false ∧ bit (arms.taskOf 1).trapen 1 = true ∧
    (arms.taskOf 1).trapvec ≠ 0 ∧ (arms.taskOf 1).trapen.toNat / 2 ^ 32 % 2 ^ 16 ≤ arms.me.lodcnt.toNat ∧
    (none_.taskOf 1).trapen = 0 ∧ held.me.held = some (.qpop 5 6 2) ∧ bq.myCore.bq = (0, 0xBEEF) :: [] ∧ s.myCore.bqHead s.cyc = none ∧ Tab.find s.prior s.cur.m = none ∧
    bqHeld.me.held = some (.bqpop 5) := by decide

/-! CopyIssue -/

theorem witness_CopyIssue :
    let e : CopyMod := ⟨.core, false, false, 2⟩
    let s := demo [(10, 0x1000), (11, 0x2000), (12, 9)]
    let held := s.modMe (fun th => { th with held := some (.copy 0 10 11 12 e) })
    let held2 := s.modMe (fun th => { th with held := some (.copy2 0 10 11 12 e) })
    let full := s.modMe (fun th => th.setToken 2 { pend := 2 ^ 48 - 1 })
    let ringed : State := { s with cores := [(0, { rings := [(1, { decl := true, depth := 2, base := 0x1000 })] })] }
    s.readable (copyRegs 0 0 10 11 12) ∧ s.readable (copyRegs 1 0 10 11 12) ∧ s.me.svc = false ∧
    copyCheck s s.agent (copyOf s 0 0 10 11 12 0 e) = none ∧ copyCheck s s.agent (copyOf s 1 0 10 11 12 0 e) = none ∧
    copyCheck ringed ringed.agent (copyOf ringed 2 0 10 11 12 1 e) = none ∧
    copyCheck ringed ringed.agent (copyOf ringed 3 0 10 11 12 1 e) = none ∧
    ((ringed.core (ringed.taskOf ringed.me.task).core).ring 1).decl = true ∧
    ((s.core (s.taskOf s.me.task).core).ring 1).decl = false ∧
    ((s.myCore.copies.filter (fun x => !x.taken)).length < 32 ∧ s.unfinished s.me.task < 64 ∧ (s.me.token 2).pend + 9 < 2 ^ 48) ∧
    ¬((full.me.token 2).pend + 9 < 2 ^ 48) ∧ held.me.held = some (.copy 0 10 11 12 e) ∧
    held2.me.held = some (.copy2 0 10 11 12 e) := by decide
theorem witness_CopyIssue_checks :
    let e : CopyMod := ⟨.core, false, false, 2⟩
    let far := demo [(10, 0x00FFFFFFFFFFFFF0), (11, 0x2000), (12, 0x20), (13, 2)]
    let held2 := far.modMe (fun th => { th with held := some (.copyr 0 10 11 12 1 e) })
    let held3 := far.modMe (fun th => { th with held := some (.copyrg 0 10 11 12 1 e) })
    (2 ^ 56 < (far.rx 10).toNat + 0x20 ∧ (far.rx 10).toNat < 0xFF * 2 ^ 56) ∧ (far.rx 13).toNat % 4 ≠ 0 ∧
    2 ^ 40 ≤ ((demo [(12, 0x10000000000)]).rx 12).toNat ∧ held2.me.held = some (.copyr 0 10 11 12 1 e) ∧
    held3.me.held = some (.copyrg 0 10 11 12 1 e) ∧ (demoService []).me.svc = true ∧
    copyCheck far far.agent (copyOf far 0 0 10 11 12 0 e) = some (0x15, 0x00FFFFFFFFFFFFF0) := by decide

/-! CopyChunkResults -/

/-- A service core's copy of 4 bytes from 0x1000 to 0x2000, with all of it left, and one with nothing left. -/
def demoCopy (left : List (Nat × Nat)) : Copy :=
  { id := 5, thr := 0x8000, task := 0, func := 0, a := 0x2000, b := 0x1000, d := 0, c0 := 4, c1 := 0, c2 := 0, c3 := 0, scope := .core,
    flag := false, crc := false, ring := 0, token := 2, seq := 0, left }
def demoEngine (left : List (Nat × Nat)) : State :=
  { demoService [] with cores := [(0x1000, { copies := [demoCopy left] })] }
theorem witness_CopyChunkResults :
    let s := demoEngine [(0, 4)]
    let c := demoCopy [(0, 4)]
    (s.core 0x1000).copyById 5 = some c ∧ s.frozen.contains 0x1000 = false ∧
    ((demoEngine []).core 0x1000).copyById 5 = some (demoCopy []) ∧ (demoCopy []).left = [] ∧ (demoCopy []).flag = false ∧
    c.left.find? (fun p => p.1 ≤ 0 && 0 < p.2) = some (0, 4) ∧ c.far = [] ∧ c.odd = [] ∧
    c.away.any (fun a => a.1 == 0) = false ∧ c.finishes s 0x1000 = false ∧ c.stranded s = false ∧ c.stopped = false ∧
    (∀ l, s.slotsHeld 0 0 (.mem 0x2000 :: l)) ∧ c.func ≤ 1 ∧
    (let taken := s.modCore 0x1000 (fun x => x.modCopy 5 (fun c => { c with taken := true }))
     let ag := copyAgent taken c
     let ring := copyRing taken c
     chunkAround taken c (ring.slotAt ((ring.tail + slotOrder (taken.core 0x1000) c) % ring.depth)) 0 0 4 = (0, 4) ∧ s.Inv ∧ taken.Inv ∧
     (∀ i < 4, c.overlaps (c.dstAddr (0 + i)) = false) ∧
     okAnd (checkAccess taken ag (c.srcAddr 0) 4 needRead false) (fun acc => acc.far.isNone && acc.pages == []) = true ∧
     okAnd (checkAccess taken ag (c.dstAddr 0) 4 needWrite false)
       (fun acc => acc.far.isNone && acc.pages == [] && acc.locs.all Loc.plain && acc.locs.eraseDups == acc.locs &&
         acc.locs.all (fun l => !((c.sourceRuns taken).any (l.inRun ·)))) = true ∧
     errIs (checkAccess taken ag (0x100000000000 : Word) 4 needRead false) (fun e => match e with | .trap _ _ => true | _ => false) =
       true) := by
  refine ⟨by decide, by decide, by decide, by decide, by decide, by decide, by decide, by decide, by decide, by decide, by decide, by decide,
    fun _ => trivial, by decide, by decide⟩
/-- A finished copy with a flag word in its core's scratchpad, which an access table entry opens to the core. -/
theorem witness_CopyChunkResults_flag :
    let c : Copy := { demoCopy [] with thr := 0, task := 1, flag := true, d := 0x00FFFFFFFFF01000 }
    let s : State := { demo [] with
      cores := [(0, { copies := [c] })], tasks := [(1, { life := .live })], acc := [(64 * 0x1000 + 1, ⟨0xFF, 0, true, true, true, 0, 0⟩)] }
    let taken := s.modCore 0 (fun x => x.modCopy 5 (fun c => { c with taken := true }))
    (s.core 0).copyById 5 = some c ∧ s.frozen.contains 0 = false ∧ c.left = [] ∧ c.flag = true ∧
    flagLoc taken (copyAgent taken c) c.d = some (.scr 0 0x1000) ∧ denied taken 0 true true (.scr 0 0x1000) = none ∧ s.Inv ∧
    s.slotsHeld c.task c.slot ((List.range 4).map (fun i => .scr 0 (0x1000 + i))) := by
  refine ⟨by decide, by decide, by decide, by decide, by decide, by decide, by decide, fun e he => by cases he⟩
/-- A slot copy of two rows of 4 bytes at 0x5000 with the scales at 0x6000, into ring 1 of the task on core 0, which has a free slot. -/
def demoSlotCopy (func : Nat) (list : Tab Nat) (left : List (Nat × Nat)) : Copy :=
  { id := 5, thr := 0, task := 1, func, a := if func = 2 then 0x21 else 0x5000, b := if func = 2 then 0x5000 else 0x7FC0, d := 0, c0 := 4,
    c1 := 4 * 2 ^ 32 + 2, c2 := 0, c3 := 0x6000, scope := .core, flag := false, crc := false, ring := 1, token := 2, seq := 0, list, left }
def demoSlot (full : Nat) (c : Copy) : State :=
  { demoHub [] with
    tasks := [(1, { life := .live })]
    cores := [(0, { home := 1, rings := [(1, { decl := true, depth := 2, base := 0x1000, count := full })], copies := [c] })] }
theorem witness_CopyChunkResults_slot :
    let whole := [(0, 4352)]
    let l (n off : Nat) : List Loc := (List.range n).map (fun o => tileLoc 0 0x1000 4096 (off + o))
    let ready (k : Nat) (c : Copy) (ch : Nat × Nat) : Bool :=
      let s := demoSlot 0 c
      let taken := s.modCore 0 (fun x => x.modCopy 5 (fun c => { c with taken := true }))
      (s.core 0).copyById 5 == some c && !(s.frozen.contains 0) && !(c.finishes s 0) && c.far == [] && c.odd == [] && c.away == [] &&
      !(c.stranded s) && !c.stopped && copyFits taken 0 c && c.got == [] &&
      (match c.left.find? (fun p => p.1 ≤ k && k < p.2) with
       | some p => chunkAround taken c 0x1000 k p.1 p.2 == ch
       | none => false) &&
      (copyRing taken c).slotAt (((copyRing taken c).tail + slotOrder (taken.core 0) c) % 2) == 0x1000 && slotOrder (taken.core 0) c == 0 &&
      decide s.Inv &&
      (l (ch.2 - ch.1) ch.1).all (fun l => !((c.sourceRuns (takeSlot taken 0 c 0x1000)).any (l.inRun ·)))
    let reads (c : Copy) (ea : Word) (n : Nat) (v : Nat) : Bool :=
      let s := takeSlot ((demoSlot 0 c).modCore 0 (fun x => x.modCopy 5 (fun c => { c with taken := true }))) 0 c 0x1000
      okAnd (checkAccess s (copyAgent s c) ea n needRead false) (fun acc => acc.far.isNone && ofBytes (acc.locs.map (fun l => (s.seen l).1)) == v)
    let c := demoSlotCopy 2 [] whole
    let g := demoSlotCopy 3 [] whole
    let g' := demoSlotCopy 3 [(0, 0)] whole
    -- a row of the tensor, one outside it, the descriptor and the scales
    ready 2 c (0, 64) = true ∧ c.sourceOf 0 = some (0x5000, 0) ∧ c.cols 64 = (0, 4) ∧ spanBad 0x5000 4 = false ∧
    ready 128 c (128, 192) = true ∧ c.sourceOf 2 = none ∧
    ready 4096 (demoSlotCopy 2 [] [(4096, 4160)]) (4096, 4160) = true ∧ ready 4160 c (4160, 4224) = true ∧ reads c 0x6000 64 (2 ^ 63 + 2 ^ 32 + 9) = true ∧
    ready 4224 c (4224, 4352) = true ∧
    -- of a copyrg: a row whose index is not known, one whose index is, and the descriptor
    ready 2 g (0, 64) = true ∧ Tab.find g.list 0 = none ∧ reads g (0x7FC0 + 8) 4 0 = true ∧ ready 2 g' (0, 64) = true ∧
    g'.sourceOf 0 = some (0x5000, 0) ∧ ready 4096 (demoSlotCopy 3 [] [(4096, 4160)]) (4096, 4160) = true ∧ reads g 0x7FC0 8 1 = true ∧
    reads g 0x5000 8 0 = true ∧
    copyFits (demoSlot 2 c) 0 c = false := by decide +kernel

/-! ChunkGeometry -/

theorem witness_ChunkGeometry : (demoCopy []).func ≤ 1 ∧ 0 < (demoCopy []).rowBytes ∧ (demoCopy []).rowBytes < 2 ^ 40 := by decide

/-! TokenInstructions -/

theorem witness_TokenInstructions : ((demo []).me.token 2).pend = 0 ∧
    ((((demo []).modMe (fun th => th.setToken 2 { pend := 9 })).me).token 2).pend = 9 := by decide

/-! StreamSetup -/

def demoStream (x : Stream) : State :=
  { demo [(1, 5)] with cores := [(0, { streams := [(3, x)], queues := [(1, { decl := true, cap := 2 }),
      (2, { decl := true, xa := true, cap := 2 })] })] }
theorem witness_StreamSetup :
    let s := demoStream streamReset
    let r := demoStream { streamReset with state := .running }
    let w := demoStream { streamReset with state := .stopped }
    let h := s.modMe (fun th => { th with held := some (.sgoLd 3 1 .d .core) })
    (demoService []).me.svc = true ∧ s.me.svc = false ∧ s.me.helper = false ∧ s.readable [1, 2] ∧
    ¬((s.myCore.stream 3).state = .running ∨ (s.myCore.stream 3).state = .withholding) ∧ (r.myCore.stream 3).state = .running ∧
    (w.myCore.stream 3).state = .stopped ∧ (s.myCore.stream 3).win = false ∧
    ((demoStream { streamReset with win := true }).myCore.stream 3).win = true ∧
    (let v := (demoStream { streamReset with state := .running, store := true, away := some 9 }).myCore.stream 3
     v.store = true ∧ v.away.isSome = true ∧ v.state = .running) ∧ denied h 0 false true (.mem 0x60) = some (0x10, 0) ∧
    s.frozen.contains 0 = false ∧ (s.myCore.queue 1).decl = true ∧ (s.myCore.queue 1).xa = false ∧
    (s.myCore.queue 2).xa = true ∧ s.myCore.lows = [] ∧ (s.myCore.queue 0).decl = false ∧
    (8#8).getLsbD 3 = true ∧ (r.myCore.stream 3).busy = true ∧ h.me.held = some (.sgoLd 3 1 .d .core) ∧ s.Inv ∧
    s.sup.lwmtab * 2 ^ 22 + 32 * (32 * 0 + 3) + 32 ≤ hubBase := by decide

/-! StreamElementResults -/

/-- Unit 3 on core 0 whose element is at local offset 0x1000, which an access table entry opens to the core. -/
def demoElement (x : Stream) : State :=
  { demo [] with tasks := [(1, { life := .live })], acc := [(64 * 0x1000 + 1, ⟨0xFF, 0, true, true, true, 0, 0⟩)],
                 cores := [(0, { home := 1, streams := [(3, x)], queues := [(1, { decl := true, cap := 2 }),
                   (2, { decl := true, xa := true, cap := 2, entries := [⟨⟨0, false, 7⟩, 0, 0⟩, ⟨⟨8, false, 7⟩, 0, 0⟩] })] })] }
theorem witness_StreamElementResults :
    let ld : Stream := { streamReset with base := 0x00FFFFFFFFF01000, q := 1, state := .running }
    let st : Stream := { ld with q := 2, store := true }
    let s := demoElement ld
    let t := demoElement st
    s.frozen.contains 0 = false ∧ ((s.core 0).stream 3).state = .running ∧ ((s.core 0).stream 3).away = none ∧ ((s.core 0).stream 3).got = none ∧
    ((s.core 0).stream 3).stopping = false ∧
    (let b := demoElement { ld with got := some [(7, false)] }; ((b.core 0).stream 3).got = some [(7, false)] ∧
      ((b.core 0).queue 1).taken < ((b.core 0).queue 1).cap) ∧ (s.core 0).lows = [] ∧ t.headSent 0 2 = false ∧
    (∀ l, t.slotsHeld 1 0 l) ∧
    okAnd (checkAccess s (unitAgent s 0 0 4) (ld.addr 0) 1 needRead true) (fun acc => acc.far.isNone && acc.locs == [.scr 0 0x1000]) =
      true ∧
    okAnd (checkAccess t (unitAgent t 0 0 4) (st.addr 0) 1 needWrite true)
      (fun acc => acc.far.isNone && acc.pages == [] && !(rwsBreach false needWrite acc)) = true ∧
    errIs (checkAccess s (unitAgent s 0 0 4) 0x1000 1 needRead true) (fun e => match e with | .trap _ _ => true | _ => false) = true ∧
    ((s.core 0).queue 1).taken < ((s.core 0).queue 1).cap ∧
    ((t.core 0).queue 2).cap ≤ ((t.core 0).queue 2).taken ∧
    ((t.core 0).queue 2).head t.cyc = some ⟨⟨0, false, 7⟩, 0, 0⟩ ∧ ((s.core 0).queue 1).head s.cyc = none ∧ s.Inv ∧
    t.sup.lwmtab * 2 ^ 22 + 32 * (32 * 0 + 3) + 32 ≤ hubBase := by
  refine ⟨by decide, by decide, by decide, by decide, by decide, by decide, by decide, by decide, ?_, by decide, by decide, by decide, by decide, by decide,
    by decide, by decide, by decide, by decide⟩
  intro l
  unfold State.slotsHeld
  split
  · intro e he
    have h : ∀ c, ((demoElement { streamReset with base := 0x00FFFFFFFFF01000, q := 2, state := .running, store := true }).core c).rings = [] := by
      intro c
      simp only [State.core, demoElement, Tab.get]
      split <;> rfl
    exact absurd (Eq.mp (congrArg (e ∈ ·) (h _)) he) (List.not_mem_nil)
  · trivial

/-! EngineFaultReports -/

theorem witness_EngineFaultReports :
    let c : Copy := { demoCopy [(0, 4)] with withheld := [⟨0, 5, 0x2000, 0⟩] }
    let s : State := { demoEngine [] with cores := [(0x1000, { copies := [c] })], cyc := 8192 }
    (s.core 0x1000).copyById 5 = some c ∧ c.withheld = [] ++ ⟨0, 5, 0x2000, 0⟩ :: [] ∧ 0 + 8192 ≤ s.cyc ∧ c.far = [] ∧ c.stopped = false ∧
    c.orphan = false ∧ c.away = [] ∧ { c with away := [(4, 8)] }.away ≠ [] := by decide
theorem witness_EngineFaultReports_stream :
    let s : State := { demoStream { streamReset with state := .withholding, cause := 5 } with cyc := 8192 }
    ((s.core 0).stream 3).state = .withholding ∧ ((s.core 0).stream 3).fail + 8192 ≤ s.cyc ∧
    ((s.core 0).stream 3).away = none ∧
    ((demo []).core 0 |>.stream 3).state ≠ .withholding := by decide

/-! AllocResults -/

theorem witness_AllocResults :
    let s := demoHub [(1, 64), (2, 2)]
    s.readable [1, 2] ∧ (s.rx 1).toNat = 64 ∧ (64 ≤ 64 * 2 ^ 0) ∧ okAnd (jobWord s 0 1) (· == 0x9000) = true ∧ s.agent.job = 0 ∧
    s.agent.master = 0x1000 ∧
    okAnd (hubReach (s.keepJob 0 1 0x9000) 0x1000 0 (0x9000 + word ((16 * 0 + 0) * 16)) 16 needBoth) (fun e => e.far.isNone &&
      e.locs.all Loc.plain && e.locs == (List.range 16).map (fun k => Loc.mem (0xB000 + k)) &&
      ofBytes (e.locs.map (hubCommit (s.keepJob 0 1 0x9000) 0x1000 0 needBoth e).locByte) / 2 ^ 64 % 2 ^ 32 == 1 &&
      (hubCommit (s.keepJob 0 1 0x9000) 0x1000 0 needBoth e).memOk &&
      okAnd (hubReach (hubCommit (s.keepJob 0 1 0x9000) 0x1000 0 needBoth e) 0x1000 0 0xA100 8 needBoth) (fun acc => acc.far.isNone)) = true ∧
    ((demoHub []).rx 1).toNat = 0 := by decide +kernel

/-! FreeResults -/

theorem witness_FreeResults :
    let s := demoHub [(1, 0xC040)]
    s.readable [1] ∧ s.agent.job = 0 ∧ s.agent.master = 0x1000 ∧ okAnd (jobWord s 0 2) (· == 0xB200) = true ∧
    okAnd (jobWord s 0 3) (· == 0) = true ∧ okAnd (jobWord s 0 4) (· == 0x200000) = true ∧ (0x200000#64).toNat ≤ (0x200000#64).toNat ∧
    (let s0 := ((s.keepJob 0 2 0xB200).keepJob 0 3 0).keepJob 0 4 0x200000
     okAnd (hubReach s0 0x1000 0 0xB200 1 needRead) (fun g => g.far.isNone &&
      (let s1 := hubCommit s0 0x1000 0 needRead g
       ofBytes (g.locs.map (fun l => (s1.seen l).1)) == 128 &&
       okAnd (checkVirtual s1 (hubAgent 0x1000 0) 0xC040 1 {} false) (fun b => b.locs == [.mem 0xE040]) &&
       placementAt 0xE040 == some 0 && okAnd (jobWord s1 0 1) (· == 0x9000) &&
       okAnd (hubReach (s1.keepJob 0 1 0x9000) 0x1000 0 (0x9000 + word ((16 * 0 + 0) * 16)) 16 needBoth) (fun e => e.far.isNone && e.locs.length == 16 &&
         (let s2 := hubCommit (s1.keepJob 0 1 0x9000) 0x1000 0 needBoth e
          let w := ofBytes (e.locs.map s2.locByte)
          w == 0xA100 + 2 ^ 64 + 4 * 2 ^ 96 &&
          okAnd (hubReach s2 0x1000 0 (0xA100 + word (8 * 1)) 8 needBoth) (fun slot => slot.far.isNone &&
            slot.locs.length == 8 && (slot.locs ++ e.locs).all Loc.plain && (slot.locs ++ e.locs).eraseDups == slot.locs ++ e.locs &&
            (hubCommit s2 0x1000 0 needBoth slot).memOk))))) = true) := by decide +kernel

/-! NetworkIssue -/

theorem witness_NetworkIssue :
    let s := demoHub [(17, 0x5080), (18, 64), (1, 0x5000), (2, 8192), (9, 1)]
    s.readable ((List.range 8).map (regPlus 16)) ∧ s.readable ((List.range 4).map (regPlus 1)) ∧ s.agent.job = 0 ∧
    okAnd (jobWord s 0 5) (· == 0x5FC0) = true ∧ s.outstanding < 64 ∧ Tab.find s.recvRings 0 = none ∧
    bindOk (s.rx 1) 8192 (s.rx 3) = true ∧ bindOk (s.rx 1) 4096 (s.rx 3) = false ∧ (s.rx 4).toNat / 256 = 0 ∧
    nsendStatus true (fun i => s.rx (regPlus 16 i)) = 0 ∧ nsendStatus true (fun i => s.rx (regPlus 40 i)) = 2 ∧
    (∀ e < 8, s.frozen.contains (0x1040 + e) = false ∧ (s.freezeMaster (0x1040 + e)).frozen.contains (0x1040 + e) = true) ∧
    ∀ e < 8, okAnd (hubCheck (s.keepJob 0 5 0x5FC0) (0x1040 + e) 0 0x5FC0 8 needRead) (fun h => h.far.isNone &&
      (let s1 := hubCommit (s.keepJob 0 5 0x5FC0) (0x1040 + e) 0 needRead h
       ofBytes (h.locs.map (fun l => (s1.seen l).1)) == 1 &&
       okAnd (hubCheck s1 (0x1040 + e) 0 (0x5FC0 + word 64) 32 needRead) (fun x => x.far.isNone &&
         endpointOk 1 0 (x.locs.map (fun l => ((hubCommit s1 (0x1040 + e) 0 needRead x).seen l).1))))) = true := by decide +kernel
def demoMsg : Msg :=
  { task := 1, slot := 0x8000, engine := 0, job := 0, rjob := 0, ports := 1, fahi := 0, falo := 0, ring := 0, ep := 0,
    src := 0, len := 1, tag := 0, imm := 0, crec := 0 }
theorem witness_NetworkIssue_rings :
    let s := demoHub [(1, 0x5000), (2, 8192)]
    let x : RecvRing := { base := 0x5000, size := 8192 }
    let bound : State := { s with recvRings := [(0, x)] }
    Tab.find bound.recvRings 0 = some x ∧ x.recs = [] ∧
    (∀ e < 8, okAnd (hubCheck s (0x1040 + e) 0 0x5000 16 needWrite) (fun acc => acc.far.isNone && acc.locs.length == 16 &&
      acc.locs.all Loc.plain && acc.locs.eraseDups == acc.locs && (hubCommit s (0x1040 + e) 0 needWrite acc).memOk) = true) ∧
    (let full : State := { s with msgs := (List.range 64).map (fun i => (i, demoMsg)) }
     64 ≤ full.outstanding) := by
  decide +kernel

/-! StorageDoorbell -/

theorem witness_StorageDoorbell :
    let s := demoHub [(2, 5)]
    s.readable [1, 2] ∧ okAnd (jobWord s 0 6) (· == 0x7FC0) = true ∧ s.agent.job = 0 ∧ s.agent.master = 0x1000 ∧
    okAnd (hubCheck (s.keepJob 0 6 0x7FC0) 0x1000 0 0x7FC0 8 needRead) (fun h => h.far.isNone &&
      (let s1 := hubCommit (s.keepJob 0 6 0x7FC0) 0x1000 0 needRead h
       ofBytes (h.locs.map (fun l => (s1.seen l).1)) == 1 &&
       okAnd (hubCheck s1 0x1000 0 (0x7FC0 + word 64) 64 needRead) (fun e => e.far.isNone &&
         storageOk 1 0 (e.locs.map (fun l => ((hubCommit s1 0x1000 0 needRead e).seen l).1))))) = true ∧
    (s.rx 2).toNat < 64 ∧ (s.rx 1).toNat / 2 ^ 13 = 0 ∧ 1 ≤ ((demoHub [(1, 1)]).rx 1).toNat % 4096 := by decide +kernel

/-! PacketSends -/

/-- A message of 5,000 bytes at 0x5000 of job 0, with its completion record at 0x9000 when `crec` says so. -/
def demoMessage (crec : Word) (flying : Tab Nat) (retx : List Nat) (backTo : Option Nat) : Msg :=
  { demoMsg with ports := 1, src := 0x5000, len := 5000, crec, flying, retx, backTo }
def demoSending (m : Msg) : State := { demoHub [] with msgs := [(3, m)], nextId := 4, cyc := 10 }
theorem witness_PacketSends :
    let m : Msg := { demoMessage 0x9000 [] [0] none with len := 40 }
    let s := demoSending m
    Tab.find s.msgs 3 = some m ∧ (0 < m.packets ∧ 0 ∉ m.acked ∧ m.backTo = none ∧ m.ports.testBit 0 = true ∧ 0 ∉ s.pkg.ethernetOff ∧ Tab.find m.flying 0 = none ∧
      s.frozen.contains 0x1040 = false ∧ s.msgHeld 3 = false) ∧ ¬(2 < m.packets) ∧ 0 ∈ m.retx ∧ m.crec ≠ 0 ∧
    (let bad := { m with src := 0x300000 }
     errIs (hubCheck (demoSending bad) 0x1040 0 (bad.src + word 0) 40 needRead) (fun f => match f with | .trap _ _ => true | _ => false)) ∧
    okAnd (hubCheck s 0x1040 0 (m.src + word (4096 * 0)) 40 needRead) (fun acc => acc.far.isNone &&
      (let s1 := hubCommit s 0x1040 0 needRead acc
       okAnd (hubCheck s1 0x1040 0 (m.crec + 8) 4 needBoth) (fun r => r.far.isNone && r.locs.all Loc.plain && r.locs.eraseDups == r.locs &&
         (hubCommit s1 0x1040 0 needBoth r).memOk))) := by decide +kernel
theorem witness_PacketSends_answers :
    let m := demoMessage 0 [(1, 9)] [] none
    let s := demoSending m
    Tab.find s.msgs 3 = some m ∧ s.frozen.contains 0x1040 = false ∧ (s.freezeMaster 0x1040).frozen.contains 0x1040 = true ∧ Tab.find m.flying 1 = some 9 ∧ m.crec = 0 ∧ m.packets = 2 ∧
    (let w := demoMessage 0x9000 [] [] (some 7)
     Tab.find (demoSending w).msgs 3 = some w ∧ w.backTo = some 7 ∧ 7 ≤ (demoSending w).cyc ∧ w.crec ≠ 0 ∧
     okAnd (hubCheck (demoSending w) 0x1040 0 (w.crec + 12) 4 needBoth) (fun r => r.far.isNone)) := by decide +kernel

/-! PacketArrivals -/

/-- A receive ring at 0x5000 of job 0 (its page maps to frame 7), one message on its way. -/
def demoRing (x : RecvRing) (received : List (Nat × Nat)) : State := { demoHub [] with recvRings := [(0, x)], received }
def demoPacket (len pkt : Nat) : Packet :=
  { engine := 0, src := 4, msg := 5, rjob := 0, ring := 0, sep := 1, tag := 2, imm := 3, len, pkt, data := [1, 2, 3, 4] }
theorem witness_PacketArrivals :
    let x : RecvRing := { base := 0x5000, size := 8192 }
    let s := demoRing x []
    s.frozen.contains 0x1040 = false ∧ (4, 5) ∉ s.received ∧ (4, 5) ∈ (demoRing x [(4, 5)]).received ∧ Tab.find s.recvRings 0 = some x ∧
    Tab.find s.recvRings (256 * 1 + 0) = none ∧
    x.recs.find? (fun y => y.src == 4 && y.msg == 5) = none ∧
    ({ x with recs := [⟨4, 5, 0, [0]⟩] } : RecvRing).recs.find? (fun y => y.src == 4 && y.msg == 5) = some ⟨4, 5, 0, [0]⟩ ∧
    okAnd (hubCheck s 0x1040 0 0x5000 8 needRead) (fun acc => acc.far.isNone &&
      ofBytes (acc.locs.map (fun l => ((hubCommit s 0x1040 0 needRead acc).seen l).1)) == 0) ∧
    okAnd (hubCheck s 0x1040 0 0x5008 4 needWrite) (fun acc => acc.far.isNone && acc.locs.all Loc.plain &&
      acc.locs.eraseDups == acc.locs && (hubCommit s 0x1040 0 needWrite acc).memOk) := by decide +kernel
/-- The example of R271: S = 16,320 and TAIL = 12,480, with HEAD = 8,320 and HEAD = 0. -/
theorem witness_PacketArrivals_rooms :
    let L : Nat := 64 + (4096 + 63) / 64 * 64
    let pos : Nat := 12480 % 16320
    L ≤ 16320 ∧ ¬(L ≤ 16320 - pos ∧ (L : Int) ≤ 16320 - (12480 - 8320)) ∧ Int.ofNat (16320 - pos + L) ≤ 16320 - (12480 - 8320) ∧
    (16320 - (12480 - 0) : Int) < Int.ofNat (16320 - pos + L) ∧ (8192 - 64 < 64 + (2 ^ 24 + 63) / 64 * 64) := by decide
/-- The four writes of a message of one packet pass, HEAD being in the ring's first page. -/
theorem witness_PacketArrivals_places :
    let s := demoRing { base := 0x5000, size := 8192 } []
    okAnd (hubWrites s 0x1040 0 [(0x5008, toBytes 8 128)]) (fun _ => true) = true ∧
    okAnd (hubWrites s 0x1040 0 [(0x9080, [1, 2, 3, 4])]) (fun _ => true) = true := by decide +kernel

/-! GraphStaging -/

/-- A core with a queue into the arrays, a staging of thread 0, and a graph of a scanner that feeds a gather. -/
def demoStaging (x : Staging) (graphs : Tab FGraph) : State :=
  { demo [(10, 0x4000), (12, 3)] with
    cores := [(0, { stagings := [(0, x)], graphs, queues := [(1, { decl := true, xa := true, cap := 4 }), (2, { decl := true, cap := 4 })] })] }
def demoEdge : FEdgeF := ⟨0, 0, 0, 4, 0, 0⟩
def demoNodes : Tab FNode := [(0, ⟨0, 0, 0, 5, 0, 1⟩), (0x40, ⟨4, 0, 0, 0x9000, 8, 3⟩)]
theorem witness_GraphStaging :
    let s := demoStaging { nodes := demoNodes, edges := [demoEdge] } []
    s.me.svc = false ∧ s.me.helper = false ∧ (demoService []).me.svc = true ∧
    (s.myCore.queue 1).decl = true ∧ (s.myCore.queue 1).xa = true ∧ (s.myCore.queue 2).xa = false ∧ (s.myCore.queue 3).decl = false ∧
    s.readable [0, 10, 11, 12] ∧ s.myCore.nodeBusy s.cur.t 0x10 = false ∧
    ((demoStaging {} []).myCore.staging 0).nodes = [] ∧ (s.myCore.staging 0).nodes ≠ [] ∧ (s.myCore.staging 0).overflow = false ∧
    okAnd (stagingCheck s.myCore (s.myCore.staging 0)) (fun _ => true) = true ∧ s.myCore.graphs.length < 16 ∧
    errIs (stagingCheck s.myCore { nodes := demoNodes }) (fun r => r == 2) = true ∧
    (demoNodes.map (·.1)).Pairwise (· < ·) ∧ (∀ n ∈ demoNodes, n.1 = 16 * n.2.utype + n.2.unit ∧ n.2.unit < 16 ∧ n.2.utype ≤ 6) := by decide
/-- A staging for each reason after the first. -/
theorem witness_GraphStaging_reasons :
    let c := (demoStaging {} []).myCore
    let is (r : Nat) (nodes : Tab FNode) (edges : List FEdgeF) : Bool :=
      errIs (stagingCheck c { nodes, edges }) (· == r) && decide ((nodes.map (·.1)).Pairwise (· < ·)) &&
      nodes.all (fun n => n.1 == 16 * n.2.utype + n.2.unit && decide (n.2.unit < 16) && decide (n.2.utype ≤ 6))
    let gathers : Tab FNode := (List.range 5).map (fun i => (0x40 + i, ⟨4, i, 0, 0x9000, 8, 3⟩))
    let link (t i : Nat) (k j : Nat) : FEdgeF := ⟨BitVec.ofNat 4 t, BitVec.ofNat 4 i, 0, BitVec.ofNat 4 k, BitVec.ofNat 4 j, 0⟩
    is 1 demoNodes [link 1 0 4 0] = true ∧ is 2 demoNodes [] = true ∧
    is 3 ((0, ⟨0, 0, 0, 5, 0, 1⟩) :: gathers) ((List.range 5).map (link 0 0 4 ·)) = true ∧
    is 4 [(0, ⟨0, 0, 0, 5, 0, 1⟩), (0x40, ⟨4, 0, 0, 0x9000, 8, 0x80⟩)] [link 0 0 4 0] = true ∧
    is 6 [(0, ⟨0, 0, 0, 5, 0, 1⟩)] [link 0 0 0 0] = true ∧
    is 5 ((List.range 8).map (fun i => (i, ⟨0, i, 0, 5, 0, 1⟩))) ((List.range 7).map (fun i => link 0 i 0 (i + 1))) = true ∧
    is 7 [(0, ⟨0, 0, 2 ^ 40, 5, 0, 1⟩), (0x40, ⟨4, 0, 0, 0x9000, 8, 3⟩)] [demoEdge] = true := by decide +kernel
theorem witness_GraphStaging_busy :
    let g : FGraph := { units := [(0x10, emptyUnit)] }
    let s := demoStaging { edges := List.replicate 48 demoEdge } [(5, g)]
    let full := demoStaging { nodes := demoNodes, edges := [demoEdge] } ((List.range 16).map (fun i => (i, g)))
    s.myCore.nodeBusy s.cur.t 0x10 = true ∧ 48 ≤ (s.myCore.staging 0).edges.length ∧
    (Tab.find s.myCore.graphs 5).isSome = true ∧ Tab.find (s.myCore.staging 0).nodes (srcOf demoEdge) = none ∧
    16 ≤ full.myCore.graphs.length ∧ Tab.find full.myCore.graphs 16 = none ∧
    okAnd (stagingCheck full.myCore (full.myCore.staging 0)) (fun _ => true) = true := by decide

/-! GraphControl -/

theorem witness_GraphControl :
    let f : UFault := { since := 5, cause := 0x06, tval := 0x40, port := 0, retry := true }
    let u : FUnit := { node := ⟨0, 0, 0, 5, 0, 1⟩, fault := some f }
    let s : State := { demoStaging {} [(5, { units := [(0, u)] }), (6, { stopped := true, named := 4096 })] with cyc := 8197 }
    s.me.svc = false ∧ s.me.helper = false ∧ (Tab.find s.myCore.graphs 5).isSome = true ∧ Tab.find s.myCore.graphs 7 = none ∧
    (Tab.find s.myCore.graphs 6).any (·.stopped) = true ∧ (Tab.find s.myCore.graphs 6).any (·.dying) = false ∧ s.me.held = none ∧
    (s.thr (thrKey 0 0)).waiting = [] ∧ u.away = none ∧ { u with away := some 9 }.away.isSome = true ∧ f.since + 8192 ≤ s.cyc ∧ u.released = false := by decide
/-- A graph that `fgo` commits, of a scanner that feeds two gathers: the edge to the first is full and holds the spill, the other is empty. -/
theorem witness_GraphControl_skew :
    let n (i : Nat) : FNode := ⟨4, i, 0, 0x9000, 8, 3⟩
    let nodes : Tab FNode := [(0, ⟨0, 0, 0, 5, 0, 1⟩), (0x40, n 0), (0x41, n 1)]
    let edges : List FEdgeF := [⟨0, 0, 0, 4, 0, 0⟩, ⟨0, 0, 0, 4, 1, 0⟩]
    let u : FUnit := { node := ⟨0, 0, 0, 5, 0, 1⟩, stuck := 1 }
    let f : UFault := { since := 5, cause := 0x06, tval := 0x40, port := 0, retry := true }
    let g : FGraph := { units := [(0, u), (0x40, { node := n 0, fault := some f }), (0x41, { node := n 1, fault := some { f with since := 1048575 } })]
                        edges := [{ e := ⟨0, 0, 0, 4, 0, 0⟩, fifo := List.replicate 128 { tok := {}, ready := 0 } }, { e := ⟨0, 0, 0, 4, 1, 0⟩ }] }
    let s : State := { demoStaging {} [(5, g)] with cyc := 1048576 }
    okAnd (stagingCheck s.myCore { nodes, edges }) (fun _ => true) = true ∧ g.edges.map (·.e) = edges ∧
    g.units.map (fun u => (u.1, u.2.node)) = nodes ∧ (g.units.map (·.1)).Pairwise (· < ·) ∧
    Tab.find s.myCore.graphs 5 = some g ∧ u.stuck + 4096 ≤ s.cyc + 1 ∧ u.stuck ≠ 0 ∧ u.fault = none ∧ u.released = false ∧
    (let fed := g.edges.filter (fun e => srcOf e.e == 0 && e.e.srcPort.toNat == 0)
     fed.length = 2 ∧ fed.any (fun e => e.fifo == []) = true ∧
     120 < (g.edges.map (fun e => e.fifo.length - 8)).sum + (fed.filter (fun e => 8 ≤ e.fifo.length)).length ∧
     fed.any (fun e => 8 ≤ e.fifo.length && e.moved + 4096 ≤ s.cyc) = true) ∧
    f.since + 8192 ≤ s.cyc ∧ s.cyc < 1048575 + 8192 ∧ g.moved + 1048576 ≤ s.cyc := by decide +kernel

/-! ScannerDecisions -/

/-- A scanner of graph 5 that feeds a gather, with a token waiting on its input from a second scanner. -/
def demoScanner (u : FUnit) (h : Tok) : State :=
  let edges : List FEdge := [{ e := ⟨0, 1, 0, 0, 0, 0⟩, fifo := [{ tok := h, ready := 9 }] }, { e := demoEdge }]
  let g : FGraph := { units := [(0, u), (1, { emptyUnit with node := ⟨0, 1, 0, 4, 0, 1⟩ })], edges }
  { demo [] with cyc := 9, cores := [(0, { graphs := [(5, g)] })] }
def demoDecides (s : State) (core gid key : Nat) (h : Tok) : Bool :=
  (s.core core).holder key == some gid && !(s.graph core gid).stopped && !(s.frozen.contains core) &&
    (s.core core).lows == [] && (s.unit core gid key).away == none && (s.unit core gid key).fault == none && headToken s core gid key 0 == some h &&
    !(4 ≤ h.kind.toNat && h.poison) && !(malformedToken (s.unit core gid key) 0 h)
theorem witness_ScannerDecisions :
    let u : FUnit := { node := ⟨0, 0, 0, 3, 0, 1⟩, rank := [(0, 1)] }
    let ref (r : Word) : Tok := ⟨2, false, r⟩
    demoDecides (demoScanner { u with active := true, p := 2, hi := 3, r := 7 } (ref 7)) 0 5 0 (ref 7) ∧
    demoDecides (demoScanner { u with active := true, p := 3, hi := 3 } (ref 7)) 0 5 0 (ref 7) ∧
    demoDecides (demoScanner { u with pending := true } (ref 7)) 0 5 0 (ref 7) ∧
    demoDecides (demoScanner u (ref 7)) 0 5 0 (ref 7) ∧ demoDecides (demoScanner u ⟨2, true, 7⟩) 0 5 0 ⟨2, true, 7⟩ ∧
    demoDecides (demoScanner u ⟨3, false, 0xFFFFFFFF00000001⟩) 0 5 0 ⟨3, false, 0xFFFFFFFF00000001⟩ ∧
    demoDecides (demoScanner { u with prev := [(0, 2)] } ⟨4, false, 0⟩) 0 5 0 ⟨4, false, 0⟩ ∧
    demoDecides (demoScanner { u with prev := [(0, 4)] } ⟨11, false, 0⟩) 0 5 0 ⟨11, false, 0⟩ ∧
    ((demoScanner u (ref 7)).graph 0 5).accepts 0 0 = true ∧
    (let full : FGraph := { edges := [{ e := demoEdge, fifo := List.replicate 8 { tok := {}, ready := 0 } }] }
     full.accepts 0 0 = false) := by decide
/-- A compressed fibre: coordinates at 0x5000, whose page job 0 maps to frame 7. -/
theorem witness_ScannerDecisions_compressed :
    let u : FUnit := { node := ⟨0, 0, 0, 0x5800, 0x5000, 0⟩, rank := [(0, 1)], active := true, p := 2, hi := 3, win := some (0x5000, 0x500B) }
    let h : Tok := ⟨2, false, 7⟩
    let s : State := { demoScanner u h with mem := (demoHub []).mem, acc := [(64 * 0x10 + 1, ⟨0xFFFFFFFF, 0, true, true, true, 0x1FFF, 0⟩)] }
    demoDecides s 0 5 0 h ∧ u.node.c.getLsbD 0 = false ∧ (0x500B : Word) = u.node.b + word (4 * u.hi) - 1 ∧
    (0x5000 : Word).toNat / 4096 = (u.node.b + word (4 * u.p)).toNat / 4096 ∧
    okAnd (checkAccess s (unitAgent s 0 5 16) (u.node.b + word (4 * u.p)) 4 needRead true) (fun a => a.far.isNone) = true ∧
    errIs (checkAccess (demo []) (unitAgent s 0 5 16) (u.node.b + word (4 * u.p)) 4 needRead true)
      (fun f => match f with | .trap _ _ => true | _ => false) = true := by decide +kernel

/-! MergeDecisions -/

/-- A unit of two inputs in graph 5, fed by two queues, that feeds two gathers. -/
def demoMerge (key : Nat) (u : FUnit) (h0 h1 : Tok) : State :=
  let ut := BitVec.ofNat 4 (key / 16)
  let edges : List FEdge := [{ e := ⟨5, 1, 0, ut, 0, 0⟩, fifo := [{ tok := h0, ready := 9 }] },
    { e := ⟨5, 2, 0, ut, 0, 1⟩, fifo := [{ tok := h1, ready := 9 }] }, { e := ⟨ut, 0, 0, 4, 0, 0⟩ }, { e := ⟨ut, 0, 1, 4, 1, 0⟩ }]
  let g : FGraph := { units := [(key, u), (0x51, emptyUnit)], edges }
  { demo [] with cyc := 9, cores := [(0, { graphs := [(5, g)] })] }
def demoMerges (s : State) (key : Nat) (h0 h1 : Tok) : Bool :=
  demoDecides s 0 5 key h0 && headToken s 0 5 key 1 == some h1 && !(4 ≤ h1.kind.toNat && h1.poison) &&
    !(malformedToken (s.unit 0 5 key) 1 h1) && (s.graph 0 5).accepts key 0 && (s.graph 0 5).accepts key 1
theorem witness_MergeDecisions_elements :
    let u : FUnit := { node := ⟨1, 0, 0, 0, 0, 0⟩, rank := [(0, 1), (1, 1)] }
    let w : FUnit := { node := ⟨2, 0, 0, 0, 0, 0⟩, rank := [(0, 1), (1, 1)] }
    let x : Tok := ⟨3, false, 0x200000005⟩
    let y : Tok := ⟨3, false, 0x400000006⟩
    demoMerges (demoMerge 0x10 u x x) 0x10 x x ∧ demoMerges (demoMerge 0x20 w x y) 0x20 x y ∧
    demoMerges (demoMerge 0x20 w y x) 0x20 y x ∧ demoMerges (demoMerge 0x10 u ⟨3, true, 5⟩ x) 0x10 ⟨3, true, 5⟩ x ∧
    demoMerges (demoMerge 0x10 { u with last := [(0, 9)] } x y) 0x10 x y := by decide
theorem witness_MergeDecisions_stops :
    let u : FUnit := { node := ⟨1, 0, 0, 0, 0, 0⟩, rank := [(0, 1), (1, 1)], prev := [(0, 3), (1, 3)] }
    let v : FUnit := { u with rank := [(0, 2), (1, 2)] }
    let d : FUnit := { u with prev := [(0, 4), (1, 4)] }
    let x : Tok := ⟨3, false, 0x200000005⟩
    let stop (k : BitVec 4) : Tok := ⟨k, false, 0⟩
    demoMerges (demoMerge 0x10 u (stop 4) (stop 4)) 0x10 (stop 4) (stop 4) ∧
    demoMerges (demoMerge 0x10 v (stop 4) (stop 5)) 0x10 (stop 4) (stop 5) ∧
    demoMerges (demoMerge 0x10 u x (stop 4)) 0x10 x (stop 4) ∧ demoMerges (demoMerge 0x10 u (stop 4) x) 0x10 (stop 4) x ∧
    demoMerges (demoMerge 0x10 d (stop 11) (stop 11)) 0x10 (stop 11) (stop 11) ∧
    demoMerges (demoMerge 0x10 { u with prev := [(0, 4), (1, 3)] } (stop 11) x) 0x10 (stop 11) x ∧
    demoMerges (demoMerge 0x10 u x ⟨3, true, 5⟩) 0x10 x ⟨3, true, 5⟩ ∧
    demoMerges (demoMerge 0x10 { u with last := [(1, 9)] } x x) 0x10 x x := by decide
theorem witness_MergeDecisions_repeater :
    let u : FUnit := { node := ⟨3, 0, 0, 0, 0, 0⟩, rank := [(0, 1), (1, 2)], prev := [(0, 3), (1, 3)] }
    let d : FUnit := { u with prev := [(0, 4), (1, 5)] }
    let x : Tok := ⟨3, false, 0x200000005⟩
    let stop (k : BitVec 4) : Tok := ⟨k, false, 0⟩
    demoMerges (demoMerge 0x30 u x x) 0x30 x x ∧ demoMerges (demoMerge 0x30 { u with have_ := true } x x) 0x30 x x ∧
    demoMerges (demoMerge 0x30 { u with have_ := true } x (stop 4)) 0x30 x (stop 4) ∧
    demoMerges (demoMerge 0x30 { u with have_ := true } (stop 4) (stop 5)) 0x30 (stop 4) (stop 5) ∧
    demoMerges (demoMerge 0x30 { u with have_ := true } x (stop 5)) 0x30 x (stop 5) ∧
    demoMerges (demoMerge 0x30 { d with have_ := true } (stop 11) (stop 11)) 0x30 (stop 11) (stop 11) ∧
    demoMerges (demoMerge 0x30 d (stop 11) (stop 11)) 0x30 (stop 11) (stop 11) ∧
    demoMerges (demoMerge 0x30 u (stop 4) x) 0x30 (stop 4) x ∧
    demoMerges (demoMerge 0x30 u ⟨2, true, 3⟩ x) 0x30 ⟨2, true, 3⟩ x := by decide

/-! GatherDecisions -/

/-- A gather in graph 5 with `cpe`, a token at its input, ring 1 of two slots of 4 KiB, and job 0's pages. -/
def demoGather (u y : FUnit) (h : Tok) : State :=
  let edges : List FEdge := [{ e := ⟨0, 0, 0, 4, 0, 0⟩, fifo := [{ tok := h, ready := 9 }] }, { e := ⟨4, 0, 0, 6, 0, 0⟩ }]
  let g : FGraph := { units := [(0x40, u), (0x60, y)], edges }
  { demo [] with
    mem := (demoHub []).mem, acc := (demoHub []).acc, cyc := 9, nextId := 7
    cores := [(0, { graphs := [(5, g)], rings := [(1, { decl := true, depth := 2, base := 0x1000 })] })] }
theorem witness_GatherDecisions :
    let u : FUnit := { node := ⟨4, 0, 0, 0x5000, 8, 3⟩, rank := [(0, 1)] }
    let y : FUnit := { emptyUnit with node := ⟨6, 0, 0, 77, 0, 0x201⟩ }
    let ref : Tok := ⟨2, false, 2⟩
    let gone : Tok := ⟨3, false, 0xFFFFFFFF00000001⟩
    demoDecides (demoGather u y ref) 0 5 0x40 ref ∧ demoDecides (demoGather u y gone) 0 5 0x40 gone ∧
    demoDecides (demoGather { u with prev := [(0, 2)] } y ⟨4, false, 0⟩) 0 5 0x40 ⟨4, false, 0⟩ ∧
    demoDecides (demoGather { u with prev := [(0, 4)] } y ⟨11, false, 0⟩) 0 5 0x40 ⟨11, false, 0⟩ ∧
    demoDecides (demoGather u y ⟨2, true, 2⟩) 0 5 0x40 ⟨2, true, 2⟩ ∧
    ((demoGather u y ref).graph 0 5).accepts 0x40 0 = true ∧ u.node.c.getLsbD 7 = false ∧
    (0x5010 : Word) = u.node.a + word 2 * u.node.b ∧
    (openWindow { demoGather u y ref with acc := [] } 0 5 0x40 0x5010 0x5010).frozen.contains 0 = true ∧
    (let s1 := openWindow (demoGather u y ref) 0 5 0x40 0x5010 0x5010
     s1.frozen.contains 0 = false ∧
     okAnd (checkAccess s1 (unitAgent (demoGather u y ref) 0 5 32) 0x5010 8 needRead true) (fun a => a.far.isNone) = true ∧
     errIs (checkAccess s1 (unitAgent (demoGather u y ref) 0 5 32) 0x5011 8 needRead true)
       (fun f => match f with | .trap _ _ => true | _ => false) = true) := by
  decide +kernel
theorem witness_GatherDecisions_rows :
    let u : FUnit := { node := ⟨4, 0, 0, 0x5000, 64, 0x80⟩, rank := [(0, 1)] }
    let y : FUnit := { emptyUnit with node := ⟨6, 0, 0, 77, 0, 0x201⟩ }
    let open_ : FUnit := { y with slotId := 3, rows := 2, tile := List.replicate 128 (0, false), tileAt := some 0x1000 }
    let moved : FUnit := { open_ with tileAt := some 0x2100 }
    let ref : Tok := ⟨2, false, 2⟩
    let gone : Tok := ⟨3, false, 0xFFFFFFFF00000001⟩
    demoDecides (demoGather u y ref) 0 5 0x40 ref ∧ demoDecides (demoGather u open_ gone) 0 5 0x40 gone ∧ u.node.c.getLsbD 7 = true ∧
    demoDecides (demoGather u moved gone) 0 5 0x40 gone ∧ (demoGather u moved gone).Inv ∧
    open_.tile.length = open_.rows * (slotBytes (((demoGather u open_ gone).core 0).ring 1).slot / 64) ∧
    cpeSlot ((demoGather u open_ gone).core 0) open_ 3 = (0, 0x1000) ∧ (demoGather u open_ gone).Inv ∧
    (demoGather u y ref).Inv ∧ ((demoGather u y ref).core 0).ring 1 = { decl := true, depth := 2, base := 0x1000 } ∧
    0 + (cpeSlot ((demoGather u y ref).core 0) y 7).1 < 2 ∧
    (let s1 := openWindow (demoGather u y ref) 0 5 0x40 0x5080 0x5080
     let ag := unitAgent (demoGather u y ref) 0 5 32
     s1.frozen.contains 0 = false ∧ okAnd (checkAccess s1 ag 0x5080 64 needRead false) (fun a => a.far.isNone && (commitAccess s1 ag needRead a).memOk) = true) ∧
    demoDecides (demoGather u y ⟨2, true, 2⟩) 0 5 0x40 ⟨2, true, 2⟩ ∧
    demoDecides (demoGather { u with prev := [(0, 2)] } open_ ⟨4, false, 0⟩) 0 5 0x40 ⟨4, false, 0⟩ ∧
    demoDecides (demoGather { u with prev := [(0, 4)] } open_ ⟨11, false, 0⟩) 0 5 0x40 ⟨11, false, 0⟩ ∧ open_.slotId ≠ 0 ∧ y.slotId = 0 ∧
    y.elem = false ∧ y.full = false ∧
    (let full : FUnit := { open_ with full := true }
     let s := demoGather u full ref
     (s.core 0).holder 0x60 = some 5 ∧ (s.unit 0 5 0x60).full = true ∧ (cpeSlot (s.core 0) full 3).1 = 0 ∧ full.node.b = 0 ∧
     full.node.a ≠ 0 ∧ (s.core 0).lows = [] ∧ full.rows ≤ 64 ∧ full.fault = none ∧ full.away = none ∧ full.ended = false ∧ full.slotId ≠ 0) ∧
    (let full : FUnit := { open_ with full := true, node := ⟨6, 0, 0, 77, 0x5000, 0x201⟩ }
     let s := demoGather u full ref
     okAnd (checkAccess s (fibreAgent s 0 5 0x60) 0x5000 64 needRead false)
       (fun a => a.far.isNone && (commitAccess s (fibreAgent s 0 5 0x60) needRead a).memOk) = true) := by decide +kernel

/-! LaunchResults -/

/-- A service thread in physical mode, an image at 0x200000 of one thread and one role, and a launch record at 0x100000. -/
def demoImage (regs : Tab Word) : State :=
  { demoService regs with
    mem := cellsOf [(0x100000, 0x200000), (0x200000, 0x000100010A4E4B41), (0x200008, 0x0000010000000001), (0x200010, 8)] }
theorem witness_LaunchResults :
    let s := demoImage [(1, 0x100000)]
    s.readable [0, 1] ∧ s.me.svc = true ∧ ((0x100000 : Word).toNat % 128 = 0) ∧ ((0x100008 : Word).toNat % 128 ≠ 0) ∧
    okAnd (agentCheck s s.agent 0x100000 128 needRead) (fun acc => acc.far.isNone && acc.pages == [] &&
      recWord (acc.locs.map (fun l => (s.seen l).1)) 0 == 0x200000 && chainRoute s (acc.locs.map (fun l => (s.seen l).1))) = true ∧
    okAnd (agentCheck s s.agent (0x100000 + 72) 8 needWrite) (fun out => out.far.isNone && out.pages == [] &&
      out.locs.all Loc.plain && out.locs.eraseDups == out.locs && (commitAccess s s.agent needWrite out).memOk) = true := by
  decide +kernel
/-- Job 0 of the pages of the other witnesses reads an image at 0x9000 for a launch whose record lies at physical 0x100000. -/
def demoLaunch : State :=
  { demoHub [(1, 0x100000)] with
    mem := cellsOf [(0, 0x200001), (32, 0x200000), (0xB000, 0x000100010A4E4B41), (0xB008, 0x0000010000000001), (0xB010, 8),
      (0x100000, 0x9000), (0x200000, 0x300001), (0x300000, 0x301001), (0x301000, 0x302001),
      (0x302048, 0xFF * 2 ^ 48 + 0xB * 2 ^ 12 + 0x867)] }
theorem witness_LaunchResults_queued :
    let s := demoLaunch
    let q := toBytes 8 0x9000 ++ List.replicate 120 0
    s.readable [0, 1] ∧ s.me.svc = true ∧ errIs (readTables s { s.agent with phys := false } 0x300000)
      (fun f => match f with | .trap _ _ => true | _ => false) = true ∧
    okAnd (loadSpan s { s.agent with phys := false } 0x9000 256) (fun r => bytesAt r.2 0 4 == 0x0A4E4B41 &&
      (let raw : RawImage := { hdr := r.2, scr := [], rdt := [] }
       !magicBad raw && !reservedBad q raw && !rangeBad q raw && !offsetBad q raw && !queuesBad raw.image && !regionsBad raw.image &&
         !rolesBad raw.image && !neverPlaced s raw.image && !graphBad s 0 q && !counterBad (recWord q 2) && chainRoute s q)) = true := by
  decide +kernel
/-- The image of `demoLaunch`, dword `i` of its header replaced, and a record of it with dword `i` replaced. -/
def demoRaw (i v : Nat) : RawImage :=
  { hdr := ((List.range 32).flatMap (fun k => toBytes 8 (if k = i then v else
      if k = 0 then 0x000100010A4E4B41 else if k = 1 then 0x0000010000000001 else if k = 2 then 8 else 0))), scr := [], rdt := [] }
def demoRecord (i v : Nat) : Record :=
  (List.range 16).flatMap (fun k => toBytes 8 (if k = i then v else if k = 0 then 0x9000 else 0))
theorem witness_LaunchResults_validate :
    let v (r : RawImage) : Nat := validate {} 0 0x1000 (demoRecord 16 0) r
    v (demoRaw 0 0) = 1 ∧ v (demoRaw 31 1) = 2 ∧ validate {} 0 0x1000 (demoRecord 14 1) (demoRaw 32 0) = 2 ∧
    v (demoRaw 1 0x0000010000000005) = 3 ∧ validate {} 0 0x1000 (demoRecord 0 0x9008) (demoRaw 32 0) = 4 := by decide +kernel
theorem witness_LaunchResults_validate_image :
    let v (r : RawImage) : Nat := validate {} 0 0x1000 (demoRecord 16 0) r
    let roles : RawImage :=
      { demoRaw 1 0x0000010001010001 with scr := toBytes 8 (64 * 2 ^ 20), rdt := toBytes 16 (5 * 2 ^ 16 + 5) }
    v (demoRaw 6 0x81800000) = 5 ∧ v (demoRaw 14 0xE000000000000000) = 6 ∧ v roles = 7 := by decide +kernel
theorem witness_LaunchResults_validate_room :
    -- 64 roles on die 0, each of whose clusters lacks a core
    let d := demoRaw 1 0x0000010001010001
    let r : RawImage := { hdr := toBytes 8 0x004000010A4E4B41 ++ d.hdr.drop 8, scr := toBytes 8 (64 * 2 ^ 20)
                          rdt := toBytes 16 (2 ^ 35 + 63 * 2 ^ 16) }
    let maimed : State := { pkg := { mappedOut := (List.range 8).map (64 * ·) } }
    reservedBad (demoRecord 16 0) r = false ∧ offsetBad (demoRecord 16 0) r = false ∧ regionsBad r.image = false ∧ rolesBad r.image = false ∧
    placeBlocks maimed.emptied r.image (List.range r.image.blocks) {} = none := by decide +kernel
theorem witness_LaunchResults_validate_record :
    let w (q : Record) : Nat := validate {} 0 0x1000 q (demoRaw 32 0)
    w (demoRecord 4 0x5000) = 9 ∧ w (demoRecord 2 4) = 0xA ∧ w (demoRecord 16 0) = 0 := by decide +kernel
theorem witness_LaunchResults_validate_full :
    4096 ≤ State.waiting { launches := (List.range 4096).map (fun k => (0x2000 + k, {})) } := by decide +kernel
theorem witness_LaunchResults_port :
    let s : State := { ports := [(3, { busyTo := 5 })] }
    ({ s with pkg := { s.pkg with safe := true } } : State).pkg.safe = true ∧ s.cyc < (Tab.get {} s.ports 3).busyTo ∧ (Tab.get {} s.ports 4).busyTo ≤ s.cyc ∧ s.pkg.safe = false := by decide
/-- Save areas at 0x1000 of a task in a system call and of a pre-empted task. -/
def demoSaved (reason : Nat) (t : Task) : State :=
  { demoService [(1, 0x1000)] with
    mem := cellsOf [(0x1000, reason * 2 ^ 48 + 2 ^ 32 + 0x53415645), (0x1008, 0x10003)], tasks := [(0x10003, t)] }
theorem witness_LaunchResults_saved :
    let t : Task := { life := .saved, area := 0x1000, caller := some (0, 9) }
    let s := demoSaved 0x18 t
    let u := demoSaved 0x17 { t with caller := none }
    s.readable [1] ∧ (demo []).me.svc = false ∧ s.me.svc = true ∧ areaOk 0x1000 = true ∧ areaOk 0x1008 = false ∧
    pathDenied s 0x1000 0x1000 0x105000 true false = none ∧ savedAt s 0x1000 0x18 = some 0x10003 ∧ s.waiting < 4096 ∧
    savedAt u 0x1000 0x17 = some 0x10003 ∧ u.dword 0x1000 / 2 ^ 48 = 0x17 ∧ u.poisonedIn 0x1000 16 = false ∧
    savedAt u 0x1000 0x18 = none ∧ savedAt (demoSaved 0x17 { t with life := .live }) 0x1000 0x17 = none := by decide +kernel

/-! LaunchQueue -/

/-- One waiting launch, of one role and one thread, old enough for a reservation. -/
def demoWaiting (l : Launch) : State := { launches := [(0x1000, l)], dirty := true, cyc := 2 ^ 23 }
theorem witness_LaunchQueue :
    let img : Image := { threads := 1, groupsz := 1, accessLen := 8 }
    let l : Launch := { img, cls := 3, eff := 3, left := 1 }
    let s := demoWaiting l
    let p : Plan := { roles := [(0, 0)] }
    s.launchQueue = [⟨3, 0, 0, 0x1000, false⟩] ∧ s.predsEnded l = true ∧ s.launchOf 0x1000 = l ∧ 0 + 2 ^ 22 ≤ s.cyc ∧
    placeBlocks s img (List.range img.blocks) {} = some p ∧ s.dirty = true ∧ s.pkg.overcap = false ∧
    (let torn : Image := { img with roleData := [⟨0, 0, 0, true, 0, 0, 0⟩, ⟨0, 0, 0, true, 1, 0, 0⟩] }
     placeBlocks s torn (List.range torn.blocks) {} = none) ∧
    -- the first waiter fits nowhere, the second one does
    (let torn : Launch := { l with img := { img with roleData := [⟨0, 0, 0, true, 0, 0, 0⟩, ⟨0, 0, 0, true, 1, 0, 0⟩] } }
     let u : State := { s with launches := [(0x1000, torn), (0x2000, { l with joined := 1 })] }
     u.launchQueue = [⟨3, 0, 0, 0x1000, false⟩, ⟨3, 1, 0, 0x2000, false⟩] ∧ u.reservation = none ∧
     placeBlocks u torn.img (List.range torn.img.blocks) {} = none ∧ placeBlocks u img (List.range img.blocks) {} = some p) ∧
    (demoWaiting { l with preds := [0x1000] }).predsEnded { l with preds := [0x1000] } = false ∧
    (let u : State := { tasks := [(0x10003, { life := .queued })] }
     Tab.find u.launches 0x10003 = none ∧ (Tab.find u.tasks 0x10003).any (·.life == .queued) = true) := by decide +kernel

/-! TaskEnds -/

/-- Task 0x10003 of launch 0x10000 on core 2, with two tasks left, and its anchor. -/
def demoTask (life : TaskLife) (th : Thread) (regs : Tab Word) : State :=
  { cur := { m := 2 }, threads := [(16, { th with task := 0x10003, regs })]
    tasks := [(0x10003, { lid := 0x10000, role := 3, life, core := 2 })]
    cores := [(2, { home := 0x10003, rows := (List.range 4).map (fun r => (r, { run := .atEnd })) })]
    launches := [(0x10000, { waiting := false, left := 2 }), (0x20000, { left := 1, graph := 0x20000 }), (0x30000, { left := 1, preds := [0x20000] })]
    wgraphs := [(0x20000, { left := 1 })] }
theorem witness_TaskEnds :
    let s := demoTask .live { life := .running } [(1, 0x10003), (2, 0x20000)]
    let u := demoTask .live { life := .exiting, slot := 1 } []
    let v := demoTask .live { life := .exiting, slot := 5, helper := true } []
    (demoService []).me.svc = true ∧ s.me.svc = false ∧ s.me.helper = false ∧ s.me.slot = 0 ∧
    (u.me.life = .exiting ∧ ¬(u.me.helper = false ∧ u.me.slot = 0) ∧ u.me.parked = none ∧ u.copiesDone u.curKey = true ∧ u.myCore.graphs = []) ∧
    (v.me.life = .exiting ∧ v.me.helper = true ∧ v.copiesDone v.curKey = true) ∧
    (Tab.find s.tasks 0x10003).any (·.life == .live) = true ∧ (Tab.find s.launches 0x20000).any (·.waiting) = true ∧
    (Tab.find s.wgraphs 0x20000).isSome = true ∧ Tab.find s.tasks 7 = none ∧ Tab.find s.launches 7 = none ∧ Tab.find s.wgraphs 7 = none ∧
    (0 : Nat) % 2 ^ 48 = 0 ∧ handleJob 0x20000 = handleJob s.me.task ∧ handleJob (5 * 2 ^ 48) ≠ handleJob s.me.task := by decide +kernel
theorem witness_TaskEnds_drained :
    let s := demoTask .draining { life := .exiting } []
    drained s 0x10003 = true ∧ (s.taskOf 0x10003).life = .draining ∧ (∀ k ∈ s.threadsOf 0x10003, (s.thr k).helper = false) ∧
    2 ≤ (s.launchOf 0x10000).left ∧
    (let v : Saving := { area := 0x1000, reason := 0x17, call := 0, slot := 0, reg := 0, argp := 0, svcCore := 0x1000 }
     let u : State := { s with tasks := [(0x10003, { life := .saved, saving := some v })] }
     (Tab.find u.tasks 0x10003).any (fun x => x.life == .saved && x.saving == some v) = true) := by decide +kernel

/-! ChainEntries -/

/-- A chain of task 0x10000 on core 1 into queue 2 of task 0x20000 on core 5. -/
def demoChain (c : Chain) (dlife : TaskLife) (dq : Queue) (spills : Tab (List Tok)) : State :=
  let ax : QDesc := ⟨true, false, 4⟩
  let img : Image := { groupsz := 1, queues := [ax, ax, ax] }
  { cyc := 9, chains := [(3, c)], spills
    tasks := [(0x10000, { lid := 0x10000, life := .live, core := 1 }), (0x20000, { lid := 0x20000, life := dlife, core := 5 })]
    launches := [(0x10000, { waiting := false, bind := [(0, 2)] }), (0x20000, { waiting := false, img, bind := [(0, 6)] })]
    cores := [(1, { home := 0x10000, queues := [(4, { decl := true, xa := true, cap := 4, entries := [{ tok := ⟨2, false, 77⟩, ready := 0 }] })] }),
              (5, { home := 0x20000, queues := [(2, dq)] })] }
theorem witness_ChainEntries :
    let c : Chain := { desc := ⟨0xFF, 0, 0, 4, 2, 0x20000⟩, slid := 0x10000 }
    let room : Queue := { decl := true, cap := 4 }
    let full : Queue := { decl := true, cap := 0 }
    let x : ChainFlit := { fromHere := none, dlid := 0x20000, drole := 0, dq := 2, kind := 2, poison := false, data := 77 }
    let s := demoChain c .live room []
    Tab.find s.chains 3 = some c ∧ chainCore s c = some 1 ∧ (((s.core 1).queue 4).head s.cyc).isSome = true ∧ s.frozen.contains 1 = false ∧ ((s.core 1).queue 4).lent = [] ∧
    ((demoChain { c with flight := [⟨2, false, 77⟩] } .live room []).chains.head?).any (fun e => e.2.flight != []) = true ∧
    chainCore (demoChain { c with flight := [⟨2, false, 77⟩], refused := true } .live room [] ) { c with flight := [⟨2, false, 77⟩], refused := true } = some 1 ∧
    ((s.core 5).queue 2).isFull = false ∧ (((demoChain c .live full []).core 5).queue 2).isFull = true ∧
    arriveChain (demoChain c .ended room []) x = .ended ∧
    arriveChain (demoChain c .saved room [(16 * 0x20000 + 2, List.replicate 4096 {})]) x = .refused ∧
    Tab.find (demoChain c .saved room [(16 * 0x20000 + 2, [{}])]).spills (16 * 0x20000 + 2) = some [{}] ∧
    (Tab.find s.launches 0x20000).any (fun l => l.img.queues[2]? == some ⟨true, false, 4⟩) = true := by decide +kernel

/-! ControlWords -/

theorem witness_ControlWords :
    let s := demo [(1, 5)]
    let u : State := { s.modMe (fun th => { th with yieldTo := 9, waited := 56 }) with cyc := 9 }
    let q : State := { s with cores := [(0, { queues := [(3, { decl := true, cap := 4 })] })] }
    s.me.svc = false ∧ (demoService []).me.svc = true ∧ s.readable [1] ∧ (demoService []).readable [1] ∧ s.me.badWords = [] ∧
    s.myTask.badWords = [] ∧ s.me.helper = false ∧ ((q.core (q.taskOf q.me.task).core).queue 3).decl = true ∧
    ((s.core (s.taskOf s.me.task).core).queue 3).decl = false ∧
    Tab.find s.prior 0 = none ∧ s.struck 0x13 = false ∧ (s.modMe (fun th => { th with badWords := [0x13] })).struck 0x13 = true ∧
    (∃ p, Tab.find { s with prior := [(0, { cyc := 0, mstat := 5, queues := [7] })] }.prior 0 = some p ∧ p.cyc = s.cyc ∧
      p.queues[0]? = some 7) ∧
    s.me.yieldTo = 0 ∧ s.me.waited < 56 ∧ u.me.yieldTo ≠ 0 ∧ u.me.yieldTo ≤ u.cyc ∧ 56 ≤ u.me.waited := by decide
/-- No word of this thread is struck. -/
theorem witness_ControlWords_struck : ∀ n, (demo []).struck n = false := by
  intro n; simp [State.struck, show (demo []).me.badWords = [] by decide, show (demo []).me.svc = false by decide,
    show (demo []).myTask.badWords = [] by decide]

/-! SystemCalls -/

/-- A save pool at 0x8000 with one area, whose stack lies at 0x8100; none in the other. -/
def demoPool (top : Nat) (th : Thread) : State :=
  { threads := [(0, { th with task := 1 })], cyc := 4096, sup := { savepool := 0x800 }
    mem := cellsOf [(0x8000, 0x8100), (0x8008, 4 * 2 ^ 32 + top), (0x8100, 0x200000)] }
theorem witness_SystemCalls :
    let v (n : Nat) := ofBytes ((List.range 16).map (fun k => (demoPool n {}).byteAt (0x8000 + k))) / 2 ^ 64 % 2 ^ 32
    let held : Thread := { held := some (.syscall 9 0x40) }
    v 1 = 1 ∧ v 0 = 0 ∧ (demoPool 1 {}).me.svc = false ∧ (demoPool 1 {}).me.helper = false ∧ (demoPool 1 {}).readable [9] ∧
    (demoPool 1 {}).Inv ∧ isHub 0x8000 = false ∧ (demoService []).me.svc = true ∧ (demoPool 1 held).me.held = some (.syscall 9 0x40) ∧ (demoPool 1 held).readable [9] ∧
    (demoPool 1 held).me.heldFrom < (demoPool 1 held).cyc ∧ ((demoPool 1 held).cyc - (demoPool 1 held).me.heldFrom) % 4096 = 0 := by
  decide +kernel
theorem witness_SystemCalls_entries :
    let f : FaultRec := { cause := 5, source := 0, tval := 0x3000, detail := 0, task := 1, slot := 0, thread := 0, core := 0, job := 0, retry := .instr }
    let e : PendEntry := { d0 := 1, d1 := 2, d2 := 3, d3 := 4, fault := some f }
    let s : State := { waitFq := [e], waitCq := [e], sup := { fqbase := 0x5007, cqbase := 0x6007 } }
    let full : State := { waitFq := [e], sup := { fqbase := 0x5007, fqtail := 128 } }
    let open_ : State := { waitFq := [e], openEntries := [⟨3, 5, 0, 3, []⟩] }
    (let g : State := { s with sup := { s.sup with fwstate := .verifying, fwgo := some 0 } }
     g.sup.fwstate = .verifying ∧ g.sup.fwgo = some e.begun) ∧ s.waitFq = e :: [] ∧ s.waitCq = e :: [] ∧ s.sup.fwstate = .idle ∧ (7 ≤ s.sup.fqbase.toNat % 32 ∧ s.sup.fqbase.toNat % 32 ≤ 16) ∧
    (s.sup.fqtail + 2 ^ 32 - s.sup.fqhead) % 2 ^ 32 < 2 ^ (s.sup.fqbase.toNat % 32) ∧
    ¬((full.sup.fqtail + 2 ^ 32 - full.sup.fqhead) % 2 ^ 32 < 2 ^ (full.sup.fqbase.toNat % 32)) ∧ s.Inv ∧ isHub 0x5000 = false ∧
    (∃ o ∈ open_.openEntries, o.cause = f.cause ∧ o.job = f.job ∧ o.page = f.tval.toNat / 4096) := by decide

/-! Supervisor -/

theorem witness_Supervisor :
    let s := demoHub [(6, 0), (7, 0x5040), (8, 16), (9, 0x9000), (10, 0x9800)]
    let u := demoHub [(6, 5), (7, 0x5040)]
    (demo []).me.svc = false ∧ s.me.svc = true ∧ s.readable [6, 7, 8] ∧ s.dword 0 % 2 = 1 ∧ u.dword (64 * 5) % 2 ≠ 1 ∧
    s.awayIn 0 0x5000 4096 = false ∧ s.cache = [] ∧ s.movingIn 0 0x5000 4096 = false ∧
    ¬(∃ e ∈ s.cores, ∃ x ∈ e.2.copies, x.far ≠ []) ∧ s.remotes = [] ∧ s.migrations = [] := by decide +kernel
theorem witness_Supervisor_migrate :
    let s := demoHub [(6, 0x5040), (7, 0x14000), (8, 0)]
    s.me.svc = true ∧ s.readable [6, 7, 8] ∧ s.Inv ∧ canonical (s.rx 6) = true ∧ inAperture (s.rx 6).toNat = false ∧
    s.awayIn 0 0x5000 4096 = false ∧
    okAnd (walk s 0 0x5040) (fun tr => tr.level == 3 && leafRpkg tr.leaf == 0xFF && tr.leafAt == 0x302028) ∧
    populated 0x14000 4096 = true ∧ isHub 0x14000 = false ∧ isHub 0x302028 = false := by decide +kernel
theorem witness_Supervisor_migrating :
    let m : Migration := { thr := 0x8000, job := 0, va := 0x200000, level := 2, leafAt := 0x301008, old := 0x400000, frame := 0x600000, next := 511 }
    let n : Migration := { m with next := 0 }
    let s (m : Migration) : State := { demoService [] with migrations := [m] }
    (s m).migrations.find? (fun m => m.thr == (s m).curKey) = some m ∧ (s n).migrations.find? (fun m => m.thr == (s n).curKey) = some n ∧
    (s m).Inv ∧ (m.frame + 4096 * m.next) % 4096 = 0 ∧ isHub (m.frame + 4096 * m.next) = false ∧ isHub m.leafAt = false ∧
    (s m).me.svc = true ∧ (s m).awayIn 0 (m.va + 4096 * m.next) 4096 = false ∧ (s n).awayIn 0 n.va 4096 = false ∧ (s m).movingIn 0 0x200000 4096 = true := by decide +kernel
theorem witness_Supervisor_tables :
    let s := demoService [(6, 0x00120003), (7, 0x04047FFF04040000), (8, 0xE0000000002FE140), (9, 0x140), (10, 2 ^ 32), (11, 2 ^ 26), (12, 2 ^ 63)]
    let f : State := { s with frozen := [0x140] }
    s.readable [6, 7, 8] ∧ (s.rx 6).toNat / 2 ^ 16 % 2 ^ 16 = 0x12 ∧ (s.rx 6).toNat / 2 ^ 6 % 2 ^ 10 = 0 ∧ (s.rx 8).toNat / 2 ^ 26 % 2 ^ 35 = 0 ∧
    (s.rx 10).toNat / 2 ^ 16 % 2 ^ 16 = 0 ∧ 2 ^ 32 ≤ (s.rx 10).toNat ∧ (s.rx 11).toNat / 2 ^ 26 % 2 ^ 35 ≠ 0 ∧ (s.rx 12).getLsbD 63 = true ∧
    f.frozen = [(s.rx 9).toNat] ∧ Tab.get 0 f.deniedAt 0x140 ≠ f.cyc + 1 ∧ s.frozen = [] ∧ 0x1030 > 0x1020 := by decide +kernel

/-! Continuation -/

/-- A service thread, one open entry with this waiter, and the thread of task 1 on core 0 parked on it. -/
def demoFault (retry : Retry) : FaultRec :=
  { cause := 5, source := 0, tval := 0x3000, detail := 0, task := 0x10000, slot := 0, thread := 0, core := 0, job := 0, retry }
def demoParked (retry : Retry) (vec : Word) (saved : Bool) : State :=
  let th : Thread := { life := .running, task := 0x10000, parked := some (demoFault retry) }
  let svc : Thread := { life := .running, svc := true, regs := [(6, 41), (7, 0x10000), (8, 0x1000)] }
  { cur := { m := 0x1000 }
    threads := (if saved then [] else [(0, th)]) ++ [(0x8000, svc)]
    cores := [(0, { home := 0x10000, streams := [(1, { state := .stopped })], graphs := [(2, { stopped := true })], arrayFrozen := true
                    mutualSince := 7 })]
    tasks := [(0x10000, { lid := 0x10000, life := if saved then .saved else .live, trapvec := vec
                          privThreads := if saved then [(0, th)] else [] })]
    launches := [(0x10000, { waiting := false, left := 2 })]
    openEntries := [⟨41, 5, 0, 3, [demoFault retry]⟩] }
theorem witness_Continuation_resume :
    let f := demoFault .instr
    let s := demoParked .instr 0x4000 false
    s.me.svc = true ∧ s.readable [6] ∧ s.Inv ∧ (s.openEntries.find? (fun e => e.seq == 41)).any (fun e => e.waiters == [f]) = true ∧
    (s.openEntries.find? (fun e => e.seq == 40)) = none ∧ s.keyOf f.task f.slot = some 0 ∧ (0 ≠ s.curKey) ∧ (s.thr 0).parked = some f ∧
    (s.taskOf f.task).trapvec ≠ 0 ∧ (s.thr 0).intrap = false ∧ (Tab.find s.tasks f.task).any (·.life == .live) = true ∧
    ((demoParked .instr 0 false).taskOf f.task).trapvec = 0 := by decide +kernel
theorem witness_Continuation_sources :
    let s := demoParked (.array 0) 0 false
    let saved := demoParked .instr 0x4000 true
    (s.thr 0).parked = some (demoFault (.array 0)) ∧ (s.core 0).matrix.state ≠ 3 ∧ (s.thr 0).arrayHandler = false ∧ (s.thr 0).waiting = [] ∧
    (s.core 0).matrix.pend = none ∧
    (let two := s.modThr 0 (fun th => { th with waiting := [demoFault (.array 0)] })
     (two.thr 0).waiting = [demoFault (.array 0)] ∧ (demoFault (.array 0)).cause ≠ 0x0B) ∧ ((s.core 0).stream 1).state = .stopped ∧
    (Tab.find (s.core 0).graphs 2).isSome = true ∧ saved.keyOf 0x10000 0 = none ∧ (Tab.find saved.tasks 0x10000).isSome = true ∧
    (Tab.find (saved.taskOf 0x10000).privThreads 0).any (fun th => th.parked.isSome) = true ∧
    (saved.taskOf 0x10000).trapvec ≠ 0 := by decide +kernel
theorem witness_Continuation_preempt :
    let s := demoParked .instr 0 false
    let other (x : Task) : State := { s with tasks := [(0x10000, x)] }
    let v : Saving := { area := 0x1000, reason := 0x18, call := 5, slot := 0, reg := 9, argp := 0x100, svcCore := 0x1000 }
    s.readable [7, 8] ∧ (Tab.find s.tasks 0x10000).any (fun x => x.life == .live && x.saving.isNone) = true ∧
    Tab.find s.tasks 7 = none ∧ populated 0x1000 0x105000 = true ∧ 0x1000 % 4096 = 0 ∧ 0x1008 % 4096 ≠ 0 ∧
    (Tab.find (other { life := .counting }).tasks 0x10000).any (·.life == .counting) = true ∧
    (Tab.find (other { life := .saved, saving := some v }).tasks 0x10000).any (fun x => x.saving.isSome && x.life == .saved) = true := by
  decide +kernel
theorem witness_Continuation_save :
    let v (reason : Nat) (argp : Word) (cancelled : Bool) : Saving :=
      { area := 0x1000, reason, call := 5, slot := 0, reg := 9, argp, svcCore := 0x1000, cancelled }
    let s (x : Saving) (acc : Tab AccEntry) : State :=
      { demoParked .instr 0 false with tasks := [(0x10000, { lid := 0x10000, life := .saved, saving := some x })], acc }
    let all := s (v 0x17 0 false) []
    all.Inv ∧ (all.taskOf 0x10000).saving = some (v 0x17 0 false) ∧ (all.taskOf 0x10000).life = .saved ∧ saveReady all 0x10000 = true ∧
    0x1000 ∉ all.frozen ∧ pathDenied all 0x1000 0x1000 0x105000 false true = none ∧
    pathDenied (s (v 0x17 0 false) [(0, {})]) 0x1000 0x1000 0x105000 false true = some (0, 1) ∧
    ordinary (v 0x18 0x100 false).argp 64 = true ∧ ordinary (v 0x18 0x00FFFFFFF0000000 false).argp 64 = false ∧
    2 ≤ (all.launchOf (handleLid 0x10000)).left ∧ all.sup.lwmtab = 0 ∧
    (∀ n < 32, isHub (32 * n) = false ∧
      denied (s (v 0x17 0 false) [(64 * 0x10 + 1, ⟨0xFFFFFFFF, 0, true, true, true, 0x1FFF, 0⟩)]) 0 false true (.mem (32 * n)) = none) ∧ (v 0x17 0 true).cancelled = true := by decide +kernel

/-! RemoteAccesses -/

/-- A thread whose access to package 3 is on its way; the same of a copy's chunk. -/
def demoRemote (act : RemoteAct) : State :=
  { threads := [(0, { demoThread [(1, 5)] with remote := some 7 })], cyc := 12500000
    cores := [(0, { copies := [{ demoCopy [(0, 64)] with id := 2, away := [(0, 64)] }] })]
    remotes := [(7, { m := 0, t := 0, locs := (List.range 8).map (fun k => .far 3 (0x1000 + k)), req := .read 0 8, act, ea := 0x1000, issued := 0 })] }
theorem witness_RemoteAccesses :
    let s := demoRemote (.load 5 true)
    let c := demoRemote (.chunkRead 0 2 0 64)
    let early : State := { s with cyc := 5 }
    let idle : State := { s with threads := [(0, demoThread [])] }
    (Tab.find s.remotes 7).any (fun r => r.act == .load 5 true && !r.cancelSent && r.issued + 12500000 ≤ s.cyc && r.locs != [] &&
      r.locs.all (fun l => match l with | .far p _ => p == 3 | _ => false) && early.cyc < r.issued + 12500000) = true ∧
    (s.thr 0).remote = some 7 ∧ (idle.thr 0).remote ≠ some 7 ∧ Tab.find s.remotes 8 = none ∧
    ((c.core 0).copyById 2).any (fun x => x.away.any (fun a => a.1 == 0)) = true := by decide +kernel

/-! OutsideRequests -/

theorem witness_OutsideRequests :
    let s : State := { acc := [(64 * 0x30 + 1, ⟨0xFFFFFFFF, 0, true, true, true, 0x1FFF, 0⟩), (64 * 0x10 + 1, ⟨2, 0, true, true, true, 0x1FFF, 0⟩)] }
    let frozen : State := { s with frozen := [0x1103, 0x1058] }
    s.Inv ∧ 0x1103 ∈ frozen.frozen ∧ 0x1103 ∉ s.frozen ∧ isHole 0x1000 = false ∧ accAllows s 0x30 0x1103 1 true true = true ∧
    accAllows s 0x10 0x1058 1 true true = true ∧ accAllows s 0x10 0x1050 3 true false = false ∧ targetOf 0x3000 = 0x10 ∧
    isHole 0x1800000000 = true ∧ accAllows s 0x30 0x1103 0x1800000 true false = true ∧ isHub 0x1008 = false ∧
    atomicNew .add 4 0 1 0 = some 1 ∧ atomicNew .cas 4 0 1 5 = none := by decide +kernel
theorem witness_OutsideRequests_hub :
    let w : HubWork := { master := 0x1040, kind := 3, job := 2, handle := 0x10003, act := .payload 1 0 0, since := 0, cause := 5, tval := 0x3008 }
    let s : State := { cyc := 8192, hub := [(4, w)] }
    let m : State := { s with openEntries := [⟨9, 5, 2, 3, []⟩] }
    Tab.find s.hub 4 = some w ∧ Tab.find s.hub 5 = none ∧ w.reported = false ∧ w.since + 8192 ≤ s.cyc ∧ w.cause ∈ [5, 6, 7] ∧
    (∃ o ∈ m.openEntries, o.cause = w.cause ∧ o.job = w.job ∧ o.page = w.tval.toNat / 4096) ∧ s.openEntries = [] := by decide

/-! ManagementResults -/

theorem witness_ManagementResults :
    let s : State := { cores := [(3, { queues := [(2, { entries := [{ tok := {}, ready := 0 }] })] })] }
    let safe : State := { pkg := { safe := true } }
    s.pkg.safe = false ∧ safe.pkg.safe = true ∧ s.isDead (5 * 32) = false ∧ State.isDead { dead := [0] } (5 * 32) = true ∧ (((s.core 3).queue 2).entries[0]?).isSome = true ∧
    ((demoService []).thr 0x8000).svc = true ∧ ((demo []).thr 0).svc = false ∧ (5 : BitVec 12).toNat = 5 := by decide

/-! ResetAndFirmware -/

theorem witness_ResetAndFirmware :
    let s : State := { pkg := { off := true, temp := [(3, 90)] } }
    let r : ResetInfo := { failedCores := [], failedPertor := [], failedEthernet := [], log := [], critical := true, svcs := 32, image := ⟨1, 0x28000000000, 1, [1], []⟩ }
    let f (x : FwState) : State := { sup := { fwstate := x }, cyc := 1250000 }
    (s.pkg.off = true ∧ ∃ e ∈ s.pkg.temp, 85 ≤ e.2) ∧ State.reset.pkg.off = false ∧ r.critical = true ∧ ¬({ r with critical := false }.svcs < 8) ∧
    State.reset.Inv ∧ (f .draining).sup.fwstate = .draining ∧ (f .draining).sup.fwsince + 1250000 ≤ (f .draining).cyc ∧
    (f .verifying).sup.fwstate = .verifying ∧ (f .idle).sup.fwstate ≠ .draining ∧ (demoService []).me.svc = true ∧
    (demoService [(1, 1)]).readable [1] ∧ ((demoService [(1, 1)]).rx 1).getLsbD 1 = false ∧ (f .draining).migrations = [] ∧
    [(0 : Nat)].any (fun k => k < 0x4000000 && (r.image.body[k]?).isSome) = true := by decide
/-- No word of this service thread is struck. -/
theorem witness_ResetAndFirmware_struck : ∀ n, (demoService []).struck n = false := by
  intro n; simp [State.struck, show (demoService []).me.badWords = [] by decide, show (demoService []).me.svc = true by decide]

/-! PeResults -/

/-- A PE that is about to issue: v0 holds 1.0 in every f32 lane, q2 an entry, q1 takes pushes. -/
def demoPe (tok : Tok) (cap : Nat) : State :=
  { cyc := 5, cores := [(0, {
      pes := [(0, { v := [(0, BitVec.ofNat 512 (packLanes 0 (List.replicate 16 0x3F800000)))] })]
      queues := [(1, { decl := true, xa := true, cap }), (2, { decl := true, cap := 4, entries := [{ tok, ready := 0 }] })] })] }
def demoPeF (a b : BitVec 6) (push : BitVec 4) : PeF := ⟨1, a, b, 0, 0, 0, false, false, 0, 0, push⟩
theorem witness_PeResults :
    let s := demoPe {} 4
    let l : List (Nat × Nat) := [(0, 0), (0, 0x22)]
    (s.sources l).isSome = true ∧ s.sources [(0, 0x23)] = none ∧
    (s.sources l).any (fun e => !(e.1.any (·.bad)) && !(e.1.any (fun x => x.tok.any (·.poison)))) = true ∧
    ((demoPe { poison := true } 4).sources l).any (fun e => e.1.any (fun x => x.tok.any (·.poison))) = true ∧
    (demoPeF 0 0x22 1).push ≠ 0 ∧ ((demoPe {} 0).myCore.queue 1).cap < ((demoPe {} 0).myCore.queue 1).entries.length + 1 ∧
    (s.source 0 0).isSome = true ∧ (s.source 0 0x10).isSome = true ∧ (s.source 0 0x18).isSome = true ∧ (s.source 0 0x1C).isSome = true ∧
    (s.source 0 0x32).isSome = true ∧ (s.myCore.queue 2).head s.cyc = some { tok := {}, ready := 0 } ∧ Tab.find s.cur.peek 2 = none := by
  decide +kernel
theorem witness_PeResults_tokens :
    let f := demoPeF 0x22 0x1C 1
    let at_ (k : BitVec 4) : Option Tok := ((demoPe { kind := k } 4).source 0 f.a.toNat).bind (fun e => e.1.tok)
    at_ 0 = some { kind := 0 } ∧ at_ 2 = some { kind := 2 } ∧ at_ 5 = some { kind := 5 } ∧ at_ 0xB = some { kind := 0xB } ∧
    (demoPe {} 4).myPe.used = false ∧ ((demoPe {} 4).myCore.queue 1).entries.length + 2 ≤ ((demoPe {} 4).myCore.queue 1).cap ∧
    (let K := (((demoPe {} 4).myCore.bundle 0 ((demoPe {} 4).myCore.row 0).pc).extractLsb' 192 32).toNat; K = 0) ∧
    (let b : State := demoPe { kind := 5 } 4
     let c : Core := { b.myCore with store := [(0, BitVec.ofNat 256 (2 ^ 192 * 3))] }
     (((b.setCore 0 c).myCore.bundle 0 0).extractLsb' 192 32).toNat = 3) := by decide +kernel

/-! RowResults -/

/-- Row 0 of core 0 at bundle `pc`; queue 2 holds one entry of kind 5; row 0 and the anchor wait for queues. -/
def demoRow (pc : Nat) (loops : Tab Word32) : State :=
  { cores := [(0, { rows := [(0, { pc, loops })], queues := [(2, { decl := true, entries := [{ tok := { kind := 5 }, ready := 0 }] })] })] }
theorem witness_RowResults :
    let s := demoRow 3 [(1, 2)]
    s.myRow.pc ≠ 511 ∧ (demoRow 511 []).myRow.pc = 511 ∧ (demoRow 511 []).myCore.xfault = none ∧
    1 < (Tab.get 0 s.myRow.loops 1).toNat ∧ (Tab.get 0 s.myRow.loops 0).toNat ≤ 1 ∧
    (s.myCore.queue 2).head s.cyc = some { tok := { kind := 5 }, ready := 0 } ∧ (s.myCore.queue 3).head s.cyc = none ∧ 3 ∉ s.myRow.counted ∧
    (s.myCore.pe 0).flight = [] ∧ s.myCore.bq.length < 8 ∧
    (let t : State := { s with cores := [(0, { bq := List.replicate 8 (0, 0), rows := [(0, { counted := [3] })] })] }
     8 ≤ t.myCore.bq.length ∧ (demoRow 511 []).myCore.bq.length < 8 ∧ 3 ∈ t.myRow.counted) := by decide +kernel
theorem witness_RowResults_lands :
    let e : Flight := { land := 4, issued := 1, isS := false, dst := some 3, value := 7, nb := true, flags := 8, claimed := true }
    let s : State := { cyc := 4, cores := [(0, { pes := [(0, { flight := [e] })] })] }
    ((s.core 0).pe 0).flight.filter (fun f => f.land ≤ s.cyc) = [] ++ [e] ∧ e.lanes = none ∧ ({ e with lanes := some 1 } : Flight).lanes = some 1 ∧ e.claimed = true := by decide +kernel
/-- The anchor waits to pop queue 1, and row 0 to pop queue 2: no other unit acts. -/
theorem witness_RowResults_wait :
    let b : Bundle := BitVec.ofNat 256 ((2 * 2 ^ 55 + 2 * 2 ^ 42) * 2 ^ 192)
    let c (since : Nat) : Core :=
      { home := 0x10000, store := [(0, b)], mutualSince := since
        rows := [(0, { issue := 1 }), (1, { run := .atEnd }), (2, { run := .atEnd }), (3, { run := .atEnd })]
        queues := [(1, { decl := true, xa := true }), (2, { decl := true })] }
    let s (since : Nat) : State :=
      { cyc := 5000, cores := [(0, c since)], tasks := [(0x10000, { life := .live })]
        threads := [(0, { life := .running, task := 0x10000, held := some (.qpop 5 0 1) })] }
    mutualWait (s 0) 0 = true ∧ mutualWait (s 906) 0 = true ∧ ((s 906).core 0).mutualSince + 4095 = (s 906).cyc + 1 ∧
    mutualWait State.reset 0 = false := by decide +kernel

/-! MatrixCommands -/

/-- A matrix command; its core is core 0, with the rings 0 to 2 and this array. -/
def demoCmd (accum timed : Bool) (stamp : BitVec 48) : MatF :=
  { ra := 0, rb := 1, rd := 2, acc := 1, mfmt := 3, accum, timed, policy := false, zero := false, stamp, count := 6, dper := 3, la := 2
    lb := 2, trole := 0, tthread := 0 }
def demoArray (m : Matrix) : State :=
  let rings : Tab Ring := [(0, { decl := true, depth := 4 }), (1, { decl := true, depth := 4, base := 0x8000, count := 1 }),
    (2, { decl := true, slot := 1, depth := 2, base := 0x10000 })]
  { cyc := 100, cores := [(0, { matrix := m, home := 0x10000, rings })]
    tasks := [(0x10000, { life := .live })], threads := [(0, { life := .running, task := 0x10000 })] }
theorem witness_MatrixCommands :
    let s := demoArray {}
    s.myCore.matrix.cmd = none ∧ s.myCore.matrix.state ≠ 3 ∧ s.myCore.matrix.state ≠ 2 ∧ s.myRow.taken = false ∧
    (∀ q < 4, q < s.cur.row → ¬((s.myCore.row q).handed = true ∧ (s.myCore.row q).taken = false)) ∧
    s.myCore.matrix.drains = [] ∧ s.mx.kind 1 = akindOf 3 ∧ s.mx.kind 1 ≠ akindOf 4 ∧
    ((100 - (100 : BitVec 48).toNat : Int) % 2 ^ 48 = 0 ∧ (s.cyc : Int) - 2 ^ 47 ≤ 100 ∧ (100 : Int) < s.cyc + 2 ^ 47 ∧ (s.cyc : Int) ≤ 100) ∧
    ((99 - (99 : BitVec 48).toNat : Int) % 2 ^ 48 = 0 ∧ (99 : Int) < s.cyc) ∧
    s.keyOf 0x10000 0 ≠ none ∧ s.keyOf 0x10000 5 = none ∧
    (let t := demoArray { akind := [(1, .f64), (2, .i32), (3, .f64)] }
     t.mx.kind 1 = .f64 ∧ t.mx.kind 2 = .i32 ∧ t.mx.kind 0 ≠ .f64) := by decide +kernel
theorem witness_MatrixCommands_waits :
    let b : Bundle := BitVec.ofNat 256 (2 ^ 252 + 2 ^ 188)
    let s : State := { cur := { row := 2 }, cores := [(0, { store := [(512, b)], rows := [(1, { handed := true })] })] }
    (∃ q < 4, q < s.cur.row ∧ (s.myCore.row q).handed = true ∧ (s.myCore.row q).taken = false) ∧
    ((match decodeBundle (s.myCore.bundle 1 (s.myCore.row 1).pc) with
      | .ok (.matrix _ i) => (match i with | .mzero _ => true | _ => false)
      | _ => false) = true) := by decide +kernel
theorem witness_MatrixCommands_run :
    let s := demoArray { cmd := some (demoCmd false false 0), mop := 4, phase := .attempt, state := 2 }
    s.mx.cmd ≠ none ∧ s.mx.mop = 4 ∧ s.mx.phase ≠ .ending := by decide

/-! MatrixEvents -/

/-- The same array; both operand rings hold `k` tiles, whose first descriptors are f32, and the drain ring has room. -/
def demoBeat (k : Nat) (m : Matrix) : State :=
  let rings : Tab Ring := [(0, { decl := true, depth := 4, count := k }), (1, { decl := true, depth := 4, base := 0x8000, count := k }),
    (2, { decl := true, slot := 1, depth := 2, base := 0x10000 })]
  { cyc := 100, cores := [(0, { matrix := m, home := 0x10000, rings, scratch := [(0, 3), (0x8000, 3)] })]
    tasks := [(0x10000, { life := .live })], threads := [(0, { life := .running, task := 0x10000 })] }
def demoInFlight (policy : Bool) : MatF := { demoCmd false false 0 with policy }
def demoDrain : Drain :=
  { ring := 2, due := 90, tag := 0, fcode := 3, words := [1], poison := false, last := 0, simmer := true, final := true }
theorem witness_MatrixEvents_pairs :
    let m : Matrix := { cmd := some (demoInFlight false), phase := .pairWait, due := 100 }
    let s := demoBeat 1 m
    let t := demoBeat 0 { m with untimed := true, cmd := none, phase := .finishing }
    s.Inv ∧ t.Inv ∧ s.mx.cmd = some (demoInFlight false) ∧ s.mx.phase = .pairWait ∧ s.mx.due ≤ s.cyc ∧ 0 < (s.myCore.ring 0).count ∧
    0 < (s.myCore.ring 1).count ∧ operandOk (headTile s.myCore s.tick 0 4096).1 3 = true ∧ operandOk (headTile s.myCore s.tick 1 4096).1 3 = true ∧
    operandOk (headTile s.myCore s.tick 1 4096).1 4 = false ∧ s.mx.drains = [] ∧ ¬(0 < (t.myCore.ring 0).count) ∧ t.mx.untimed = true ∧
    s.mx.untimed = false ∧ t.mx.cmd = none ∧ t.mx.phase = .finishing ∧ t.mx.due ≤ t.cyc ∧ (0 : BitVec 3) ≠ 1 ∧
    s.mx.idx + 1 < (demoInFlight false).count.toNat ∧ s.keyOf 0x10000 0 ≠ none ∧ s.keyOf 0x10000 3 = none := by decide +kernel
theorem witness_MatrixEvents_ends :
    let m : Matrix := { cmd := some (demoInFlight false), phase := .pairRun, due := 100, idx := 5 }
    let s := demoBeat 1 m
    let b := demoBeat 1 { m with mop := 4 }
    s.Inv ∧ b.Inv ∧ s.mx.mop = 0 ∧ s.mx.phase = .pairRun ∧ s.mx.due ≤ s.cyc ∧ (demoInFlight false).count.toNat ≤ s.mx.idx + 1 ∧
    b.mx.mop = 4 ∧ (demoInFlight false).ra ≠ (demoInFlight false).rb := by decide +kernel
theorem witness_MatrixEvents_loads :
    let m : Matrix := { cmd := some (demoInFlight false), mop := 2, phase := .loadWait, due := 100 }
    let s := demoBeat 1 m
    let l := demoBeat 1 { m with phase := .loading }
    let r : State := s.setCore 0 { s.core 0 with scratch := [(0, 3), (1, 0x80)] }
    s.Inv ∧ l.Inv ∧ r.Inv ∧ s.mx.phase = .loadWait ∧ s.mx.due ≤ s.cyc ∧ loadOk (headTile s.myCore s.tick 0 16384).1 3 = false ∧
    loadOk (headTile r.myCore r.tick 0 16384).1 3 = true ∧ l.mx.phase = .loading := by decide +kernel
theorem witness_MatrixEvents_drains :
    let m : Matrix := { cmd := some (demoInFlight false), mop := 3, phase := .drainWait, due := 100 }
    let s := demoBeat 0 m
    let d := demoBeat 0 { m with phase := .draining, drains := [demoDrain] }
    s.Inv ∧ d.Inv ∧ s.mx.phase = .drainWait ∧ s.mx.due ≤ s.cyc ∧ (s.myCore.ring 2).count + 0 < (s.myCore.ring 2).depth ∧
    d.mx.phase = .draining ∧ d.mx.drains = [demoDrain] ∧ demoDrain.due ≤ d.cyc ∧ (d.myCore.ring 2).count < (d.myCore.ring 2).depth ∧ demoDrain.simmer = true := by decide +kernel
theorem witness_MatrixEvents_run :
    let m : Matrix := { cmd := some (demoInFlight true), mop := 4, phase := .attempt, due := 100, stopreq := true, period := 1 }
    let s := demoBeat 0 m
    let b := demoBeat 0 { m with phase := .drainPoint, idx := 3, stopreq := false }
    let e := demoBeat 0 { m with phase := .ending, drains := [demoDrain] }
    s.Inv ∧ b.Inv ∧ e.Inv ∧ s.mx.again = false ∧ b.mx.again = false ∧ (demoBeat 0 { m with again := true }).mx.again = true ∧
    e.mx.pend = none ∧ demoDrain.due ≤ e.cyc ∧ (e.myCore.ring 2).count < (e.myCore.ring 2).depth ∧ s.mx.phase = .attempt ∧ s.mx.due ≤ s.cyc ∧ ¬(0 < (s.myCore.ring 0).count) ∧ s.mx.stopreq = true ∧
    0 < s.mx.period ∧ b.mx.phase = .drainPoint ∧ b.mx.idx % (demoInFlight true).dper.toNat = 0 ∧ b.mx.stopreq = false ∧ b.mx.fin = false ∧
    ¬((demoInFlight true).count ≠ 0 ∧ b.mx.idx = (demoInFlight true).count.toNat) ∧ (demoInFlight true).policy = true ∧
    (demoInFlight false).policy = false ∧ e.mx.phase = .ending ∧ e.mx.drains = demoDrain :: [] := by decide +kernel

/-! StepRunsInstruction -/

/-- The dword of `add x3, x4, x5` and of a supervisor instruction, at the service cores' store and fetched by a task thread. -/
theorem witness_StepRunsInstruction_thread :
    let s := State.reset.withFetchWord 64 0x10C414000000000
    let s0 : State := { s with agenda := [], tick := s.tick + 1, cur := { m := 0x1000, t := 0 } }
    s.agenda = [.thread 0x1000 0] ∧ s0.runnable s0.curKey = true ∧ s0.me.fetched = none ∧ s0.me.svc = true ∧ inService s0.me.pc = true ∧
    okAnd (checkAccess s0 { s0.agent with phys := true } s0.me.pc 8 needFetch false) (fun acc =>
      !(acc.poisoned s0 false) && acc.far.isNone && okOf (decode (word (s0.valueSeen acc.locs))) == some (.add 3 4 5)) = true ∧
    inService 0 = false ∧ inAperture 0 = false ∧ inAperture 0x00FFFFFFF0000000 = true ∧ State.reset.agenda = [] := by decide +kernel
theorem witness_StepRunsInstruction_fetched :
    let s : State := { threads := [(0, { demoThread [] with task := 0x10000, fetched := some 0x9000000000000000 }), (1, {})]
                       tasks := [(0x10000, { life := .live })] }
    s.runnable 0 = true ∧ s.runnable 1 = false ∧ s.me.svc = false ∧ (0x9000000000000000 : Word).toNat / 2 ^ 56 = 0x90 ∧
    okOf (decode 0) = none ∧
    actsLast (.resumeRetry 1 2) = true ∧ errIs (checkAccess s s.agent 0x1000 8 needFetch false) (fun f => match f with | .trap _ _ => true | _ => false) = true := by
  decide +kernel
theorem witness_StepRunsInstruction_rows :
    let m := State.reset.withFetchWord 192 (6 * 2 ^ 188)
    let e := State.reset.withFetchWord 256 (2 * 2 ^ 252)
    let j := State.reset.withFetchWord 256 (0x0300000000000000 * 2 ^ 192)
    let p := State.reset.withFetchWord 48 (2 ^ 42)
    let x (s : State) : State := { s with agenda := [], tick := 1 }
    m.agenda = [.rows 0 [0], .controls 0] ∧ (m.core 0).isSync 0 = false ∧ (m.core 0).matrixOp 0 = some .mstat ∧
    breach (x m) 0 0 = none ∧ (judge (x m) 0 [0]).holds = false ∧ (judge (x m) 0 [0]).faults = [] ∧
    ((m.core 0).row 0).taken = false ∧ (commandOf .mstat).isNone = true ∧ (m.core 0).arrayFrozen = false ∧ ((e.core 0).form 0 == some .theEnd) = true ∧
    (match (p.core 0).issuing 0 with | [_] => true | _ => false) = true ∧ (p.core 0).matrixOp 0 = none ∧ (p.core 0).finished 0 = false ∧
    breach (x p) 0 0 = none ∧ (judge (x p) 0 [0]).holds = false ∧
    (x j).taskSaving (j.core 0).home = false ∧ (j.core 0).control 0 ≠ none ∧ (j.core 0).finished 0 = true ∧ j.agenda = [.controls 0] := by decide +kernel

/-! InvariantKept -/

theorem witness_InvariantKept : State.reset.Inv ∧ State.reset.agenda = [] := by decide

/-! ResetState -/

theorem witness_ResetState : (0x280_0000 : Nat) < 2 ^ 32 := by decide

end
end

section
/-! PROOF. What an access leaves as it was, and the bytes that a write leaves (10 R340). -/

namespace Sys2Proof.Machine

/-! ## Cores by number -/

theorem State.setCore_core (s : State) (k j : Nat) (c : Core) : (s.setCore k c).core j = if j = k then c else s.core j := by
  by_cases h : j = k
  · rw [if_pos h, h, State.setCore_core_same]
  · rw [if_neg h, State.setCore_core_other _ _ _ _ (Ne.symm h)]

theorem State.core_of_cores {s t : State} (h : t.cores = s.cores) (j : Nat) : t.core j = s.core j := by
  unfold State.core; rw [h]

@[simp] theorem Core.setQueue_queue_same (c : Core) (q : Nat) (x : Queue) : (c.setQueue q x).queue q = x := Tab.get_put_same _ _ _ _
@[simp] theorem Core.setStream_stream_same (c : Core) (u : Nat) (x : Stream) : (c.setStream u x).stream u = x := Tab.get_put_same _ _ _ _
@[simp] theorem Core.setStream_queue (c : Core) (u q : Nat) (x : Stream) : (c.setStream u x).queue q = c.queue q := rfl
@[simp] theorem Core.setQueue_stream (c : Core) (q u : Nat) (x : Queue) : (c.setQueue q x).stream u = c.stream u := rfl

/-! ## What an access of bytes may change -/

/-- The core `c` with the bytes of `d` and their state. -/
def Core.withBytes (c d : Core) : Core := { c with scratch := d.scratch, sundef := d.sundef, spoison := d.spoison }

/-- `s` with the bytes of `t`, its hub registers, and what translations keep. -/
def State.withBytes (s t : State) : State :=
  { s with mem := t.mem, poison := t.poison, dead := t.dead, deadFrames := t.deadFrames, undef := t.undef, older := t.older
           cores := t.cores, cache := t.cache, walks := t.walks, jobs := t.jobs, ports := t.ports, lctls := t.lctls, pkg := t.pkg }

/-- `t` is `s` but for bytes, the registers of the hub, and what translations keep. -/
structure TouchesBytes (s t : State) : Prop where
  state : t = s.withBytes t
  core : ∀ j, t.core j = (s.core j).withBytes (t.core j)

namespace TouchesBytes

variable {s t u : State}

theorem refl (s : State) : TouchesBytes s s := ⟨rfl, fun _ => rfl⟩

theorem trans (h : TouchesBytes s t) (h' : TouchesBytes t u) : TouchesBytes s u :=
  ⟨h'.state.trans (congrArg (·.withBytes u) h.state), fun j => (h'.core j).trans (congrArg (·.withBytes (u.core j)) (h.core j))⟩

theorem modCore (s : State) (k : Nat) {f : Core → Core} (hf : f (s.core k) = (s.core k).withBytes (f (s.core k))) :
    TouchesBytes s (s.modCore k f) := by
  refine ⟨rfl, fun j => ?_⟩
  rw [State.modCore_eq, State.setCore_core]
  split
  · next h => rw [h]; exact hf
  · rfl

/-- Steps that each touch bytes only. -/
theorem foldl {α : Type} {f : State → α → State} (hf : ∀ s a, TouchesBytes s (f s a)) (l : List α) (s : State) :
    TouchesBytes s (l.foldl f s) :=
  List.foldlRecOn l f (motive := TouchesBytes s) (refl s) (fun b hb a _ => hb.trans (hf b a))

theorem cyc (h : TouchesBytes s t) : t.cyc = s.cyc := by rw [h.state]; rfl
theorem sup (h : TouchesBytes s t) : t.sup = s.sup := by rw [h.state]; rfl
theorem stream (h : TouchesBytes s t) (j u : Nat) : (t.core j).stream u = (s.core j).stream u := by rw [h.core j]; rfl
theorem queue (h : TouchesBytes s t) (j q : Nat) : (t.core j).queue q = (s.core j).queue q := by rw [h.core j]; rfl
theorem home (h : TouchesBytes s t) (j : Nat) : (t.core j).home = (s.core j).home := by rw [h.core j]; rfl
theorem rings (h : TouchesBytes s t) (j : Nat) : (t.core j).rings = (s.core j).rings := by rw [h.core j]; rfl

end TouchesBytes

theorem State.hubWrite_touches (s : State) (off v ones : Nat) : TouchesBytes s (s.hubWrite off v ones) := by
  unfold State.hubWrite State.portWrite
  dsimp only
  split_ifs <;> exact ⟨rfl, fun _ => rfl⟩

theorem State.write_touches (s : State) (pa : Nat) (bs : List Byte) : TouchesBytes s (s.write pa bs) := by
  unfold State.write
  split
  · exact s.hubWrite_touches _ _ _
  · exact ⟨rfl, fun _ => rfl⟩

theorem State.hubWrite_core (s : State) (off v ones j : Nat) : (s.hubWrite off v ones).core j = s.core j := by
  unfold State.hubWrite State.portWrite
  dsimp only
  split_ifs <;> rfl

theorem State.write_core (s : State) (pa : Nat) (bs : List Byte) (j : Nat) : (s.write pa bs).core j = s.core j := by
  unfold State.write
  split
  · exact s.hubWrite_core _ _ _ j
  · rfl

/-- Writes of memory keep the cores. -/
theorem State.writeRaw_core_of_mem {l : List (Loc × Byte)} (hl : ∀ e ∈ l, ∃ pa, e.1 = .mem pa) (s : State) (j : Nat) :
    (s.writeRaw l).core j = s.core j := by
  induction l generalizing s with
  | nil => rfl
  | cons e t ih =>
    obtain ⟨loc, b⟩ := e
    obtain ⟨pa, rfl⟩ : ∃ pa, loc = .mem pa := hl (loc, b) (by simp)
    unfold State.writeRaw
    dsimp only
    split
    · refine List.foldlRecOn _ _ (motive := fun t : State => t.core j = s.core j) (s.hubWrite_core _ _ _ j) (fun d hd e _ => ?_)
      obtain ⟨loc, b⟩ := e
      cases loc with
      | mem p => exact (d.write_core p [b] j).trans hd
      | far _ _ | scr _ _ => exact hd
    · exact (ih (fun e he => hl e (by simp [he])) _).trans (s.write_core pa [b] j)

theorem State.note_touches (s : State) (l : List Loc) : TouchesBytes s (s.note l) := ⟨rfl, fun _ => rfl⟩

theorem State.writeRaw_touches (l : List (Loc × Byte)) (s : State) : TouchesBytes s (s.writeRaw l) := by
  induction l generalizing s with
  | nil => exact .refl s
  | cons e t ih =>
    obtain ⟨loc, b⟩ := e
    cases loc with
    | mem pa =>
      unfold State.writeRaw
      dsimp only
      split
      · refine TouchesBytes.trans (s.hubWrite_touches _ _ _) (TouchesBytes.foldl (fun s e => ?_) _ _)
        obtain ⟨loc, b⟩ := e
        cases loc with
        | mem p => exact s.write_touches p [b]
        | far _ _ | scr _ _ => exact .refl s
      · exact (s.write_touches pa [b]).trans (ih _)
    | far _ _ => exact ih s
    | scr c off => exact TouchesBytes.trans (.modCore s c rfl) (ih _)

theorem State.writeLocs_touches (s : State) (l : List (Loc × Byte)) : TouchesBytes s (s.writeLocs l) :=
  (s.note_touches _).trans (State.writeRaw_touches _ _)

theorem State.keepJob_touches (s : State) (job i : Nat) (v : Word) : TouchesBytes s (s.keepJob job i v) := by
  unfold State.keepJob
  split <;> exact ⟨rfl, fun _ => rfl⟩

theorem State.fill_touches (s : State) (ag : Agent) (va : Nat) (tr : Tr) (leaf : Word) : TouchesBytes s (s.fill ag va tr leaf) :=
  ⟨rfl, fun _ => rfl⟩

/-- The translations of an access (12 R379, R380). -/
theorem commitTr_touches (s : State) (ag : Agent) (va : Nat) (need : Need) (tr : Tr) : TouchesBytes s (commitTr s ag va need tr) := by
  have marks : TouchesBytes s (if tr.marked need = tr.leaf ∨ tr.leafAt = 0 then s
      else s.writeDword tr.leafAt (s.dword tr.leafAt ||| 2 ^ 5 ||| (if need.wr then 2 ^ 6 else 0))) := by
    split
    · exact .refl s
    · exact s.write_touches _ _
  unfold commitTr
  dsimp only
  split
  · exact marks
  · exact (marks.trans (State.keepJob_touches _ _ _ _)).trans (State.fill_touches _ _ _ _ _)

theorem commitAccess_touches (s : State) (ag : Agent) (need : Need) (acc : Access) : TouchesBytes s (commitAccess s ag need acc) := by
  unfold commitAccess
  exact TouchesBytes.foldl (fun _ _ => commitTr_touches _ _ _ _ _) _ _

theorem Core.unheld_withBytes (c : Core) (task slot off n : Nat) : c.unheld task slot off n = c.withBytes (c.unheld task slot off n) := by
  unfold Core.unheld
  refine List.foldlRecOn _ _ (motive := fun d => d = c.withBytes d) rfl (fun d hd e _ => ?_)
  refine List.foldlRecOn _ _ (motive := fun d => d = c.withBytes d) hd (fun d hd i _ => ?_)
  dsimp only
  split
  · rw [hd]; rfl
  · exact hd

theorem State.unheld_touches (s : State) (task slot : Nat) (locs : List Loc) : TouchesBytes s (s.unheld task slot locs) := by
  unfold State.unheld
  split
  · exact .modCore s _ (Core.unheld_withBytes _ _ _ _ _)
  · exact .refl s

/-! ## States with the same bytes -/

/-- `t` holds the bytes of `s`. -/
structure SameBytes (s t : State) : Prop where
  tick : t.tick = s.tick
  mem : t.mem = s.mem
  undef : t.undef = s.undef
  core : ∀ j, (t.core j).scratch = (s.core j).scratch ∧ (t.core j).sundef = (s.core j).sundef

/-- Memory and the scratchpads are in canonical form. -/
structure State.BytesWf (s : State) : Prop where
  mem : Memory.wf s.mem = true
  core : ∀ j, Memory.wf (s.core j).scratch = true

theorem State.Inv.bytesWf {s : State} (h : s.Inv) : s.BytesWf := by
  obtain ⟨hm, -⟩ := h
  simp only [State.memOk, Bool.and_eq_true, List.all_eq_true] at hm
  obtain ⟨⟨hmem, hcores⟩, -⟩ := hm
  refine ⟨hmem, fun j => ?_⟩
  have listed : ∀ l : Tab Core, (∀ e ∈ l, Memory.wf e.2.scratch = true) → Memory.wf (Tab.get {} l j).scratch = true := by
    intro l
    induction l with
    | nil => intro _; rfl
    | cons e t ih =>
      intro h
      simp only [Tab.get]
      split
      · exact h e (by simp)
      · exact ih (fun e he => h e (by simp [he]))
  exact listed _ hcores

namespace SameBytes

variable {s t u : State}

theorem refl (s : State) : SameBytes s s := ⟨rfl, rfl, rfl, fun _ => ⟨rfl, rfl⟩⟩

theorem trans (h : SameBytes s t) (h' : SameBytes t u) : SameBytes s u :=
  ⟨h'.tick.trans h.tick, h'.mem.trans h.mem, h'.undef.trans h.undef,
    fun j => ⟨(h'.core j).1.trans (h.core j).1, (h'.core j).2.trans (h.core j).2⟩⟩

theorem of_cores (ht : t.tick = s.tick) (hm : t.mem = s.mem) (hu : t.undef = s.undef) (hc : t.cores = s.cores) : SameBytes s t :=
  ⟨ht, hm, hu, fun j => by rw [State.core_of_cores hc]; exact ⟨rfl, rfl⟩⟩

theorem modCore (s : State) (k : Nat) {f : Core → Core} (h : (f (s.core k)).scratch = (s.core k).scratch)
    (h' : (f (s.core k)).sundef = (s.core k).sundef) : SameBytes s (s.modCore k f) := by
  refine ⟨rfl, rfl, rfl, fun j => ?_⟩
  rw [State.modCore_eq, State.setCore_core]
  split
  · next e => rw [e]; exact ⟨h, h'⟩
  · exact ⟨rfl, rfl⟩

theorem foldl {α : Type} {f : State → α → State} (hf : ∀ s a, SameBytes s (f s a)) (l : List α) (s : State) :
    SameBytes s (l.foldl f s) :=
  List.foldlRecOn l f (motive := SameBytes s) (refl s) (fun b hb a _ => hb.trans (hf b a))

theorem bytesWf (h : SameBytes s t) (hs : s.BytesWf) : t.BytesWf :=
  ⟨h.mem ▸ hs.mem, fun j => (h.core j).1 ▸ hs.core j⟩

theorem locByte (h : SameBytes s t) {l : Loc} (hl : l.plain = true) : t.locByte l = s.locByte l := by
  cases l with
  | mem pa =>
    have hub : isHub pa = false := by simpa [Loc.plain] using hl
    simp only [State.locByte, State.byteAt, hub, h.tick, h.mem, h.undef, Bool.false_eq_true, if_false]
  | far _ _ => rfl
  | scr c off => simp only [State.locByte, Core.scrByte, h.tick, h.core c]

end SameBytes

/-- A denial keeps every byte and every core (12 R389). -/
theorem State.deny_sameBytes (s : State) (m t u : Nat) (rd wr : Bool) : SameBytes s (s.deny m t u rd wr) := by
  unfold State.deny
  split <;> exact .of_cores rfl rfl rfl rfl

@[simp] theorem State.deny_core (s : State) (m t u j : Nat) (rd wr : Bool) : (s.deny m t u rd wr).core j = s.core j := by
  unfold State.deny
  split <;> rfl

theorem State.unheld_sameBytes {s : State} {task slot : Nat} {locs : List Loc} (h : s.slotsHeld task slot locs) :
    SameBytes s (s.unheld task slot locs) := by
  unfold State.unheld
  split
  · next c off rest =>
    have held : (s.core c).unheld task slot off (Loc.scr c off :: rest).length = s.core c := by
      unfold Core.unheld
      refine List.foldlRecOn _ _ (motive := (· = s.core c)) rfl (fun d hd e he => ?_)
      refine List.foldlRecOn _ _ (motive := (· = s.core c)) hd (fun d hd i hi => ?_)
      dsimp only
      rw [if_neg, hd]
      simp only [Bool.and_eq_true, Bool.not_eq_true', decide_eq_true_eq]
      rintro ⟨⟨⟨hdecl, hlo⟩, hhi⟩, hnot⟩
      rw [h e he hdecl i (List.mem_range.mp hi) hlo hhi] at hnot
      cases hnot
    exact .modCore s c (congrArg Core.scratch held) (congrArg Core.sundef held)
  · exact .refl s

theorem State.slotsHeld_of_rings {s t : State} (h : ∀ c, (t.core c).rings = (s.core c).rings) {task slot : Nat} {locs : List Loc}
    (hs : s.slotsHeld task slot locs) : t.slotsHeld task slot locs := by
  unfold State.slotsHeld at hs ⊢
  split
  · next c off rest => rw [h c]; exact hs
  · trivial

/-! ## Bytes after a write -/

/-- The byte `b` at a location. -/
def State.putByte (s : State) (l : Loc) (b : Byte) : State :=
  match l with
  | .mem pa => s.write pa [b]
  | .far _ _ => s
  | .scr c off => s.modCore c (fun k => k.scrWrite off [b])

theorem State.writeRaw_cons (s : State) {l : Loc} (h : l.plain = true) (b : Byte) (t : List (Loc × Byte)) :
    s.writeRaw ((l, b) :: t) = (s.putByte l b).writeRaw t := by
  cases l with
  | mem pa =>
    have hub : ¬isHub pa = true := by simpa [Loc.plain] using h
    rw [State.writeRaw, if_neg hub]; rfl
  | far _ _ => rfl
  | scr c off => rfl

theorem inSpans_cutInterval (l : List (Nat × Nat)) (lo hi a : Nat) :
    inSpans (cutInterval l lo hi) a = (inSpans l a && !(decide (lo ≤ a) && decide (a < hi))) := by
  induction l with
  | nil => rfl
  | cons p t ih =>
    have piece : inSpans (if hi ≤ p.1 ∨ p.2 ≤ lo then [p]
        else (if p.1 < lo then [(p.1, lo)] else []) ++ (if hi < p.2 then [(hi, p.2)] else [])) a =
        ((decide (p.1 ≤ a) && decide (a < p.2)) && !(decide (lo ≤ a) && decide (a < hi))) := by
      rw [Bool.eq_iff_iff]
      split_ifs <;> simp [inSpans] <;> omega
    simp only [inSpans, cutInterval, List.flatMap_cons, List.any_append, List.any_cons] at ih piece ⊢
    rw [ih, piece, Bool.and_or_distrib_right]

theorem State.putByte_bytesWf {s : State} (h : s.BytesWf) {l : Loc} (hl : l.plain = true) (b : Byte) : (s.putByte l b).BytesWf := by
  cases l with
  | mem pa =>
    have hub : ¬isHub pa = true := by simpa [Loc.plain] using hl
    simp only [State.putByte, State.write, if_neg hub]
    exact ⟨Memory.wf_puts _ _ h.mem, h.core⟩
  | far _ _ => exact h
  | scr c off =>
    refine ⟨h.mem, fun j => ?_⟩
    rw [State.putByte, State.modCore_eq, State.setCore_core]
    split
    · exact Memory.wf_puts _ _ (h.core c)
    · exact h.core j

/-- A read, undefined in the intervals `u`, after the write of a byte. -/
theorem get_or_undefined_put {m : List Host.Cell} (h : Memory.wf m = true) (u : List (Nat × Nat)) (k j : Nat) (v free : Byte) :
    (if inSpans (cutInterval u k (k + 1)) j = true then free else Memory.get (Memory.puts m k [v]) j) =
      if j = k then v else if inSpans u j = true then free else Memory.get m j := by
  rw [inSpans_cutInterval, Memory.puts, Memory.puts, Memory.get_put k j v h]
  by_cases e : j = k
  · simp [e]
  · simp [e]

theorem State.putByte_locByte {s : State} (h : s.BytesWf) {l x : Loc} (hl : l.plain = true) (hx : x.plain = true) (b : Byte) :
    (s.putByte l b).locByte x = if x = l then b else s.locByte x := by
  cases l with
  | mem pa =>
    have hub : ¬isHub pa = true := by simpa [Loc.plain] using hl
    simp only [State.putByte, State.write, if_neg hub]
    cases x with
    | mem p =>
      have hubx : ¬isHub p = true := by simpa [Loc.plain] using hx
      simp only [State.locByte, State.byteAt, if_neg hubx, Loc.mem.injEq]
      exact get_or_undefined_put h.mem s.undef pa p b _
    | far _ _ | scr _ _ => rfl
  | far _ _ => cases hl
  | scr c off =>
    cases x with
    | mem _ | far _ _ => rfl
    | scr c' off' =>
      simp only [State.putByte, State.modCore_eq, State.locByte, State.setCore_core, State.setCore_tick, Loc.scr.injEq]
      by_cases e : c' = c
      · subst e
        simp only [if_true, true_and]
        exact get_or_undefined_put (h.core c') (s.core c').sundef off off' b _
      · simp only [e, if_false, false_and]

theorem State.writeRaw_bytesWf {l : List (Loc × Byte)} (hl : ∀ e ∈ l, e.1.plain = true) {s : State} (h : s.BytesWf) :
    (s.writeRaw l).BytesWf := by
  induction l generalizing s with
  | nil => exact h
  | cons e t ih =>
    rw [State.writeRaw_cons s (hl e (by simp))]
    exact ih (fun e he => hl e (by simp [he])) (State.putByte_bytesWf h (hl e (by simp)) _)

/-- A byte that is not written stays. -/
theorem State.writeRaw_locByte_of_not_mem {l : List (Loc × Byte)} (hl : ∀ e ∈ l, e.1.plain = true) {s : State} (h : s.BytesWf)
    {x : Loc} (hx : x.plain = true) (hn : ∀ e ∈ l, e.1 ≠ x) : (s.writeRaw l).locByte x = s.locByte x := by
  induction l generalizing s with
  | nil => rfl
  | cons e t ih =>
    have he := hl e (by simp)
    rw [State.writeRaw_cons s he, ih (fun e he => hl e (by simp [he])) (State.putByte_bytesWf h he _) (fun e he => hn e (by simp [he])),
      State.putByte_locByte h he hx, if_neg (Ne.symm (hn e (by simp)))]

/-- A byte that is written once. -/
theorem State.writeRaw_locByte_of_mem {l : List (Loc × Byte)} (hl : ∀ e ∈ l, e.1.plain = true) (nodup : (l.map (·.1)).Nodup)
    {s : State} (h : s.BytesWf) {x : Loc} {b : Byte} (hx : (x, b) ∈ l) : (s.writeRaw l).locByte x = b := by
  induction l generalizing s with
  | nil => cases hx
  | cons e t ih =>
    have he := hl e (by simp)
    have ht : ∀ e ∈ t, e.1.plain = true := fun e he => hl e (by simp [he])
    have hwf := State.putByte_bytesWf h he e.2
    obtain ⟨fresh, nodup⟩ := List.nodup_cons.mp nodup
    rw [State.writeRaw_cons s he]
    rcases List.mem_cons.mp hx with rfl | hx
    · rw [State.writeRaw_locByte_of_not_mem ht hwf he (fun e' h' eq => fresh (List.mem_map.mpr ⟨e', h', eq⟩)),
        State.putByte_locByte h he he, if_pos rfl]
    · exact ih ht nodup hwf hx

theorem State.note_sameBytes (s : State) (l : List Loc) : SameBytes s (s.note l) := .of_cores rfl rfl rfl rfl

theorem State.writeLocs_bytesWf {l : List (Loc × Byte)} (hl : ∀ e ∈ l, e.1.plain = true) {s : State} (h : s.BytesWf) :
    (s.writeLocs l).BytesWf := State.writeRaw_bytesWf hl ((s.note_sameBytes _).bytesWf h)

theorem State.writeLocs_locByte_of_not_mem {l : List (Loc × Byte)} (hl : ∀ e ∈ l, e.1.plain = true) {s : State} (h : s.BytesWf)
    {x : Loc} (hx : x.plain = true) (hn : ∀ e ∈ l, e.1 ≠ x) : (s.writeLocs l).locByte x = s.locByte x :=
  (State.writeRaw_locByte_of_not_mem hl ((s.note_sameBytes _).bytesWf h) hx hn).trans ((s.note_sameBytes _).locByte hx)

/-- The value of an access, byte by byte (00 R3). -/
theorem State.store_locByte {locs : List Loc} (hl : ∀ l ∈ locs, l.plain = true) (nodup : locs.Nodup) {s : State} (h : s.BytesWf)
    (v : Nat) {k : Nat} {l : Loc} (hk : locs[k]? = some l) : (s.store locs v).locByte l = BitVec.ofNat 8 (v / 256 ^ k) := by
  obtain ⟨hlt, hget⟩ := List.getElem?_eq_some_iff.mp hk
  have fst : (locs.zip (toBytes locs.length v)).map (·.1) = locs := List.map_fst_zip (by rw [toBytes_length])
  have hplain : ∀ e ∈ locs.zip (toBytes locs.length v), e.1.plain = true := fun e he => hl _ (List.of_mem_zip he).1
  have written : (l, BitVec.ofNat 8 (v / 256 ^ k)) ∈ locs.zip (toBytes locs.length v) :=
    List.mem_of_getElem? (i := k) (List.getElem?_zip_eq_some.mpr ⟨hk, toBytes_get _ v k hlt⟩)
  exact State.writeRaw_locByte_of_mem hplain (fst.symm ▸ nodup) ((s.note_sameBytes _).bytesWf h) written

end Sys2Proof.Machine
end

section
/-! PROOF. Stream units: what an element leaves of its unit, its queue and the bytes it writes (08 R256 to R260, 12 R393). -/

namespace Sys2Proof.Machine

/-! ## Low-water records (12 R392, R393) -/

/-- Where the record of slot `u` of a core stands in the low-water table. -/
def State.lowRecordAt (s : State) (core u : Nat) : Nat := s.sup.lwmtab * 2 ^ 22 + 32 * (32 * core + u)

/-- The core with a record that it keeps back. -/
def Core.keepLow (r : LowMark) (c : Core) : Core := { c with lows := c.lows ++ [r] }

/-- A low-water record is kept back, at once or after a denial, or its 32 bytes are written. -/
theorem State.lowWater_cases (s : State) (core : Nat) (r : LowMark) :
    (∃ s', SameBytes s s' ∧ (∀ j, s'.core j = s.core j) ∧ s.lowWater core r = s'.modCore core (Core.keepLow r)) ∨
    (∃ l, (∀ e ∈ l, ∃ k < 32, e.1 = .mem (s.lowRecordAt core r.slot + k)) ∧ s.lowWater core r = s.writeLocs l) := by
  unfold State.lowWater State.lowRecordAt
  extract_lets at_ record later
  split
  · exact .inl ⟨s, .refl s, fun _ => rfl, rfl⟩
  · split
    · next t u _ => exact .inl ⟨_, s.deny_sameBytes core t u false true, fun j => s.deny_core core t u j false true, rfl⟩
    · refine .inr ⟨_, fun e he => ?_, rfl⟩
      obtain ⟨⟨k, b⟩, hk, rfl⟩ := List.mem_map.mp he
      exact ⟨k, List.mem_range.mp (List.of_mem_zip hk).1, rfl⟩

/-- Of the cores, a low-water record changes only the list of those kept back. -/
theorem State.lowWater_core (s : State) (core : Nat) (r : LowMark) (j : Nat) :
    (s.lowWater core r).core j = { s.core j with lows := ((s.lowWater core r).core j).lows } := by
  obtain ⟨s', -, hcore, e⟩ | ⟨l, hl, e⟩ := s.lowWater_cases core r
  · rw [e, State.modCore_eq, State.setCore_core, hcore, hcore]
    split
    · next h => rw [h]; rfl
    · rfl
  · have unchanged : (s.writeLocs l).core j = s.core j :=
      State.writeRaw_core_of_mem (fun e he => let ⟨_, _, h⟩ := hl e he; ⟨_, h⟩) _ j
    rw [e, unchanged]

/-- The location lies outside [lo, lo + n) of memory. -/
def Loc.Outside (l : Loc) (lo n : Nat) : Prop := ∀ pa, l = .mem pa → pa < lo ∨ lo + n ≤ pa

theorem State.lowWater_locByte {s : State} (h : s.BytesWf) {core : Nat} {r : LowMark} (hub : s.lowRecordAt core r.slot + 32 ≤ hubBase)
    {l : Loc} (hl : l.plain = true) (out : l.Outside (s.lowRecordAt core r.slot) 32) :
    (s.lowWater core r).locByte l = s.locByte l := by
  obtain ⟨s', hs, -, e⟩ | ⟨w, hw, e⟩ := s.lowWater_cases core r
  · rw [e]
    exact (hs.trans (.modCore s' core rfl rfl)).locByte hl
  · rw [e]
    refine State.writeLocs_locByte_of_not_mem (fun e he => ?_) h hl (fun e he eq => ?_)
    · obtain ⟨k, hk, eq⟩ := hw e he
      have below : ¬isHub (s.lowRecordAt core r.slot + k) = true := by simp [isHub]; omega
      rw [eq]; simpa [Loc.plain] using below
    · obtain ⟨k, hk, eq'⟩ := hw e he
      have := out _ (eq.symm.trans eq')
      omega

/-! ## Steps of a unit -/

/-- From `s` to `t` unit `u` of a core becomes `y`; the core's queues stay, and so do the bytes outside the unit's low-water record. -/
structure UnitStep (core u : Nat) (s t : State) (y : Stream) : Prop where
  stream : (t.core core).stream u = y
  queue : ∀ q, (t.core core).queue q = (s.core core).queue q
  bytes : s.BytesWf → s.lowRecordAt core u + 32 ≤ hubBase →
    ∀ l : Loc, l.plain = true → l.Outside (s.lowRecordAt core u) 32 → t.locByte l = s.locByte l

namespace UnitStep

variable {core u : Nat} {s t : State} {y : Stream}

theorem refl (core u : Nat) (s : State) : UnitStep core u s s ((s.core core).stream u) := ⟨rfl, fun _ => rfl, fun _ _ _ _ _ => rfl⟩

theorem setStream_sameBytes (s : State) (core u : Nat) (f : Core → Stream) :
    SameBytes s (s.modCore core (fun c => c.setStream u (f c))) := .modCore s core rfl rfl

theorem of_setStream {f : Core → Stream} (h : UnitStep core u (s.modCore core (fun c => c.setStream u (f c))) t y) :
    UnitStep core u s t y := by
  have same := setStream_sameBytes s core u f
  refine ⟨h.stream, fun q => (h.queue q).trans ?_, fun hs hub l hl out => (h.bytes (same.bytesWf hs) hub l hl out).trans (same.locByte hl)⟩
  rw [State.modCore_eq, State.setCore_core_same, Core.setStream_queue]

theorem then_setStream (h : UnitStep core u s t y) (f : Core → Stream) :
    UnitStep core u s (t.modCore core (fun c => c.setStream u (f c))) (f (t.core core)) := by
  have same := setStream_sameBytes t core u f
  refine ⟨?_, fun q => ?_, fun hs hub l hl out => (same.locByte hl).trans (h.bytes hs hub l hl out)⟩
  · rw [State.modCore_eq, State.setCore_core_same, Core.setStream_stream_same]
  · rw [State.modCore_eq, State.setCore_core_same, Core.setStream_queue, h.queue]

theorem setStream (core u : Nat) (s : State) (f : Core → Stream) :
    UnitStep core u s (s.modCore core (fun c => c.setStream u (f c))) (f (s.core core)) := (refl core u s).then_setStream f

end UnitStep

theorem State.lowWater_step (s : State) (core : Nat) (r : LowMark) :
    UnitStep core r.slot s (s.lowWater core r) ((s.core core).stream r.slot) := by
  refine ⟨?_, fun q => ?_, fun hs hub l hl out => State.lowWater_locByte hs hub hl out⟩ <;> rw [s.lowWater_core core r core] <;> rfl

theorem State.streamWindow_step (s : State) (core u : Nat) (x : Stream) (opened : Bool) :
    UnitStep core u s (s.streamWindow core u x opened) { (s.core core).stream u with win := opened } := by
  have h := s.lowWater_step core ⟨u, x.low, x.highest, opened, handleJob (s.core core).home⟩
  have := h.then_setStream (fun c => { c.stream u with win := opened })
  rw [h.stream] at this
  exact this

theorem State.shutWindow_step (s : State) (core u : Nat) :
    UnitStep core u s (s.shutWindow core u) { (s.core core).stream u with win := false } := by
  unfold State.shutWindow
  dsimp only
  split
  · exact s.streamWindow_step core u _ false
  · next h =>
    have shut : { (s.core core).stream u with win := false } = (s.core core).stream u := by
      rw [← Bool.eq_false_iff.mpr h]
    rw [shut]
    exact .refl core u s

/-- A unit that stops at its element boundary. -/
def Stream.halted (x : Stream) : Stream :=
  { x with state := if x.discard then .idle else .stopped, away := none, got := none, stopping := false, discard := false, win := false }

theorem haltStream_step (s : State) (core u : Nat) : UnitStep core u s (haltStream s core u) ((s.core core).stream u).halted := by
  have h := State.shutWindow_step (s.modCore core (fun c => c.setStream u
    { c.stream u with state := if (c.stream u).discard then .idle else .stopped, away := none, got := none, stopping := false
                      discard := false })) core u
  rw [(UnitStep.setStream core u s _).stream] at h
  exact h.of_setStream

/-- A unit whose element NEXT has been performed, before it stops or its record moves. -/
def Stream.performed (x : Stream) : Stream :=
  { x with next := x.next + 1, away := none, got := none, state := if x.next + 1 < x.total then .running else .idle }

/-- A unit past element NEXT (08 R256): idle after the last one, halted when a stop awaited this one, else running, with its record opened
anew when its low-water page has moved. -/
def Stream.advanced (x : Stream) : Stream :=
  let y := { x with next := x.next + 1, away := none, got := none, stopping := false }
  let moved : Bool := y.low.toNat / 4096 != x.low.toNat / 4096
  if x.next + 1 < x.total then
    (if x.stopping = true then { y with state := if x.discard = true then .idle else .stopped, discard := false, win := false }
     else { y with state := .running, win := moved || x.win })
  else { y with state := .idle, discard := false, win := false }

theorem Stream.advanced_last {x : Stream} (h : ¬x.next + 1 < x.total) :
    x.advanced = { x.performed with stopping := false, discard := false, win := false } := by
  simp only [Stream.advanced, Stream.performed, if_neg h]

theorem Stream.advanced_stopping {x : Stream} (h : x.next + 1 < x.total) (stop : x.stopping = true) :
    x.advanced = x.performed.halted := by
  simp only [Stream.advanced, Stream.performed, Stream.halted, if_pos h, if_pos stop]

theorem Stream.advanced_running {x : Stream} (h : x.next + 1 < x.total) (stop : x.stopping = false) :
    x.advanced = { x.performed with win := x.performed.low.toNat / 4096 != x.low.toNat / 4096 || x.win } := by
  have low : x.performed.low = Stream.low { x with next := x.next + 1, away := none, got := none, stopping := false } := rfl
  rw [low]
  simp only [Stream.advanced, Stream.performed, if_pos h, stop, Bool.false_eq_true, if_false]

theorem elementDone_eq (s : State) (core u : Nat) :
    elementDone s core u =
      let x := (s.core core).stream u
      let t := s.modCore core (fun c => c.setStream u x.performed)
      if x.performed.state = .idle then
        (t.streamWindow core u x false).modCore core (fun c => c.setStream u { c.stream u with stopping := false, discard := false })
      else if x.stopping then haltStream t core u
      else if x.performed.low.toNat / 4096 ≠ x.low.toNat / 4096 then t.streamWindow core u x.performed true
      else t := rfl

theorem elementDone_step (s : State) (core u : Nat) : UnitStep core u s (elementDone s core u) ((s.core core).stream u).advanced := by
  rw [elementDone_eq]
  generalize (s.core core).stream u = x
  have done := UnitStep.setStream core u s (fun _ => x.performed)
  have window := State.streamWindow_step (s.modCore core (fun c => c.setStream u x.performed)) core u
  have halt := haltStream_step (s.modCore core (fun c => c.setStream u x.performed)) core u
  simp only [done.stream] at window halt
  by_cases more : x.next + 1 < x.total
  · have running : ¬x.performed.state = .idle := by simp [Stream.performed, more]
    dsimp only
    rw [if_neg running]
    cases stop : x.stopping with
    | true =>
      rw [if_pos rfl, Stream.advanced_stopping more stop]
      exact halt.of_setStream
    | false =>
      rw [if_neg Bool.false_ne_true, Stream.advanced_running more stop]
      by_cases moved : x.performed.low.toNat / 4096 = x.low.toNat / 4096
      · rw [if_neg (not_not_intro moved), bne_eq_false_iff_eq.mpr moved]
        exact done
      · rw [if_pos moved, bne_iff_ne.mpr moved]
        exact (window x.performed true).of_setStream
  · have idle : x.performed.state = .idle := by simp [Stream.performed, more]
    have closed := (window x false).then_setStream (fun c => { c.stream u with stopping := false, discard := false })
    rw [(window x false).stream] at closed
    dsimp only
    rw [if_pos idle, Stream.advanced_last more]
    exact closed.of_setStream

/-! ## Elements read and written (08 R256) -/

/-- The value of an element is pushed: the unit goes on, and its queue holds the value as its newest entry. -/
theorem pushElement_leaves {s base : State} (h : TouchesBytes s base) (core u v : Nat) (poison : Bool) :
    let x := (s.core core).stream u
    let qu := (s.core core).queue x.q
    let t := pushElement base core u v poison
    (t.core core).stream u = x.advanced ∧
      (t.core core).queue x.q = { qu with entries := qu.entries ++ [⟨⟨0, poison, word v⟩, s.cyc + 1, 0⟩] } := by
  have step := elementDone_step (base.modCore core (fun c => c.setQueue ((base.core core).stream u).q
    ((c.queue ((base.core core).stream u).q).push { tok := ⟨0, poison, word v⟩, ready := base.cyc + 1 }))) core u
  refine ⟨step.stream.trans ?_, (step.queue _).trans ?_⟩
  · rw [State.modCore_eq, State.setCore_core_same, Core.setQueue_stream, h.stream]
  · rw [State.modCore_eq, State.setCore_core_same, h.stream, Core.setQueue_queue_same, h.queue, h.cyc]
    rfl

/-- Writing an entry touches bytes, then the unit goes on; the bytes written are those of its data. -/
theorem writeElement_cases (s : State) (core u : Nat) (locs : List Loc) (e : QEntry) :
    ∃ b, writeElement s core u locs e = elementDone b core u ∧ TouchesBytes s b ∧
      (s.BytesWf → locs.Nodup → (∀ l ∈ locs, l.plain = true) →
        s.slotsHeld (s.core core).home ((s.core core).stream u).owner locs →
        b.BytesWf ∧ ∀ (k : Nat) (l : Loc), locs[k]? = some l → b.locByte l = BitVec.ofNat 8 (e.tok.data.toNat / 256 ^ k)) := by
  generalize task : (s.core core).home = home
  generalize slot : ((s.core core).stream u).owner = owner
  have stored := s.writeLocs_touches (locs.zip (toBytes locs.length e.tok.data.toNat))
  have unheld := State.unheld_touches (s.store locs e.tok.data.toNat) home owner locs
  -- the poison of the entry, which changes no byte
  obtain ⟨b, hb, touched, same⟩ : ∃ b, writeElement s core u locs e = elementDone b core u ∧
      TouchesBytes ((s.store locs e.tok.data.toNat).unheld home owner locs) b ∧
      SameBytes ((s.store locs e.tok.data.toNat).unheld home owner locs) b := by
    refine ⟨_, by rw [writeElement, task, slot], ?_, ?_⟩
    · split
      · refine TouchesBytes.foldl (fun s l => ?_) _ _
        cases l with
        | mem _ => exact ⟨rfl, fun _ => rfl⟩
        | far _ _ => exact .refl s
        | scr c _ => exact .modCore s c rfl
      · exact .refl _
    · split
      · refine SameBytes.foldl (fun s l => ?_) _ _
        cases l with
        | mem _ => exact .of_cores rfl rfl rfl rfl
        | far _ _ => exact .refl s
        | scr c _ => exact .modCore s c rfl rfl
      · exact .refl _
  refine ⟨b, hb, (stored.trans unheld).trans touched, fun wf nodup plain held => ?_⟩
  have same := (State.unheld_sameBytes (State.slotsHeld_of_rings stored.rings held)).trans same
  refine ⟨same.bytesWf (State.writeLocs_bytesWf (fun e he => plain _ (List.of_mem_zip he).1) wf), fun k l hk => ?_⟩
  rw [same.locByte (plain l (List.mem_of_getElem? hk))]
  exact State.store_locByte plain nodup wf _ hk

/-- The head of the queue is written: the unit goes on, its queue loses the head, and the bytes are those of the entry's data, but where
the unit's low-water record lies. -/
theorem popElement_leaves {s base : State} (h : TouchesBytes s base) (core u : Nat) (locs : List Loc) (e : QEntry) :
    let x := (s.core core).stream u
    let qu := (s.core core).queue x.q
    let t := popElement base core u locs e
    (t.core core).stream u = x.advanced ∧ (t.core core).queue x.q = { qu with entries := qu.entries.tail } ∧
      (base.BytesWf → locs.Nodup → (∀ l ∈ locs, l.plain = true) → base.slotsHeld (s.core core).home x.owner locs →
        s.lowRecordAt core u + 32 ≤ hubBase → (∀ l ∈ locs, l.Outside (s.lowRecordAt core u) 32) →
        ∀ (k : Nat) (l : Loc), locs[k]? = some l → t.locByte l = BitVec.ofNat 8 (e.tok.data.toNat / 256 ^ k)) := by
  dsimp only
  generalize hp : base.modCore core (fun c => c.setQueue ((base.core core).stream u).q (c.queue ((base.core core).stream u).q).pop) = p
  have core_p : p.core core = (base.core core).setQueue ((base.core core).stream u).q ((base.core core).queue ((base.core core).stream u).q).pop := by
    rw [← hp, State.modCore_eq, State.setCore_core_same]
  obtain ⟨b, hb, touched, bytes⟩ := writeElement_cases p core u locs e
  have step := elementDone_step b core u
  have popped : popElement base core u locs e = elementDone b core u := by rw [← hb, ← hp]; rfl
  rw [popped]
  refine ⟨step.stream.trans ?_, (step.queue _).trans ?_, fun wf nodup plain held hub out k l hk => ?_⟩
  · rw [touched.stream, core_p, Core.setQueue_stream, h.stream]
  · rw [touched.queue, core_p, h.stream, Core.setQueue_queue_same, h.queue]
    rfl
  · have same : SameBytes base p := hp ▸ .modCore base core rfl rfl
    have rings (c : Nat) : (p.core c).rings = (base.core c).rings := by
      rw [← hp, State.modCore_eq, State.setCore_core]
      split
      · next here => rw [here]; rfl
      · rfl
    have sup : b.sup = s.sup := touched.sup.trans ((congrArg State.sup hp).symm.trans h.sup)
    have record : b.lowRecordAt core u = s.lowRecordAt core u := by unfold State.lowRecordAt; rw [sup]
    have owner : ((p.core core).stream u).owner = ((s.core core).stream u).owner := by rw [core_p, Core.setQueue_stream, h.stream]
    have home : (p.core core).home = (s.core core).home := by rw [core_p]; exact h.home core
    obtain ⟨wf, written⟩ := bytes (same.bytesWf wf) nodup plain (by rw [owner, home]; exact State.slotsHeld_of_rings rings held)
    have mem := List.mem_of_getElem? hk
    rw [← record] at hub out
    rw [step.bytes wf hub l (plain l mem) (out l mem)]
    exact written k l hk

theorem withholdElement_eq {s : State} {core u : Nat} (h : ((s.core core).stream u).stopping = false) (cause : Nat) (v : Word) :
    let x := (s.core core).stream u
    withholdElement s core u cause v =
      s.setCore core (((s.core core).setQueue x.q (((s.core core).queue x.q).giveBack u)).setStream u { x with
        state := .withholding, cause, tval := v, away := none, got := none, fail := if x.state = .withholding then x.fail else s.cyc }) := by
  simp only [withholdElement, State.modCore_eq, State.setCore_core_same, Core.setQueue_stream, h, Bool.false_eq_true, if_false,
    State.setCore_setCore, State.setCore_cyc]

/-! ## STREAM_ELEMENT -/

theorem Stream.busy_iff (x : Stream) : x.busy = true ↔ x.state = .running ∨ x.state = .withholding := by
  simp [Stream.busy]

theorem exec_streamElement (core u : Nat) (s : State) : exec (.streamElement core u) s = execStreamElement core u s := rfl

/-- A frozen core, one with low-water records to store, and a unit that is not busy or waits for another package do nothing. -/
theorem exec_streamElement_still {s : State} {core u : Nat} {x : Stream} (hx : (s.core core).stream u = x)
    (h : s.frozen.contains core = true ∨ (s.core core).lows ≠ [] ∨ x.state = .idle ∨ x.state = .stopped ∨
      (x.away.isSome = true ∧ x.got = none)) : exec (.streamElement core u) s = .next s := by
  rw [exec_streamElement, execStreamElement, hx]
  dsimp only
  split
  · rfl
  · next acts =>
    simp only [Bool.or_eq_true, not_or, bne_iff_ne, ne_eq, not_not, Bool.not_eq_true', Bool.not_eq_false, x.busy_iff] at acts
    obtain ⟨⟨thawed, lows⟩, busy⟩ := acts
    have away : x.away.isSome = true ∧ x.got = none := by
      rcases h with h | h | h | h | h
      · exact absurd h thawed
      · exact absurd lows h
      · simp [h] at busy
      · simp [h] at busy
      · exact h
    rw [if_neg (by simp [away.2]), if_pos away.1]

section
variable {s : State} {core u : Nat} {x : Stream} (hx : (s.core core).stream u = x)
  (acts : s.frozen.contains core = false ∧ (s.core core).lows = [] ∧ (x.state = .running ∨ x.state = .withholding))
include hx acts

/-- What came back from another package is pushed once the queue has room. -/
theorem exec_streamElement_lands {bs : List PByte} (got : x.got = some bs) :
    exec (.streamElement core u) s = .next (if ((s.core core).queue x.q).isFull then s
      else pushElement s core u (ofBytes (bs.map (·.1))) (bs.any (·.2))) := by
  obtain ⟨thawed, lows, busy⟩ := acts
  rw [exec_streamElement, execStreamElement, hx]
  simp only [thawed, lows, x.busy_iff.mpr busy, got, landElement, hx]
  rfl

/-- An attempt at element NEXT: what the unit does by the outcome of its checks, except where a denial freezes the core and where the
element lies in another package. -/
theorem exec_streamElement_attempts (away : x.away = none) (got : x.got = none) :
    let need := if x.store then needWrite else needRead
    let check := checkAccess s (unitAgent s core 0 (1 + u)) (x.addr x.next) (sizeBytes x.esize) need true
    let qu := (s.core core).queue x.q
    let head : Option QEntry := if s.headSent core x.q then none else qu.head s.cyc
    ∃ t, exec (.streamElement core u) s = .next t ∧
      (∀ c v, check = .error (.trap c v) → t = withholdElement s core u c v) ∧
      (∀ acc, check = .ok acc → rwsBreach false need acc = true → t = withholdElement s core u PRIV 0) ∧
      (∀ acc, check = .ok acc → rwsBreach false need acc = false → acc.far = none →
        let base := commitAccess s (unitAgent s core 0 (1 + u)) need acc
        (x.store = false → t = if qu.isFull then elementPasses s core u
          else pushElement base core u (base.valueSeen acc.locs) (acc.poisoned base false)) ∧
        (x.store = true → head = none → t = elementPasses s core u) ∧
        (x.store = true → ∀ e, head = some e → t = if e.tok.kind ≠ 0 then withholdElement s core u 0x0D (x.addr x.next)
          else popElement base core u acc.locs e)) := by
  obtain ⟨thawed, lows, busy⟩ := acts
  dsimp only
  rw [exec_streamElement, execStreamElement, hx]
  dsimp only
  generalize (if x.store = true then needWrite else needRead) = need
  refine ⟨_, rfl, fun c v fails => ?_, fun acc passes breach => ?_,
    fun acc passes allowed near => ⟨fun load => ?_, fun store empty => ?_, fun store e head => ?_⟩⟩
  · simp only [thawed, lows, x.busy_iff.mpr busy, got, away, fails]
    rfl
  · simp only [thawed, lows, x.busy_iff.mpr busy, got, away, passes, breach]
    rfl
  · simp only [thawed, lows, x.busy_iff.mpr busy, got, away, passes, allowed, near, load]
    rfl
  · simp only [thawed, lows, x.busy_iff.mpr busy, got, away, passes, allowed, near, store, empty]
    rfl
  · simp only [thawed, lows, x.busy_iff.mpr busy, got, away, passes, allowed, near, store, head]
    rfl

end

theorem Queue.isFull_of_le {q : Queue} (h : q.cap ≤ q.taken) : q.isFull = true := decide_eq_true h
theorem Queue.not_isFull_of_lt {q : Queue} (h : q.taken < q.cap) : ¬q.isFull = true := by simpa [Queue.isFull] using h

theorem elementPasses_eq (s : State) (core u : Nat) :
    elementPasses s core u = s.setCore core ((s.core core).setStream u { (s.core core).stream u with state := .running }) := rfl

/-- Settles O29: one attempt at element NEXT by the outcome of its checks, and what pushing or writing the element leaves. -/
theorem streamElementResults : Obligations.StreamElementResults := by
  unfold Obligations.StreamElementResults
  intro s core u x i ea w ag need qu withheld advances pushes waits head busy
  refine ⟨exec_streamElement_still rfl, fun bs acts got => ?_, fun acts away got => ?_⟩
  · have lands := exec_streamElement_lands rfl acts got
    refine ⟨fun full => ?_, fun room => ?_⟩
    · rw [lands, if_pos (Queue.isFull_of_le full)]
    · rw [if_neg (Queue.not_isFull_of_lt room)] at lands
      exact ⟨_, lands, pushElement_leaves (.refl s) core u _ _⟩
  · obtain ⟨t, performs, traps, breaches, passes⟩ := exec_streamElement_attempts rfl acts away got
    have withholds (live : x.stopping = false) {cause : Nat} {v : Word} (h : t = withholdElement s core u cause v) : withheld cause v :=
      performs.trans (congrArg Host.Outcome.next (h.trans (withholdElement_eq live cause v)))
    have idles (h : t = elementPasses s core u) : waits :=
      performs.trans (congrArg Host.Outcome.next (h.trans (elementPasses_eq s core u)))
    refine ⟨fun live cause v fails => withholds live (traps cause v fails), fun live acc ok breach => withholds live (breaches acc ok breach),
      fun acc ok near allowed => ?_⟩
    obtain ⟨loads, empty, stores⟩ := passes acc ok allowed near
    have touched := commitAccess_touches s ag need acc
    refine ⟨fun load => ⟨fun full => ?_, fun room => ?_⟩,
      fun store => ⟨fun absent => idles (empty store absent), fun e present => ⟨fun odd live => ?_, fun val => ?_⟩⟩⟩
    · exact idles ((loads load).trans (if_pos (Queue.isFull_of_le full)))
    · have pushed := (loads load).trans (if_neg (Queue.not_isFull_of_lt room))
      exact ⟨t, performs, pushed ▸ pushElement_leaves touched core u _ _⟩
    · exact withholds live ((stores store e present).trans (if_pos odd))
    · have popped := (stores store e present).trans (if_neg (not_not_intro val))
      obtain ⟨stream, queue, bytes⟩ := popElement_leaves touched core u acc.locs e
      rw [← popped] at stream queue bytes
      refine ⟨t, performs, stream, queue, fun _ nodup plain inv hub held out => ?_⟩
      exact bytes inv.bytesWf nodup (List.all_eq_true.mp plain) held hub (fun l hl pa h => out pa (h ▸ hl))

end Sys2Proof.Machine
end

section
/-! PROOF. The management registers and commands (17 R464 to R471), and what an uncorrectable error strikes (13 R429). -/

namespace Sys2Proof.Machine

/-! ## The hub registers as laid out (17 R471) -/

theorem State.hubDword_status (s : State) :
    s.hubDword 0 = s.pkg.svcs * 16 + (if s.pkg.overcap then 8 else 0) + (if s.pkg.trip then 4 else 0) +
      (if s.pkg.safe then 2 else 0) + (if s.pkg.ready then 1 else 0) := by
  have unit (x : Bool) : x.toNat = if x then 1 else 0 := by cases x <;> rfl
  simp [State.hubDword, unit]

theorem State.hubDword_pwrcap (s : State) : s.hubDword 8 = s.pkg.pwrcap := rfl
theorem State.hubDword_power (s : State) : s.hubDword 0x10 = s.pkg.peak * 2 ^ 32 + s.pkg.avg := rfl
theorem State.hubDword_errors (s : State) : s.hubDword 0x300 = s.pkg.uncorr * 2 ^ 32 + s.pkg.corr := rfl

theorem State.hubDword_vctl (s : State) {d : Nat} (h : d < 8) :
    s.hubDword (0x100 + 8 * d) = (Tab.get {} s.pkg.vctl d).cur * 2 ^ 16 + (Tab.get {} s.pkg.vctl d).hi * 2 ^ 8 +
      (Tab.get {} s.pkg.vctl d).lo := by
  have hd : (0x100 + 8 * d - 0x100) / 8 = d := by omega
  unfold State.hubDword
  rw [if_neg (by omega), if_neg (by omega), if_neg (by omega), if_pos (by omega), hd]

theorem State.hubDword_temp (s : State) {d : Nat} (h : d < 9) : s.hubDword (0x200 + 8 * d) = Tab.get 0 s.pkg.temp d := by
  have hd : (0x200 + 8 * d - 0x200) / 8 = d := by omega
  unfold State.hubDword
  rw [if_neg (by omega), if_neg (by omega), if_neg (by omega), if_neg (by omega), if_pos (by omega), hd]

/-- A 32-bit counter field that takes the upper half of a dword. -/
theorem upper_half_lt (v : Word) : v.toNat / 2 ^ 32 % 2 ^ 32 = v.toNat / 2 ^ 32 := by
  have := v.isLt
  omega

theorem State.hubWrite_status (s : State) (v : Word) :
    s.hubWrite 0 v.toNat v.toNat = { s with pkg := { s.pkg with trip := s.pkg.trip && !(v.getLsbD 2) } } := rfl

theorem State.hubWrite_pwrcap (s : State) (v : Word) :
    s.hubWrite 8 v.toNat v.toNat = { s with pkg := { s.pkg with pwrcap := min (v.toNat % 2 ^ 16) 30000 } } := rfl

theorem State.hubWrite_power (s : State) (v : Word) :
    s.hubWrite 0x10 v.toNat v.toNat =
      { s with pkg := { s.pkg with peak := s.pkg.peak &&& (2 ^ 32 - 1 - v.toNat / 2 ^ 32) } } := by
  rw [← upper_half_lt v]; rfl

theorem State.hubWrite_errors (s : State) (v : Word) :
    s.hubWrite 0x300 v.toNat v.toNat =
      { s with pkg := { s.pkg with uncorr := s.pkg.uncorr &&& (2 ^ 32 - 1 - v.toNat / 2 ^ 32)
                                   corr := s.pkg.corr &&& (2 ^ 32 - 1 - v.toNat % 2 ^ 32) } } := by
  rw [← upper_half_lt v]; rfl

theorem State.hubWrite_vctl (s : State) (v : Nat) {d : Nat} (h : d < 8) :
    s.hubWrite (0x100 + 8 * d) v v =
      { s with pkg := { s.pkg with vctl := Tab.put s.pkg.vctl d ((Tab.get {} s.pkg.vctl d).write v) } } := by
  have hd : (0x100 + 8 * d - 0x100) / 8 = d := by omega
  unfold State.hubWrite
  rw [if_neg (by omega), if_neg (by omega), if_neg (by omega), if_pos (by omega), hd]

theorem State.hubWrite_temp (s : State) (v : Nat) {d : Nat} (h : d < 9) : s.hubWrite (0x200 + 8 * d) v v = s := by
  unfold State.hubWrite
  rw [if_neg (by omega), if_neg (by omega), if_neg (by omega), if_neg (by omega), if_neg (by omega), if_neg (by omega)]

/-- A mask of `n` ones from bit `lo` on keeps that field of a number. -/
theorem and_fieldMask (x lo n : Nat) : x &&& 2 ^ lo * (2 ^ n - 1) = 2 ^ lo * (x / 2 ^ lo % 2 ^ n) := by
  apply Nat.eq_of_testBit_eq
  intro i
  simp only [Nat.testBit_and, Nat.testBit_two_pow_mul, Nat.testBit_two_pow_sub_one, Nat.testBit_mod_two_pow, Nat.testBit_div_two_pow]
  by_cases h : lo ≤ i
  · simp [h, Bool.and_comm]
  · simp [h]

/-- A field above what a lower mask keeps. -/
theorem and_fieldMask_add (x lo n m : Nat) (hm : m < 2 ^ lo) :
    x &&& (2 ^ lo * (2 ^ n - 1) + m) = 2 ^ lo * (x / 2 ^ lo % 2 ^ n) + (x &&& m) := by
  rw [Nat.two_pow_add_eq_or_of_lt hm, Nat.and_or_distrib_left, and_fieldMask,
    ← Nat.two_pow_add_eq_or_of_lt (Nat.lt_of_le_of_lt Nat.and_le_right hm)]

/-- What a launch port keeps of a dword of its record: the Reserved fields read zero (11 R343 to R345). -/
theorem and_portFields (v : Word) {i : Nat} (h : i < 14) :
    v &&& portFields i = word (if i = 3 then v.toNat % 2 ^ 7 + v.toNat / 2 ^ 8 % 4 * 2 ^ 8
      else if i = 10 ∨ i = 12 then v.toNat / 2 ^ 8 % 2 ^ 8 * 2 ^ 8 + v.toNat / 2 ^ 24 % 2 ^ 24 * 2 ^ 24 + v.toNat / 2 ^ 56 * 2 ^ 56
      else v.toNat) := by
  have hv := v.isLt
  unfold portFields
  apply BitVec.eq_of_toNat_eq
  rw [BitVec.toNat_and, word, BitVec.toNat_ofNat]
  split
  · have low : v.toNat &&& (2 ^ 7 - 1) = v.toNat % 2 ^ 7 := Nat.and_two_pow_sub_one_eq_mod _ _
    have all := and_fieldMask_add v.toNat 8 2 (2 ^ 7 - 1) (by decide)
    rw [low] at all
    exact all.trans (by omega)
  split
  · have low := and_fieldMask v.toNat 8 8
    have middle := and_fieldMask_add v.toNat 24 24 (2 ^ 8 * (2 ^ 8 - 1)) (by decide)
    have all := and_fieldMask_add v.toNat 56 8 (2 ^ 24 * (2 ^ 24 - 1) + 2 ^ 8 * (2 ^ 8 - 1)) (by decide)
    rw [middle, low] at all
    exact all.trans (by omega)
  · rw [← BitVec.toNat_and, BitVec.and_allOnes, Nat.mod_eq_of_lt hv]

/-! ## Management commands and register writes (17 R469, R470) -/

theorem getStatus_of_hubDword {s : State} {n : Nat} (hn : s.hubDword 0 = n) :
    exec .getStatus s = .next { s with pkg := { s.pkg with reply := toBytes 8 n } } := hn ▸ rfl

theorem readReg_of_hubDword {s : State} {off n : Nat} (ha : off % 8 = 0) (hn : s.hubDword off = n) :
    exec (.readReg off) s = .next { s with pkg := { s.pkg with reply := toBytes 8 n } } := by
  have e : off / 8 * 8 = off := by omega
  change execReadReg off s = _
  rw [execReadReg, e, hn]
  rfl

/-- A write that the register at `off` answers by `h` acts so with RWS rights; WRITE_REG brings it, but not in the safe state. -/
theorem registerWrite_of_hubWrite {s : State} {off : Nat} {v : Word} {h : Pkg} (ha : off % 8 = 0)
    (hw : s.hubWrite off v.toNat v.toNat = { s with pkg := h }) :
    exec (.registerWrite .supervisor off v) s = .next { s with pkg := h } ∧
    (s.pkg.safe = false → exec (.writeReg off v) s = .next { s with pkg := { h with reply := [0] } }) ∧
    (s.pkg.safe = true → ∃ x, exec (.writeReg off v) s = .next { s with pkg := { s.pkg with reply := [x] } }) := by
  have e : off / 8 * 8 = off := by omega
  refine ⟨?_, fun hs => ?_, fun hs => ⟨Config.freeByte s.tick 5 0, ?_⟩⟩
  · change Host.Outcome.next (s.hubWrite (off / 8 * 8) v.toNat v.toNat) = _
    rw [e, hw]
  · change execWriteReg off v s = _
    rw [execWriteReg, hs, e, hw]
    rfl
  · exact congrArg Host.Outcome.next (if_pos hs)

/-- Outside the launch ports a host write has no effect (17 R470). -/
theorem exec_hostWrite_outside (s : State) {off : Nat} (v : Word) (h : off < 0x10000 ∨ 0x10800 ≤ off) :
    exec (.registerWrite .host off v) s = .next s := by
  change Host.Outcome.next (hostRegister (off / 8 * 8) v s) = _
  rw [hostRegister, if_pos (by omega)]

/-- A host write to dword `i` of launch port `p`; dword 14 takes none (11 R351). -/
theorem exec_hostWrite_port (s : State) {p i : Nat} (v : Word) (hp : p < 16) (hi : i < 16) :
    exec (.registerWrite .host (0x10000 + 128 * p + 8 * i) v) s = .next (if i = 14 then s else s.portWrite p i v) := by
  have hn : ((0x10000 + 128 * p + 8 * i) / 8 * 8 - 0x10000) / 128 = p := by omega
  have hd : (0x10000 + 128 * p + 8 * i) / 8 * 8 % 128 / 8 = i := by omega
  change Host.Outcome.next (hostRegister ((0x10000 + 128 * p + 8 * i) / 8 * 8) v s) = _
  rw [hostRegister, if_neg (by omega), hn, hd]

/-- GET_LOG gives at most 1,024 bytes of the log; a longer request has an open answer. -/
theorem exec_getLog (off len : Nat) (s : State) :
    (len ≤ 1024 → exec (.getLog off len) s = .next { s with pkg := { s.pkg with reply := (s.pkg.log.drop off).take len } }) ∧
    (1024 < len → ∃ x, exec (.getLog off len) s = .next { s with pkg := { s.pkg with reply := [x] } }) := by
  refine ⟨fun h => ?_, fun h => ⟨Config.freeByte s.tick 4 0, ?_⟩⟩
  · change execGetLog off len s = _
    rw [execGetLog, if_pos h]
    rfl
  · change execGetLog off len s = _
    rw [execGetLog, if_neg (Nat.not_le.mpr h)]
    rfl

/-- The aging monitor of a die moves CUR by one code within the bounds (log 39). -/
theorem exec_agingMonitorStep (d : Nat) (up : Bool) (s : State) :
    (8 ≤ d → exec (.agingMonitorStep d up) s = .next { s with pkg := s.pkg }) ∧
    (d < 8 →
      let x : Vctl := Tab.get {} s.pkg.vctl d
      let cur := max x.lo (min x.hi (if up then x.cur + 1 else x.cur - 1))
      exec (.agingMonitorStep d up) s = .next { s with pkg := { s.pkg with vctl := Tab.put s.pkg.vctl d { x with cur } } }) :=
  ⟨fun h => congrArg Host.Outcome.next (if_pos h), fun h => congrArg Host.Outcome.next (if_neg (Nat.not_le.mpr h))⟩

/-! ## What an uncorrectable error strikes (13 R429) -/

theorem mem_addSector (l : List Nat) (k j : Nat) : j ∈ addSector l k ↔ j = k ∨ j ∈ l := by
  unfold addSector
  split
  · next h => exact ⟨.inr, fun h' => h'.elim (fun e => e ▸ List.contains_iff_mem.mp h) id⟩
  · simp

theorem mem_addBad (l : List Nat) (k j : Nat) : j ∈ addBad l k ↔ j = k ∨ j ∈ l := by
  unfold addBad
  split
  · next h => exact ⟨.inr, fun h' => h'.elim (fun e => e ▸ List.contains_iff_mem.mp h) id⟩
  · simp [or_comm]

theorem threadWord_iff (n : Nat) : threadWord n = true ↔ n < 4 ∨ (6 ≤ n ∧ n ≤ 0xA) ∨ 0x800 ≤ n := by
  simp [threadWord, or_assoc]

/-- No error changes a byte of memory or, itself, a management register. -/
theorem strike_keeps (site : ErrSite) (s : State) : (strike site s).mem = s.mem ∧ (strike site s).pkg = s.pkg := by
  cases site
  case memory | register | controlWord => unfold strike; dsimp only; split <;> exact ⟨rfl, rfl⟩
  all_goals exact ⟨rfl, rfl⟩

/-- The management registers after an uncorrectable error: it is counted, and the count saturates (17 R471). -/
def State.pkgStruck (s : State) : Pkg := { s.pkg with uncorr := min (s.pkg.uncorr + 1) (2 ^ 32 - 1) }

theorem exec_uncorrectableError {site : ErrSite} (h : ∀ c r, site ≠ .rowStore c r) (s : State) :
    exec (.uncorrectableError site) s = .next { strike site s with pkg := s.pkgStruck } := by
  have counted : (strike site s).modPkg (fun g => { g with uncorr := saturated g.uncorr }) =
      { strike site s with pkg := s.pkgStruck } := by
    rw [State.modPkg, (strike_keeps site s).2]; rfl
  cases site
  case rowStore c r => exact absurd rfl (h c r)
  all_goals exact congrArg Host.Outcome.next counted

/-- An error that is visible is counted, leaves the bytes of memory, and does what `strike` does. -/
theorem uncorrectableError_strikes {site : ErrSite} {s : State} {f : State → Prop} (h : ∀ c r, site ≠ .rowStore c r)
    (hf : f { strike site s with pkg := s.pkgStruck }) :
    ∃ t, exec (.uncorrectableError site) s = .next t ∧ t.pkg = s.pkgStruck ∧ t.mem = s.mem ∧ f t :=
  ⟨_, exec_uncorrectableError h s, rfl, (strike_keeps site s).1, hf⟩

/-- The poisoned entry `i` of a queue: every other entry stays. -/
theorem strike_queueEntry_entries (s : State) (c q i j : Nat) :
    (((strike (.queueEntry c q i) s).core c).queue q).entries[j]? =
      (((s.core c).queue q).entries[j]?).map (fun e => if j = i then { e with tok := { e.tok with poison := true } } else e) := by
  simp only [strike, State.modCore_eq, State.setCore_core_same, Core.queue, Core.setQueue, Tab.get_put_same, List.getElem?_map]
  cases h : (Tab.get {} (s.core c).queues q).entries[j]? with
  | none => simp_all
  | some e =>
    obtain ⟨hj, rfl⟩ := List.getElem?_eq_some_iff.mp h
    simp [hj, List.zip]

theorem strike_memory_live {s : State} {k : Nat} (h : s.isDead (k * 32) = false) :
    strike (.memory k) s = { s with poison := addSector s.poison k } := by simp [strike, h]

theorem strike_memory_dead {s : State} {k : Nat} (h : s.isDead (k * 32) = true) : strike (.memory k) s = s := by simp [strike, h]

theorem strike_scratchpad_spoison (s : State) (c k j : Nat) :
    j ∈ ((strike (.scratchpad c k) s).core c).spoison ↔ j = k ∨ j ∈ (s.core c).spoison := by
  simp only [strike, State.modCore_eq, State.setCore_core_same, mem_addSector]

theorem strike_accumulator (s : State) (c a : Nat) :
    let t := strike (.accumulator c a) s
    Tab.get false (t.core c).matrix.apsn a = true ∧ (t.core c).matrix.acc = (s.core c).matrix.acc ∧ t.threads = s.threads := by
  simp only [strike, State.modCore_eq, State.setCore_core_same, Tab.get_put_same, State.setCore_threads, and_self]

theorem strike_register (s : State) (m t : Nat) {r : Reg} (h : r ≠ 0) :
    let u := strike (.register m t r) s
    (∀ j, j ∈ (u.thr (thrKey m t)).badRegs ↔ j = r.toNat ∨ j ∈ (s.thr (thrKey m t)).badRegs) ∧
    (u.thr (thrKey m t)).regs = (s.thr (thrKey m t)).regs ∧ u.cores = s.cores := by
  simp only [strike, if_neg h, State.modThr_eq, State.setThr_thr_same, mem_addBad, State.setThr_cores, implies_true, and_self]

/-- A control word that the thread holds itself (04 R118, R121), as every one of a service thread. -/
theorem strike_threadWord (s : State) (m t : Nat) {w : BitVec 12}
    (h : w.toNat < 4 ∨ (6 ≤ w.toNat ∧ w.toNat ≤ 0xA) ∨ 0x800 ≤ w.toNat ∨ (s.thr (thrKey m t)).svc = true) :
    let u := strike (.controlWord m t w) s
    (∀ j, j ∈ (u.thr (thrKey m t)).badWords ↔ j = w.toNat ∨ j ∈ (s.thr (thrKey m t)).badWords) ∧ u.tasks = s.tasks := by
  have own : (threadWord w.toNat || (s.thr (thrKey m t)).svc) = true := by
    simpa [threadWord_iff, or_assoc] using h
  simp only [strike, own, if_true, State.modThr_eq, State.setThr_thr_same, mem_addBad, State.setThr_tasks, implies_true, and_self]

/-- Any other control word is its task's. -/
theorem strike_taskWord (s : State) (m t : Nat) {w : BitVec 12}
    (h : ¬(w.toNat < 4 ∨ (6 ≤ w.toNat ∧ w.toNat ≤ 0xA) ∨ 0x800 ≤ w.toNat ∨ (s.thr (thrKey m t)).svc = true)) :
    let u := strike (.controlWord m t w) s
    let k := (s.thr (thrKey m t)).task
    u.threads = s.threads ∧ ∀ j, j ∈ (u.taskOf k).badWords ↔ j = w.toNat ∨ j ∈ (s.taskOf k).badWords := by
  have other : ¬(threadWord w.toNat || (s.thr (thrKey m t)).svc) = true := by
    simpa [threadWord_iff, or_assoc] using h
  simp only [strike, if_neg other, State.modTask, State.setTask_taskOf_same, mem_addBad, State.setTask_threads, implies_true, and_self]

theorem strike_peRegister (s : State) (c p : Nat) (r : BitVec 6) :
    let t := strike (.peRegister c p r) s
    (∀ j, j ∈ ((t.core c).pe p).bad ↔ j = r.toNat ∨ j ∈ ((s.core c).pe p).bad) ∧ ((t.core c).pe p).v = ((s.core c).pe p).v ∧
    ((t.core c).pe p).s = ((s.core c).pe p).s ∧ t.threads = s.threads := by
  simp only [strike, State.modCore_eq, State.setCore_core_same, Core.setPe, Core.pe, Tab.get_put_same, mem_addBad,
    State.setCore_threads, implies_true, and_self]

/-! ## The statement -/

/-- Settles O52: each register by its layout, each command and write by the register it reaches, each error by what it strikes. -/
theorem managementResults : Obligations.ManagementResults := by
  unfold Obligations.ManagementResults
  refine ⟨fun s => ⟨getStatus_of_hubDword s.hubDword_status, readReg_of_hubDword rfl s.hubDword_status,
    readReg_of_hubDword rfl s.hubDword_pwrcap, readReg_of_hubDword rfl s.hubDword_power,
    fun d hd => readReg_of_hubDword (by omega) (s.hubDword_vctl hd), fun d hd => readReg_of_hubDword (by omega) (s.hubDword_temp hd),
    readReg_of_hubDword rfl s.hubDword_errors, fun off len => exec_getLog off len s, fun nonce => rfl, rfl, fun c => rfl, fun v => ?_,
    fun d up => exec_agingMonitorStep d up s, fun m10 m1 => rfl, rfl, _, rfl⟩, fun s => ?_⟩
  · refine ⟨registerWrite_of_hubWrite rfl (s.hubWrite_status v), registerWrite_of_hubWrite rfl (s.hubWrite_pwrcap v),
      registerWrite_of_hubWrite rfl (s.hubWrite_power v), registerWrite_of_hubWrite rfl (s.hubWrite_errors v),
      fun d hd => ⟨registerWrite_of_hubWrite (by omega) (s.hubWrite_vctl v.toNat hd), ?_⟩, fun d hd => ?_,
      fun d hd => registerWrite_of_hubWrite (by omega) (s.hubWrite_temp v.toNat hd), fun off h => exec_hostWrite_outside s v h,
      fun p hp => ⟨fun i hi => ?_, ?_, ?_⟩⟩
    · exact congrArg Host.Outcome.next ((if_pos hd).trans (s.hubWrite_vctl v.toNat hd))
    · exact congrArg Host.Outcome.next (if_neg (by omega))
    · rw [exec_hostWrite_port s v hp (by omega), if_neg (by omega), State.portWrite, if_neg (by omega), and_portFields v hi]
    · exact exec_hostWrite_port s v hp (i := 14) (by omega)
    · exact exec_hostWrite_port s v hp (i := 15) (by omega)
  · refine ⟨fun k hk => uncorrectableError_strikes (by simp) ?_, fun k hk => uncorrectableError_strikes (by simp) ?_,
      fun c k => uncorrectableError_strikes (by simp) ⟨strike_scratchpad_spoison s c k, rfl⟩,
      fun c q i e he => uncorrectableError_strikes (by simp) ⟨?_, fun j hj => ?_, rfl⟩,
      fun c a => uncorrectableError_strikes (by simp) (strike_accumulator s c a),
      fun m t r hr => uncorrectableError_strikes (by simp) (strike_register s m t hr), fun m t => uncorrectableError_strikes (by simp) ⟨rfl, rfl⟩,
      fun m t w => ⟨fun hw => uncorrectableError_strikes (by simp) (strike_threadWord s m t hw),
        fun hw => uncorrectableError_strikes (by simp) (strike_taskWord s m t hw)⟩,
      fun c p r => uncorrectableError_strikes (by simp) (strike_peRegister s c p r), fun c r => rfl⟩
    · rw [strike_memory_live hk]; exact ⟨mem_addSector s.poison k, rfl, rfl⟩
    · rw [strike_memory_dead hk]; exact ⟨rfl, rfl, rfl⟩
    · exact (strike_queueEntry_entries s c q i i).trans (by rw [he]; simp)
    · exact (strike_queueEntry_entries s c q i j).trans (by simp [hj])

end Sys2Proof.Machine
end

section
/-! PROOF. The encodings: the word of a format read back field by field, then decoding after encoding and encoding after decoding
(02 R40 to R69). -/

namespace Sys2Proof

/-! ## Fields of a concatenation -/

theorem extractLsb'_eq_append_iff {w m n s : Nat} {x : BitVec w} {a : BitVec m} {b : BitVec n} :
    x.extractLsb' s (m + n) = a ++ b ↔ x.extractLsb' (s + n) m = a ∧ x.extractLsb' s n = b := by
  have whole : x.extractLsb' (s + n) m ++ x.extractLsb' s n = x.extractLsb' s (m + n) :=
    BitVec.extractLsb'_append_extractLsb'_eq_extractLsb' rfl
  constructor
  · intro h
    rw [← whole] at h
    have hi := congrArg (BitVec.extractLsb' n m) h
    have lo := congrArg (BitVec.extractLsb' 0 n) h
    simp only [BitVec.extractLsb'_append_eq_left, BitVec.extractLsb'_append_eq_right] at hi lo
    exact ⟨hi, lo⟩
  · rintro ⟨rfl, rfl⟩
    exact whole.symm

theorem append_eq_iff {m n : Nat} {x : BitVec (m + n)} {a : BitVec m} {b : BitVec n} :
    a ++ b = x ↔ x.extractLsb' (0 + n) m = a ∧ x.extractLsb' 0 n = b := by
  rw [← extractLsb'_eq_append_iff, BitVec.extractLsb'_eq_self, eq_comm]

theorem extractLsb'_eq_zero_iff {w m n s : Nat} {x : BitVec w} :
    x.extractLsb' s (m + n) = 0 ↔ x.extractLsb' (s + n) m = 0 ∧ x.extractLsb' s n = 0 := by
  rw [← extractLsb'_eq_append_iff]
  exact Iff.of_eq (congrArg _ BitVec.zero_append_zero.symm)

@[simp] theorem flagBit_beq_one (b : Bool) : (flagBit b == 1#1) = b := by cases b <;> rfl

@[simp] theorem flagBit_of_beq_one (x : BitVec 1) : flagBit (x == 1#1) = x := by revert x; decide

theorem eq_flagBit_iff {x : BitVec 1} {b : Bool} : x = flagBit b ↔ (x == 1) = b := by revert x b; decide

@[simp] theorem flagBit_false : flagBit false = 0#1 := rfl
@[simp] theorem flagBit_true : flagBit true = 1#1 := rfl

theorem bit_ne_one_iff {x : BitVec 1} : ¬x = 1#1 ↔ x = 0#1 := by revert x; decide

@[simp] theorem Size.b_code : Size.b.code = 0#2 := rfl
@[simp] theorem Size.decode_code (z : Size) : Size.decode z.code = z := by cases z <;> rfl
@[simp] theorem Size.code_decode (v : BitVec 2) : (Size.decode v).code = v := by revert v; decide

theorem Order.decode_eq_some {v : BitVec 3} {o : Order} : Order.decode v = some o ↔ v = o.code := by
  cases o <;> revert v <;> decide
theorem Scope.decode_eq_some {v : BitVec 3} {c : Scope} : Scope.decode v = some c ↔ v = c.code := by
  cases c <;> revert v <;> decide
theorem Hint.decode_eq_some {v : BitVec 3} {t : Hint} : Hint.decode v = some t ↔ v = t.code := by
  cases t <;> revert v <;> decide

@[simp] theorem Order.decode_code (o : Order) : Order.decode o.code = some o := Order.decode_eq_some.mpr rfl
@[simp] theorem Scope.decode_code (c : Scope) : Scope.decode c.code = some c := Scope.decode_eq_some.mpr rfl
@[simp] theorem Hint.decode_code (t : Hint) : Hint.decode t.code = some t := Hint.decode_eq_some.mpr rfl

theorem allow_eq_ok {r : Bool} {j i : Instr} : allow r j = .ok i ↔ r = true ∧ j.wf = true ∧ j = i := by
  unfold allow
  split
  · next h => simp_all
  · next h => simp_all

/-! ## Formats of a dword (02 R41) -/

variable {w : Word}

theorem encR_eq_iff {op : BitVec 8} {d a b c : Reg} {lo : Word32} :
    encR op d a b c lo = w ↔ majorOf w = op.toNat ∧ fd w = d ∧ fa w = a ∧ fb w = b ∧ fc w = c ∧ lo32 w = lo := by
  have layout {x : BitVec (8 + 6 + 6 + 6 + 6 + 32)} : op ++ d ++ a ++ b ++ c ++ lo = x ↔ _ := append_eq_iff
  simp only [extractLsb'_eq_append_iff, and_assoc] at layout
  rw [majorOf, BitVec.toNat_inj]
  exact layout

theorem encI_eq_iff {op : BitVec 8} {d a : Reg} {imm : Word32} :
    encI op d a imm = w ↔ majorOf w = op.toNat ∧ fd w = d ∧ fa w = a ∧ w.extractLsb' 32 12 = 0 ∧ lo32 w = imm := by
  have layout {x : BitVec (8 + 6 + 6 + 12 + 32)} : op ++ d ++ a ++ 0#12 ++ imm = x ↔ _ := append_eq_iff
  simp only [extractLsb'_eq_append_iff, and_assoc] at layout
  rw [majorOf, BitVec.toNat_inj]
  exact layout

theorem encB_eq_iff {op : BitVec 8} {a b : Reg} {cond : BitVec 4} {disp : Word32} :
    encB op a b cond disp = w ↔
      majorOf w = op.toNat ∧ fd w = a ∧ fa w = b ∧ w.extractLsb' 36 8 = 0 ∧ w.extractLsb' 32 4 = cond ∧ lo32 w = disp := by
  have layout {x : BitVec (8 + 6 + 6 + 8 + 4 + 32)} : op ++ a ++ b ++ 0#8 ++ cond ++ disp = x ↔ _ := append_eq_iff
  simp only [extractLsb'_eq_append_iff, and_assoc] at layout
  rw [majorOf, BitVec.toNat_inj]
  exact layout

theorem encM_eq_iff {op : BitVec 8} {d a : Reg} {m : MemMod} {lo : Word32} :
    encM op d a m lo = w ↔ majorOf w = op.toNat ∧ fd w = d ∧ fa w = a ∧ w.extractLsb' 42 2 = m.size.code ∧
      w.extractLsb' 39 3 = m.order.code ∧ w.extractLsb' 36 3 = m.scope.code ∧ w.extractLsb' 35 1 = flagBit m.sign ∧
      w.extractLsb' 32 3 = m.hint.code ∧ lo32 w = lo := by
  have layout {x : BitVec (8 + 6 + 6 + 2 + 3 + 3 + 1 + 3 + 32)} :
      op ++ d ++ a ++ m.size.code ++ m.order.code ++ m.scope.code ++ flagBit m.sign ++ m.hint.code ++ lo = x ↔ _ := append_eq_iff
  simp only [extractLsb'_eq_append_iff, and_assoc] at layout
  rw [majorOf, BitVec.toNat_inj]
  exact layout

theorem encA_eq_iff {op : BitVec 8} {d a b c : Reg} {m : AtomMod} {off : BitVec 20} :
    encA op d a b c m off = w ↔ majorOf w = op.toNat ∧ fd w = d ∧ fa w = a ∧ w.extractLsb' 43 1 = 1 ∧
      w.extractLsb' 42 1 = flagBit m.dword ∧ w.extractLsb' 39 3 = m.order.code ∧ w.extractLsb' 36 3 = m.scope.code ∧
      w.extractLsb' 32 4 = 0 ∧ w.extractLsb' 26 6 = b ∧ w.extractLsb' 20 6 = c ∧ w.extractLsb' 0 20 = off := by
  have size : (if m.dword = true then Size.d else Size.w).code = 1#1 ++ flagBit m.dword := by cases m.dword <;> rfl
  have layout {x : BitVec (8 + 6 + 6 + (1 + 1) + 3 + 3 + 1 + 3 + (6 + 6 + 20))} :
      op ++ d ++ a ++ (1#1 ++ flagBit m.dword) ++ m.order.code ++ m.scope.code ++ 0#1 ++ 0#3 ++ (b ++ c ++ off) = x ↔ _ := append_eq_iff
  have unused : w.extractLsb' 32 (1 + 3) = 0#1 ++ 0#3 ↔ _ := extractLsb'_eq_append_iff
  simp only [extractLsb'_eq_append_iff, and_assoc] at layout
  change encM op d a ⟨if m.dword = true then .d else .w, m.order, m.scope, false, .none⟩ (b ++ c ++ off) = w ↔ _
  simp only [encM, size]
  refine layout.trans ?_
  rw [majorOf, BitVec.toNat_inj]
  change _ ↔ _ ∧ _ ∧ _ ∧ _ ∧ _ ∧ _ ∧ _ ∧ w.extractLsb' 32 (1 + 3) = 0#1 ++ 0#3 ∧ _
  rw [unused, and_assoc]
  rfl

/-! ## Fields of the low 32 bits, FUNC8 last (02 R43, R48 to R58) -/

theorem lo32_eq_lo24_iff {x : BitVec 24} {f : BitVec 8} : lo32 w = lo24 x f ↔ w.extractLsb' 8 24 = x ∧ func8 w = f.toNat := by
  rw [func8, BitVec.toNat_inj]
  exact extractLsb'_eq_append_iff (m := 24) (n := 8)

/-- FUNC8 alone, with the bits above it zero. -/
theorem lo32_eq_func_iff {v : Word32} (hv : v.toNat < 2 ^ 8) : lo32 w = v ↔ w.extractLsb' 8 24 = 0 ∧ func8 w = v.toNat := by
  have split : v = lo24 0 (v.setWidth 8) := by
    apply BitVec.eq_of_toNat_eq
    rw [lo24, BitVec.toNat_append]
    simp; omega
  rw [split, lo32_eq_lo24_iff, ← split, BitVec.toNat_setWidth, Nat.mod_eq_of_lt hv]

/-- A mode of two bits above FUNC8. -/
theorem lo32_eq_mode_iff {v : BitVec 24} {f : BitVec 8} (hv : v.toNat < 2 ^ 2) :
    lo32 w = lo24 v f ↔ w.extractLsb' 10 22 = 0 ∧ (w.extractLsb' 8 2).toNat = v.toNat ∧ func8 w = f.toNat := by
  have split : v = 0#22 ++ v.setWidth 2 := by
    apply BitVec.eq_of_toNat_eq
    rw [BitVec.toNat_append]
    simp; omega
  have mode : (v.setWidth 2).toNat = v.toNat := by rw [BitVec.toNat_setWidth, Nat.mod_eq_of_lt hv]
  have upper : w.extractLsb' 8 (22 + 2) = 0#22 ++ v.setWidth 2 ↔ _ := extractLsb'_eq_append_iff
  rw [← split] at upper
  rw [lo32_eq_lo24_iff, ← mode, BitVec.toNat_inj]
  exact (and_congr_left' upper).trans and_assoc

theorem lo32_eq_queue_iff {f : BitVec 8} {imm : BitVec 16} {kind q : BitVec 4} :
    lo32 w = imm ++ kind ++ q ++ f ↔ w.extractLsb' 16 16 = imm ∧ w.extractLsb' 12 4 = kind ∧ w.extractLsb' 8 4 = q ∧ func8 w = f.toNat := by
  rw [func8, BitVec.toNat_inj]
  change w.extractLsb' 0 (16 + 4 + 4 + 8) = _ ↔ _
  simp only [extractLsb'_eq_append_iff, and_assoc]

theorem lo32_eq_queuePop_iff {f : BitVec 8} {q : BitVec 4} : lo32 w = 0#20 ++ q ++ f ↔
    w.extractLsb' 16 16 = 0 ∧ w.extractLsb' 12 4 = 0 ∧ w.extractLsb' 8 4 = q ∧ func8 w = f.toNat := by
  rw [show 0#20 = 0#16 ++ 0#4 from rfl]
  exact lo32_eq_queue_iff

/-- `bqpop` and `bqtry`: no KIND, queue or immediate. -/
theorem lo32_eq_queueNone_iff {v : Word32} (hv : v.toNat < 2 ^ 8) : lo32 w = v ↔
    w.extractLsb' 16 16 = 0 ∧ w.extractLsb' 12 4 = 0 ∧ w.extractLsb' 8 4 = 0 ∧ func8 w = v.toNat := by
  have upper : w.extractLsb' 8 (16 + (4 + 4)) = 0 ↔ _ := extractLsb'_eq_zero_iff
  have lower : w.extractLsb' 8 (4 + 4) = 0 ↔ _ := extractLsb'_eq_zero_iff
  rw [lo32_eq_func_iff hv]
  refine (and_congr_left' (upper.trans (and_congr_right' lower))).trans ?_
  simp only [and_assoc]

theorem lo32_eq_waita_iff {f : BitVec 8} {x : BitVec 18} {one dword : BitVec 1} {y cond : BitVec 2} :
    lo32 w = x ++ one ++ dword ++ y ++ cond ++ f ↔ w.extractLsb' 14 18 = x ∧ w.extractLsb' 13 1 = one ∧ w.extractLsb' 12 1 = dword ∧
      w.extractLsb' 10 2 = y ∧ w.extractLsb' 8 2 = cond ∧ func8 w = f.toNat := by
  rw [func8, BitVec.toNat_inj]
  change w.extractLsb' 0 (18 + 1 + 1 + 2 + 2 + 8) = _ ↔ _
  simp only [extractLsb'_eq_append_iff, and_assoc]

theorem lo32_eq_scope_iff {f : BitVec 8} {sc : BitVec 3} {x : BitVec 21} :
    lo32 w = sc ++ x ++ f ↔ w.extractLsb' 29 3 = sc ∧ w.extractLsb' 8 21 = x ∧ func8 w = f.toNat := by
  rw [func8, BitVec.toNat_inj]
  change w.extractLsb' 0 (3 + 21 + 8) = _ ↔ _
  simp only [extractLsb'_eq_append_iff, and_assoc]

/-- `nrecv`: no SCOPE. -/
theorem lo32_eq_noScope_iff {v : Word32} (hv : v.toNat < 2 ^ 8) : lo32 w = v ↔
    w.extractLsb' 29 3 = 0 ∧ w.extractLsb' 8 21 = 0 ∧ func8 w = v.toNat := by
  have upper : w.extractLsb' 8 (3 + 21) = 0 ↔ _ := extractLsb'_eq_zero_iff
  rw [lo32_eq_func_iff hv]
  exact (and_congr_left' upper).trans and_assoc

theorem lo32_eq_copy_iff {f : BitVec 8} {sc z ring token : BitVec 3} {flag crc : BitVec 1} {y : BitVec 10} :
    lo32 w = sc ++ flag ++ crc ++ z ++ ring ++ y ++ token ++ f ↔ w.extractLsb' 29 3 = sc ∧ w.extractLsb' 28 1 = flag ∧
      w.extractLsb' 27 1 = crc ∧ w.extractLsb' 24 3 = z ∧ w.extractLsb' 21 3 = ring ∧ w.extractLsb' 11 10 = y ∧
      w.extractLsb' 8 3 = token ∧ func8 w = f.toNat := by
  rw [func8, BitVec.toNat_inj]
  change w.extractLsb' 0 (3 + 1 + 1 + 3 + 3 + 10 + 3 + 8) = _ ↔ _
  simp only [extractLsb'_eq_append_iff, and_assoc]

theorem lo32_eq_stream_iff {f : BitVec 8} {x : BitVec 18} {dim : BitVec 2} {y : BitVec 1} {st : BitVec 3} :
    lo32 w = x ++ dim ++ y ++ st ++ f ↔ w.extractLsb' 14 18 = x ∧ w.extractLsb' 12 2 = dim ∧ w.extractLsb' 11 1 = y ∧
      w.extractLsb' 8 3 = st ∧ func8 w = f.toNat := by
  rw [func8, BitVec.toNat_inj]
  change w.extractLsb' 0 (18 + 2 + 1 + 3 + 8) = _ ↔ _
  simp only [extractLsb'_eq_append_iff, and_assoc]

theorem lo32_eq_sgo_iff {f : BitVec 8} {sc st : BitVec 3} {x : BitVec 5} {q : BitVec 4} {sz : BitVec 2} {store : BitVec 1} {y : BitVec 6} :
    lo32 w = sc ++ x ++ q ++ sz ++ store ++ y ++ st ++ f ↔ w.extractLsb' 29 3 = sc ∧ w.extractLsb' 24 5 = x ∧ w.extractLsb' 20 4 = q ∧
      w.extractLsb' 18 2 = sz ∧ w.extractLsb' 17 1 = store ∧ w.extractLsb' 11 6 = y ∧ w.extractLsb' 8 3 = st ∧ func8 w = f.toNat := by
  rw [func8, BitVec.toNat_inj]
  change w.extractLsb' 0 (3 + 5 + 4 + 2 + 1 + 6 + 3 + 8) = _ ↔ _
  simp only [extractLsb'_eq_append_iff, and_assoc]

theorem lo32_eq_sbar_iff {f : BitVec 8} {x : BitVec 16} {mask : BitVec 8} :
    lo32 w = x ++ mask ++ f ↔ w.extractLsb' 16 16 = x ∧ w.extractLsb' 8 8 = mask ∧ func8 w = f.toNat := by
  rw [func8, BitVec.toNat_inj]
  change w.extractLsb' 0 (16 + 8 + 8) = _ ↔ _
  simp only [extractLsb'_eq_append_iff, and_assoc]

theorem lo32_eq_node_iff {f : BitVec 8} {x y : BitVec 8} {utype unit : BitVec 4} :
    lo32 w = x ++ utype ++ unit ++ y ++ f ↔ w.extractLsb' 24 8 = x ∧ w.extractLsb' 20 4 = utype ∧ w.extractLsb' 16 4 = unit ∧
      w.extractLsb' 8 8 = y ∧ func8 w = f.toNat := by
  rw [func8, BitVec.toNat_inj]
  change w.extractLsb' 0 (8 + 4 + 4 + 8 + 8) = _ ↔ _
  simp only [extractLsb'_eq_append_iff, and_assoc]

theorem lo32_eq_edge_iff {f : BitVec 8} {st si dt di z : BitVec 4} {sp dp : BitVec 2} :
    lo32 w = st ++ si ++ sp ++ dt ++ di ++ dp ++ z ++ f ↔ w.extractLsb' 28 4 = st ∧ w.extractLsb' 24 4 = si ∧ w.extractLsb' 22 2 = sp ∧
      w.extractLsb' 18 4 = dt ∧ w.extractLsb' 14 4 = di ∧ w.extractLsb' 12 2 = dp ∧ w.extractLsb' 8 4 = z ∧ func8 w = f.toNat := by
  rw [func8, BitVec.toNat_inj]
  change w.extractLsb' 0 (4 + 4 + 2 + 4 + 4 + 2 + 4 + 8) = _ ↔ _
  simp only [extractLsb'_eq_append_iff, and_assoc]

theorem lo32_eq_graph_iff {f : BitVec 8} {gid : BitVec 8} {x : BitVec 16} :
    lo32 w = gid ++ x ++ f ↔ w.extractLsb' 24 8 = gid ∧ w.extractLsb' 8 16 = x ∧ func8 w = f.toNat := by
  rw [func8, BitVec.toNat_inj]
  change w.extractLsb' 0 (8 + 16 + 8) = _ ↔ _
  simp only [extractLsb'_eq_append_iff, and_assoc]

theorem lo32_eq_syscall_iff {f : BitVec 8} {x : BitVec 8} {imm : BitVec 16} :
    lo32 w = x ++ imm ++ f ↔ w.extractLsb' 24 8 = x ∧ w.extractLsb' 8 16 = imm ∧ func8 w = f.toNat := by
  rw [func8, BitVec.toNat_inj]
  change w.extractLsb' 0 (8 + 16 + 8) = _ ↔ _
  simp only [extractLsb'_eq_append_iff, and_assoc]

theorem lo32_eq_cword_iff {f : BitVec 8} {x cw : BitVec 12} :
    lo32 w = x ++ cw ++ f ↔ w.extractLsb' 20 12 = x ∧ w.extractLsb' 8 12 = cw ∧ func8 w = f.toNat := by
  rw [func8, BitVec.toNat_inj]
  change w.extractLsb' 0 (12 + 12 + 8) = _ ↔ _
  simp only [extractLsb'_eq_append_iff, and_assoc]

theorem lo32_eq_lea_iff {sh : BitVec 3} {disp : BitVec 29} :
    lo32 w = sh ++ disp ↔ w.extractLsb' 29 3 = sh ∧ w.extractLsb' 0 29 = disp :=
  extractLsb'_eq_append_iff (m := 3) (n := 29)

theorem encCopy_eq_iff {f : BitVec 8} {d a b c : Reg} {ring : BitVec 3} {e : CopyMod} :
    encCopy f d a b c ring e = w ↔ majorOf w = 0x58 ∧ fd w = d ∧ fa w = a ∧ fb w = b ∧ fc w = c ∧ w.extractLsb' 29 3 = e.scope.code ∧
      w.extractLsb' 28 1 = flagBit e.flag ∧ w.extractLsb' 27 1 = flagBit e.crc ∧ w.extractLsb' 24 3 = 0 ∧ w.extractLsb' 21 3 = ring ∧
      w.extractLsb' 11 10 = 0 ∧ w.extractLsb' 8 3 = e.token ∧ func8 w = f.toNat := by
  rw [encCopy, encR_eq_iff, lo32_eq_copy_iff]
  rfl

theorem encStream_eq_iff {f : BitVec 8} {a b : Reg} {dim : BitVec 2} {st : BitVec 3} :
    encStream f a b dim st = w ↔ majorOf w = 0x60 ∧ fd w = 0 ∧ fa w = a ∧ fb w = b ∧ fc w = 0 ∧ w.extractLsb' 17 15 = 0 ∧
      w.extractLsb' 24 5 = 0 ∧ w.extractLsb' 14 3 = 0 ∧ w.extractLsb' 12 2 = dim ∧ w.extractLsb' 11 1 = 0 ∧ w.extractLsb' 8 3 = st ∧
      func8 w = f.toNat := by
  have upper : w.extractLsb' 14 (15 + 3) = 0 ↔ _ := extractLsb'_eq_zero_iff
  have inside : w.extractLsb' 17 (3 + (5 + 7)) = 0 ↔ _ := extractLsb'_eq_zero_iff
  have inside' : w.extractLsb' 17 (5 + 7) = 0 ↔ _ := extractLsb'_eq_zero_iff
  have reserved : w.extractLsb' 14 18 = 0 ↔ w.extractLsb' 17 15 = 0 ∧ w.extractLsb' 24 5 = 0 ∧ w.extractLsb' 14 3 = 0 :=
    upper.trans ⟨fun ⟨hi, lo⟩ => ⟨hi, (inside'.mp (inside.mp hi).2).1, lo⟩, fun ⟨hi, _, lo⟩ => ⟨hi, lo⟩⟩
  rw [encStream, encR_eq_iff, lo32_eq_stream_iff]
  change _ ∧ _ ∧ _ ∧ _ ∧ _ ∧ w.extractLsb' 14 18 = 0 ∧ _ ↔ _
  rw [reserved]
  simp only [and_assoc]
  rfl

theorem encSgo_eq_iff {store : Bool} {st : BitVec 3} {q : BitVec 4} {sz : Size} {sc : Scope} :
    encSgo store st q sz sc = w ↔ majorOf w = 0x60 ∧ fd w = 0 ∧ fa w = 0 ∧ fb w = 0 ∧ fc w = 0 ∧ w.extractLsb' 29 3 = sc.code ∧
      w.extractLsb' 24 5 = 0 ∧ w.extractLsb' 20 4 = q ∧ w.extractLsb' 18 2 = sz.code ∧ w.extractLsb' 17 1 = flagBit store ∧
      w.extractLsb' 14 3 = 0 ∧ w.extractLsb' 12 2 = 0 ∧ w.extractLsb' 11 1 = 0 ∧ w.extractLsb' 8 3 = st ∧ func8 w = 2 := by
  have upper : w.extractLsb' 11 (3 + (2 + 1)) = 0 ↔ _ := extractLsb'_eq_zero_iff
  have lower : w.extractLsb' 11 (2 + 1) = 0 ↔ _ := extractLsb'_eq_zero_iff
  have reserved : w.extractLsb' 11 6 = 0 ↔ w.extractLsb' 14 3 = 0 ∧ w.extractLsb' 12 2 = 0 ∧ w.extractLsb' 11 1 = 0 :=
    upper.trans (and_congr_right' lower)
  rw [encSgo, encR_eq_iff, lo32_eq_sgo_iff]
  change _ ∧ _ ∧ _ ∧ _ ∧ _ ∧ _ ∧ _ ∧ _ ∧ _ ∧ _ ∧ w.extractLsb' 11 6 = 0 ∧ _ ↔ _
  rw [reserved]
  simp only [and_assoc]
  rfl

/-! ## Decoding after encoding: by format, then by the layout of the low bits (02 R41, R48 to R58) -/

theorem allow_of_wf {r : Bool} {i : Instr} (hwf : i.wf = true) (hr : r = true) : allow r i = .ok i := allow_eq_ok.mpr ⟨hr, hwf, rfl⟩

theorem decode_of_encode {i : Instr} (hwf : i.wf = true) (h : encode i = some w) : decode w = .ok i := by
  cases i
  case addi | addiw | andi | ori | xori | slli | srli | srai | slti | sltiu | li | lih | muli | bfxi | bfxui | bfii | jalr =>
    have fields := encI_eq_iff.mp (Option.some.inj h)
    simp [decode, decodeImmediate, decodeControl, fields, allow_of_wf hwf]
  case beq | bne | blt | bge | bltu | bgeu | j | jal | loop =>
    have fields := encB_eq_iff.mp (Option.some.inj h)
    simp [decode, decodeControl, fields, allow_of_wf hwf]
  case ld | st | pf | cwb | cinv | fence =>
    have fields := encM_eq_iff.mp (Option.some.inj h)
    simp [decode, decodeMemory, fields, allow_of_wf hwf]
  case aadd | aand | aor | axor | amin | amax | aminu | amaxu | aswap | acas | afadd =>
    have fields := encA_eq_iff.mp (Option.some.inj h)
    simp [decode, decodeAtomic, fields, allow_of_wf hwf]
  case copy | copy2 | copyr | copyrg =>
    have fields := encCopy_eq_iff.mp (Option.some.inj h)
    have limits := hwf
    simp only [Instr.wf, CopyMod.wfFlag, BitVec.ofNat_eq_ofNat, Bool.and_eq_true] at limits
    simp [decode, decodeCopy, fields, limits, allow_of_wf hwf]
  case twait | tquery | tqueryCrc =>
    have fields := encCopy_eq_iff.mp (Option.some.inj h)
    simp [decode, decodeCopy, fields, allow_of_wf hwf]
  case sbase | sdim | sstop | sresume =>
    have fields := encStream_eq_iff.mp (Option.some.inj h)
    simp [decode, decodeStream, fields, allow_of_wf hwf]
  case sgoLd | sgoSt =>
    have fields := encSgo_eq_iff.mp (Option.some.inj h)
    simp [decode, decodeStream, fields, allow_of_wf hwf]
  -- R format, FUNC8 alone below
  case add | sub | addw | subw | and | or | xor | andn | orn | xnor | sll | srl | sra | rol | ror | mul | mulh | mulhu | mulhsu | mulw
      | madd | div | divu | rem | remu | min | max | minu | maxu | slt | sltu | seq | sne | sel | clz | ctz | popc | brev | bswap
      | bfx | bfxu | bfi | evwait | evpost | alloc | free | freeD | launch | exit | exitAbort | yield | spawn | rte | cyc
      | acctab | freeze | thaw | preempt | migrate =>
    obtain ⟨hop, hd, ha, hb, hc, hlo⟩ := encR_eq_iff.mp (Option.some.inj h)
    obtain ⟨hz, hf⟩ := (lo32_eq_func_iff (by decide)).mp hlo
    simp [decode, decodeInteger, decodeSync, decodeAlloc, decodeTask, decodeSystem, decodeSupervisor, hop, hd, ha, hb, hc, hz, hf,
      allow_of_wf hwf]
  -- a mode above FUNC8
  case cancelTask | cancelLaunch | cancelGraph | cancelJob | tlbinvPage | tlbinvRange | tlbinvJob | tlbinvAll | resumeTask | resumeRetry
      | resumeDeliver | resumeKill =>
    obtain ⟨hop, hd, ha, hb, hc, hlo⟩ := encR_eq_iff.mp (Option.some.inj h)
    obtain ⟨hz, hm, hf⟩ := (lo32_eq_mode_iff (by decide)).mp hlo
    simp [decode, decodeTask, decodeSupervisor, hop, hd, ha, hb, hc, hz, hm, hf, allow_of_wf hwf]
  case lea =>
    obtain ⟨hop, hd, ha, hb, hc, hlo⟩ := encR_eq_iff.mp (Option.some.inj h)
    simp [decode, hop, hd, ha, hb, hc, lo32_eq_lea_iff.mp hlo, allow_of_wf hwf]
  case qpush | qpushi =>
    obtain ⟨hop, hd, ha, hb, hc, hlo⟩ := encR_eq_iff.mp (Option.some.inj h)
    simp [decode, decodeQueue, hop, hd, ha, hb, hc, lo32_eq_queue_iff.mp hlo, allow_of_wf hwf]
  case qpop | qtry | qstat =>
    obtain ⟨hop, hd, ha, hb, hc, hlo⟩ := encR_eq_iff.mp (Option.some.inj h)
    simp [decode, decodeQueue, hop, hd, ha, hb, hc, lo32_eq_queuePop_iff.mp hlo, allow_of_wf hwf]
  case bqpop | bqtry =>
    obtain ⟨hop, hd, ha, hb, hc, hlo⟩ := encR_eq_iff.mp (Option.some.inj h)
    simp [decode, decodeQueue, hop, hd, ha, hb, hc, (lo32_eq_queueNone_iff (by decide)).mp hlo, allow_of_wf hwf]
  case sbar =>
    obtain ⟨hop, hd, ha, hb, hc, hlo⟩ := encR_eq_iff.mp (Option.some.inj h)
    simp [decode, decodeStream, hop, hd, ha, hb, hc, lo32_eq_sbar_iff.mp hlo, allow_of_wf hwf]
  case fnode =>
    obtain ⟨hop, hd, ha, hb, hc, hlo⟩ := encR_eq_iff.mp (Option.some.inj h)
    simp [decode, decodeFibre, hop, hd, ha, hb, hc, lo32_eq_node_iff.mp hlo, allow_of_wf hwf]
  case fedge =>
    obtain ⟨hop, hd, ha, hb, hc, hlo⟩ := encR_eq_iff.mp (Option.some.inj h)
    simp [decode, decodeFibre, hop, hd, ha, hb, hc, lo32_eq_edge_iff.mp hlo, allow_of_wf hwf]
  case fgo | fwait | fkill | fresume =>
    obtain ⟨hop, hd, ha, hb, hc, hlo⟩ := encR_eq_iff.mp (Option.some.inj h)
    simp [decode, decodeFibre, hop, hd, ha, hb, hc, lo32_eq_graph_iff.mp hlo, allow_of_wf hwf]
  case waita =>
    obtain ⟨hop, hd, ha, hb, hc, hlo⟩ := encR_eq_iff.mp (Option.some.inj h)
    simp [decode, decodeSync, hop, hd, ha, hb, hc, lo32_eq_waita_iff.mp hlo, allow_of_wf hwf]
  case bar | nsend | ssubmit =>
    obtain ⟨hop, hd, ha, hb, hc, hlo⟩ := encR_eq_iff.mp (Option.some.inj h)
    simp [decode, decodeSync, decodeNet, hop, hd, ha, hb, hc, lo32_eq_scope_iff.mp hlo, allow_of_wf hwf]
  case nrecv =>
    obtain ⟨hop, hd, ha, hb, hc, hlo⟩ := encR_eq_iff.mp (Option.some.inj h)
    simp [decode, decodeNet, hop, hd, ha, hb, hc, (lo32_eq_noScope_iff (by decide)).mp hlo, allow_of_wf hwf]
  case syscall | trap =>
    obtain ⟨hop, hd, ha, hb, hc, hlo⟩ := encR_eq_iff.mp (Option.some.inj h)
    simp [decode, decodeSystem, hop, hd, ha, hb, hc, lo32_eq_syscall_iff.mp hlo, allow_of_wf hwf]
  case getcw | setcw =>
    obtain ⟨hop, hd, ha, hb, hc, hlo⟩ := encR_eq_iff.mp (Option.some.inj h)
    simp [decode, decodeSystem, hop, hd, ha, hb, hc, lo32_eq_cword_iff.mp hlo, allow_of_wf hwf]
  -- no other instruction has a dword
  all_goals cases h

/-! ## What decodes is the encoding of what it decodes to (02 R43, R44) -/

/-- `i` is well formed, and `w` is its encoding. -/
def Encodes (i : Instr) (w : Word) : Prop := i.wf = true ∧ encode i = some w

theorem allow_encodes {r : Bool} {i j : Instr} (h : allow r j = .ok i) (he : r = true → encode j = some w) : Encodes i w := by
  obtain ⟨hr, hwf, rfl⟩ := allow_eq_ok.mp h
  exact ⟨hwf, he hr⟩

theorem encodes_of_decodeInteger {i : Instr} (hop : majorOf w = 0x01) (h : decodeInteger w = .ok i) : Encodes i w := by
  unfold decodeInteger at h
  dsimp only at h
  split at h
  case h_43 => cases h
  all_goals exact allow_encodes h fun hr => congrArg some (encR_eq_iff.mpr (by simp_all [lo32_eq_func_iff]))

theorem encodes_of_decodeImmediate {i : Instr} (h : decodeImmediate w = .ok i) : Encodes i w := by
  unfold decodeImmediate at h
  dsimp only at h
  split at h
  case h_17 => cases h
  all_goals exact allow_encodes h fun hr => congrArg some (encI_eq_iff.mpr (by simp_all))

theorem encodes_of_decodeControl {i : Instr} (h : decodeControl w = .ok i) : Encodes i w := by
  unfold decodeControl at h
  dsimp only at h
  split at h
  · split at h
    case h_7 => cases h
    all_goals exact allow_encodes h fun hr => congrArg some (encB_eq_iff.mpr (by simp_all [← BitVec.toNat_inj]))
  case h_4 => exact allow_encodes h fun hr => congrArg some (encI_eq_iff.mpr (by simp_all))
  case h_6 => cases h
  all_goals exact allow_encodes h fun hr => congrArg some (encB_eq_iff.mpr (by simp_all))

theorem encodes_of_decodeMemory {i : Instr} (h : decodeMemory w = .ok i) : Encodes i w := by
  unfold decodeMemory at h
  dsimp only at h
  split at h
  · next ord sc hint ho hs ht =>
    rw [Order.decode_eq_some] at ho
    rw [Scope.decode_eq_some] at hs
    rw [Hint.decode_eq_some] at ht
    split at h
    case h_7 => cases h
    all_goals exact allow_encodes h fun hr => congrArg some (encM_eq_iff.mpr (by simp_all [bit_ne_one_iff]))
  · cases h

theorem encodes_of_decodeAtomic {i : Instr} (h : decodeAtomic w = .ok i) : Encodes i w := by
  unfold decodeAtomic at h
  dsimp only at h
  split at h
  · next ord sc ho hs =>
    rw [Order.decode_eq_some] at ho
    rw [Scope.decode_eq_some] at hs
    split at h
    case h_12 => cases h
    all_goals exact allow_encodes h fun hr => congrArg some (encA_eq_iff.mpr (by simp_all))
  · cases h

theorem encodes_of_decodeQueue {i : Instr} (hop : majorOf w = 0x50) (h : decodeQueue w = .ok i) : Encodes i w := by
  unfold decodeQueue at h
  dsimp only at h
  split at h
  case h_8 => cases h
  case h_5 | h_6 => exact allow_encodes h fun hr => congrArg some (encR_eq_iff.mpr (by simp_all [lo32_eq_queueNone_iff]))
  all_goals exact allow_encodes h fun hr => congrArg some (encR_eq_iff.mpr (by simp_all [lo32_eq_queue_iff, lo32_eq_queuePop_iff]))

theorem encodes_of_decodeCopy {i : Instr} (hop : majorOf w = 0x58) (h : decodeCopy w = .ok i) : Encodes i w := by
  unfold decodeCopy at h
  dsimp only at h
  split at h
  · split at h <;> cases h
  · next sc hs =>
    rw [Scope.decode_eq_some] at hs
    split at h
    case h_6 =>
      split at h
      all_goals exact allow_encodes h fun hr => congrArg some (encCopy_eq_iff.mpr (by simp_all [bit_ne_one_iff]))
    case h_7 => cases h
    all_goals exact allow_encodes h fun hr => congrArg some (encCopy_eq_iff.mpr (by simp_all [bit_ne_one_iff]))

theorem encodes_of_decodeStream {i : Instr} (hop : majorOf w = 0x60) (h : decodeStream w = .ok i) : Encodes i w := by
  unfold decodeStream at h
  dsimp only at h
  split at h
  case h_3 =>
    split at h
    · cases h
    · next sc hs =>
      rw [Scope.decode_eq_some] at hs
      split at h
      all_goals exact allow_encodes h fun hr => congrArg some (encSgo_eq_iff.mpr (by simp_all [bit_ne_one_iff]))
  case h_6 => exact allow_encodes h fun hr => congrArg some (encR_eq_iff.mpr (by simp_all [lo32_eq_sbar_iff]))
  case h_7 => cases h
  all_goals exact allow_encodes h fun hr => congrArg some (encStream_eq_iff.mpr (by simp_all))

theorem encodes_of_decodeFibre {i : Instr} (hop : majorOf w = 0x68) (h : decodeFibre w = .ok i) : Encodes i w := by
  unfold decodeFibre at h
  dsimp only at h
  split at h
  case h_7 => cases h
  all_goals exact allow_encodes h fun hr => congrArg some (encR_eq_iff.mpr (by
    simp_all [lo32_eq_node_iff, lo32_eq_edge_iff, lo32_eq_graph_iff]))

theorem encodes_of_decodeSync {i : Instr} (hop : majorOf w = 0x70) (h : decodeSync w = .ok i) : Encodes i w := by
  unfold decodeSync at h
  split at h
  case h_2 =>
    split at h
    · cases h
    · next sc hs =>
      rw [Scope.decode_eq_some] at hs
      exact allow_encodes h fun hr => congrArg some (encR_eq_iff.mpr (by simp_all [lo32_eq_scope_iff]))
  case h_1 => exact allow_encodes h fun hr => congrArg some (encR_eq_iff.mpr (by rw [lo32_eq_waita_iff]; simp_all))
  case h_5 => cases h
  all_goals exact allow_encodes h fun hr => congrArg some (encR_eq_iff.mpr (by simp_all [lo32_eq_func_iff]))

theorem encodes_of_decodeAlloc {i : Instr} (hop : majorOf w = 0x78) (h : decodeAlloc w = .ok i) : Encodes i w := by
  unfold decodeAlloc at h
  dsimp only at h
  split at h
  case h_4 => cases h
  all_goals exact allow_encodes h fun hr => congrArg some (encR_eq_iff.mpr (by simp_all [lo32_eq_func_iff]))

theorem encodes_of_decodeNet {i : Instr} (hop : majorOf w = 0x7C) (h : decodeNet w = .ok i) : Encodes i w := by
  unfold decodeNet at h
  dsimp only at h
  split at h
  · exact allow_encodes h fun hr => congrArg some (encR_eq_iff.mpr (by simp_all [lo32_eq_noScope_iff]))
  split at h
  · split at h <;> cases h
  · next sc hs =>
    rw [Scope.decode_eq_some] at hs
    split at h
    · exact allow_encodes h fun hr => congrArg some (encR_eq_iff.mpr (by simp_all [lo32_eq_scope_iff]))
    split at h
    · exact allow_encodes h fun hr => congrArg some (encR_eq_iff.mpr (by simp_all [lo32_eq_scope_iff]))
    · cases h

/-- A mode that is none of the first three is the fourth. -/
theorem mode_eq_three {m : BitVec 2} (h0 : m.toNat ≠ 0) (h1 : m.toNat ≠ 1) (h2 : m.toNat ≠ 2) : m.toNat = 3 := by
  have := m.isLt
  omega

theorem encodes_of_decodeTask {i : Instr} (hop : majorOf w = 0x80) (h : decodeTask w = .ok i) : Encodes i w := by
  unfold decodeTask at h
  dsimp only at h
  split at h
  case h_2 =>
    split at h
    case h_4 h0 h1 h2 =>
      have mode := mode_eq_three h0 h1 h2
      exact allow_encodes h fun hr => congrArg some (encR_eq_iff.mpr (by simp_all [lo32_eq_mode_iff]))
    all_goals exact allow_encodes h fun hr => congrArg some (encR_eq_iff.mpr (by simp_all [lo32_eq_mode_iff]))
  case h_7 => cases h
  all_goals exact allow_encodes h fun hr => congrArg some (encR_eq_iff.mpr (by simp_all [lo32_eq_func_iff]))

theorem encodes_of_decodeSystem {i : Instr} (hop : majorOf w = 0x88) (h : decodeSystem w = .ok i) : Encodes i w := by
  unfold decodeSystem at h
  dsimp only at h
  split at h
  case h_7 => cases h
  case h_3 | h_6 => exact allow_encodes h fun hr => congrArg some (encR_eq_iff.mpr (by simp_all [lo32_eq_func_iff]))
  case h_4 | h_5 => exact allow_encodes h fun hr => congrArg some (encR_eq_iff.mpr (by simp_all [lo32_eq_cword_iff]))
  all_goals exact allow_encodes h fun hr => congrArg some (encR_eq_iff.mpr (by simp_all [lo32_eq_syscall_iff]))

theorem encodes_of_decodeSupervisor {i : Instr} (hop : majorOf w = 0x90) (h : decodeSupervisor w = .ok i) : Encodes i w := by
  unfold decodeSupervisor at h
  dsimp only at h
  split at h
  case h_1 | h_6 =>
    split at h
    case h_4 h0 h1 h2 =>
      have mode := mode_eq_three h0 h1 h2
      exact allow_encodes h fun hr => congrArg some (encR_eq_iff.mpr (by simp_all [lo32_eq_mode_iff]))
    all_goals exact allow_encodes h fun hr => congrArg some (encR_eq_iff.mpr (by simp_all [lo32_eq_mode_iff]))
  case h_8 => cases h
  all_goals exact allow_encodes h fun hr => congrArg some (encR_eq_iff.mpr (by simp_all [lo32_eq_func_iff]))

theorem encodes_of_decode {i : Instr} (h : decode w = .ok i) : Encodes i w := by
  unfold decode at h
  dsimp only at h
  obtain ⟨hop, h⟩ | ⟨-, h⟩ := ite_eq_iff.mp h
  · exact encodes_of_decodeInteger hop h
  obtain ⟨hop, h⟩ | ⟨-, h⟩ := ite_eq_iff.mp h
  · exact allow_encodes h fun hr => congrArg some (encR_eq_iff.mpr (by simp_all [lo32_eq_lea_iff]))
  obtain ⟨hop, h⟩ | ⟨-, h⟩ := ite_eq_iff.mp h
  · exact encodes_of_decodeImmediate h
  obtain ⟨hop, h⟩ | ⟨-, h⟩ := ite_eq_iff.mp h
  · exact encodes_of_decodeControl h
  obtain ⟨hop, h⟩ | ⟨-, h⟩ := ite_eq_iff.mp h
  · exact encodes_of_decodeMemory h
  obtain ⟨hop, h⟩ | ⟨-, h⟩ := ite_eq_iff.mp h
  · exact encodes_of_decodeAtomic h
  obtain ⟨hop, h⟩ | ⟨-, h⟩ := ite_eq_iff.mp h
  · exact encodes_of_decodeQueue hop h
  obtain ⟨hop, h⟩ | ⟨-, h⟩ := ite_eq_iff.mp h
  · exact encodes_of_decodeCopy hop h
  obtain ⟨hop, h⟩ | ⟨-, h⟩ := ite_eq_iff.mp h
  · exact encodes_of_decodeStream hop h
  obtain ⟨hop, h⟩ | ⟨-, h⟩ := ite_eq_iff.mp h
  · exact encodes_of_decodeFibre hop h
  obtain ⟨hop, h⟩ | ⟨-, h⟩ := ite_eq_iff.mp h
  · exact encodes_of_decodeSync hop h
  obtain ⟨hop, h⟩ | ⟨-, h⟩ := ite_eq_iff.mp h
  · exact encodes_of_decodeAlloc hop h
  obtain ⟨hop, h⟩ | ⟨-, h⟩ := ite_eq_iff.mp h
  · exact encodes_of_decodeNet hop h
  obtain ⟨hop, h⟩ | ⟨-, h⟩ := ite_eq_iff.mp h
  · exact encodes_of_decodeTask hop h
  obtain ⟨hop, h⟩ | ⟨-, h⟩ := ite_eq_iff.mp h
  · exact encodes_of_decodeSystem hop h
  obtain ⟨hop, h⟩ | ⟨-, h⟩ := ite_eq_iff.mp h
  · exact encodes_of_decodeSupervisor hop h
  · cases h

/-! ## PE operations, matrix commands and row controls (02 R61 to R69) -/

theorem packPe_eq_iff {v : BitVec 48} {opc : BitVec 7} {f : PeF} :
    packPe opc f = v ↔ (v.extractLsb' 41 7).toNat = opc.toNat ∧ peFields v = f := by
  have layout {x : BitVec (7 + 4 + 6 + 6 + 6 + 3 + 2 + 1 + 1 + 6 + 2 + 4)} :
      opc ++ f.dst ++ f.a ++ f.b ++ f.c ++ f.fmt ++ f.rnd ++ flagBit f.fi ++ flagBit f.fo ++ f.rep ++ f.step ++ f.push = x ↔ _ :=
    append_eq_iff
  simp only [extractLsb'_eq_append_iff, and_assoc, eq_flagBit_iff] at layout
  rw [BitVec.toNat_inj, peFields, PeF.mk.injEq]
  exact layout

theorem packMat_eq_iff {v : BitVec 192} {mop : BitVec 4} {f : MatF} :
    packMat mop f = v ↔ (v.extractLsb' 188 4).toNat = mop.toNat ∧ v.extractLsb' 165 4 = 0 ∧ v.extractLsb' 0 50 = 0 ∧ matFields v = f := by
  have layout {x : BitVec (4 + 3 + 3 + 3 + 2 + 4 + 1 + 1 + 1 + 1 + 4 + 48 + 32 + 8 + 4 + 4 + 16 + 3 + 50)} :
      mop ++ f.ra ++ f.rb ++ f.rd ++ f.acc ++ f.mfmt ++ flagBit f.accum ++ flagBit f.timed ++ flagBit f.policy ++ flagBit f.zero ++ 0#4 ++
        f.stamp ++ f.count ++ f.dper ++ f.la ++ f.lb ++ f.trole ++ f.tthread ++ 0#50 = x ↔ _ := append_eq_iff
  simp only [extractLsb'_eq_append_iff, and_assoc, eq_flagBit_iff] at layout
  rw [BitVec.toNat_inj, matFields, MatF.mk.injEq]
  refine Iff.trans layout ?_
  constructor
  · rintro ⟨hm, ra, rb, rd, acc, mfmt, accum, timed, policy, zero, hz, stamp, count, dper, la, lb, trole, tthread, hz'⟩
    exact ⟨hm, hz, hz', ra, rb, rd, acc, mfmt, accum, timed, policy, zero, stamp, count, dper, la, lb, trole, tthread⟩
  · rintro ⟨hm, hz, hz', ra, rb, rd, acc, mfmt, accum, timed, policy, zero, stamp, count, dper, la, lb, trole, tthread⟩
    exact ⟨hm, ra, rb, rd, acc, mfmt, accum, timed, policy, zero, hz, stamp, count, dper, la, lb, trole, tthread, hz'⟩

theorem decodePe_of_encodePe {i : Instr} {v : BitVec 48} (hwf : i.wf = true) (h : encodePe i = some v) : decodePe v = .ok i := by
  cases i
  case nop => cases h; rfl
  case fadd | fsub | fmul | ffma | ffms | fnfma | fmin | fmax | fabs | fneg | fceq | fclt | fcle | frcp | frsq | fexp2 | flog2
      | iadd | isub | imul | imulh | iand | ior | ixor | ishl | ishr | isra | imin | imax | iceq | iclt | iabs | iaddsat
      | cvt | cvtSat | pk8 | upk8 | bscale | mov | lshuf | lbcast | lrot | redadd | redmax | redmin | peSel | accs | qdrop | tkind =>
    obtain ⟨hopc, hf⟩ := packPe_eq_iff.mp (Option.some.inj h)
    simp [decodePe, hopc, hf, allow_of_wf hwf]
  all_goals cases h

theorem decodeMatrix_of_encodeMatrix {i : Instr} {v : BitVec 192} (hwf : i.wf = true) (h : encodeMatrix i = some v) :
    decodeMatrix v = .ok i := by
  cases i
  case mma | mzero | mload | mdrain | simmer | simstop | mstat | mfence =>
    obtain ⟨hmop, hz, hz', hf⟩ := packMat_eq_iff.mp (Option.some.inj h)
    simp [decodeMatrix, hmop, hz, hz', hf, allow_of_wf hwf]
  all_goals cases h

/-- The fields above the immediate of a bundle header (R60, R61), for each way a row control divides its argument. -/
theorem header_jump_eq_iff {sync : Bool} {rcop : BitVec 4} {target : BitVec 9} {arg : BitVec 14} {imm : Word32} {v : Word} :
    (0#4 ++ flagBit sync ++ rcop ++ target ++ arg ++ imm : Word) = v ↔ v.extractLsb' 60 4 = 0 ∧ v.extractLsb' 59 1 = flagBit sync ∧
      v.extractLsb' 55 4 = rcop ∧ v.extractLsb' 46 9 = target ∧ v.extractLsb' 32 14 = arg ∧ lo32 v = imm := by
  have layout {x : BitVec (4 + 1 + 4 + 9 + 14 + 32)} : 0#4 ++ flagBit sync ++ rcop ++ target ++ arg ++ imm = x ↔ _ := append_eq_iff
  simp only [extractLsb'_eq_append_iff, and_assoc] at layout
  exact layout

theorem header_branch_eq_iff {sync : Bool} {rcop q kind : BitVec 4} {target : BitVec 9} {z : BitVec 6} {imm : Word32} {v : Word} :
    (0#4 ++ flagBit sync ++ rcop ++ target ++ q ++ kind ++ z ++ imm : Word) = v ↔ v.extractLsb' 60 4 = 0 ∧
      v.extractLsb' 59 1 = flagBit sync ∧ v.extractLsb' 55 4 = rcop ∧ v.extractLsb' 46 9 = target ∧ v.extractLsb' 42 4 = q ∧
      v.extractLsb' 38 4 = kind ∧ v.extractLsb' 32 6 = z ∧ lo32 v = imm := by
  have layout {x : BitVec (4 + 1 + 4 + 9 + 4 + 4 + 6 + 32)} :
      0#4 ++ flagBit sync ++ rcop ++ target ++ q ++ kind ++ z ++ imm = x ↔ _ := append_eq_iff
  simp only [extractLsb'_eq_append_iff, and_assoc] at layout
  exact layout

theorem header_loop_eq_iff {sync : Bool} {rcop : BitVec 4} {target : BitVec 9} {l : BitVec 2} {z : BitVec 12} {imm : Word32} {v : Word} :
    (0#4 ++ flagBit sync ++ rcop ++ target ++ l ++ z ++ imm : Word) = v ↔ v.extractLsb' 60 4 = 0 ∧ v.extractLsb' 59 1 = flagBit sync ∧
      v.extractLsb' 55 4 = rcop ∧ v.extractLsb' 46 9 = target ∧ v.extractLsb' 44 2 = l ∧ v.extractLsb' 32 12 = z ∧ lo32 v = imm := by
  have layout {x : BitVec (4 + 1 + 4 + 9 + 2 + 12 + 32)} : 0#4 ++ flagBit sync ++ rcop ++ target ++ l ++ z ++ imm = x ↔ _ := append_eq_iff
  simp only [extractLsb'_eq_append_iff, and_assoc] at layout
  exact layout

theorem header_push_eq_iff {sync : Bool} {rcop : BitVec 4} {target z : BitVec 9} {pe : BitVec 2} {r : BitVec 3} {imm : Word32} {v : Word} :
    (0#4 ++ flagBit sync ++ rcop ++ target ++ pe ++ r ++ z ++ imm : Word) = v ↔ v.extractLsb' 60 4 = 0 ∧
      v.extractLsb' 59 1 = flagBit sync ∧ v.extractLsb' 55 4 = rcop ∧ v.extractLsb' 46 9 = target ∧ v.extractLsb' 44 2 = pe ∧
      v.extractLsb' 41 3 = r ∧ v.extractLsb' 32 9 = z ∧ lo32 v = imm := by
  have layout {x : BitVec (4 + 1 + 4 + 9 + 2 + 3 + 9 + 32)} :
      0#4 ++ flagBit sync ++ rcop ++ target ++ pe ++ r ++ z ++ imm = x ↔ _ := append_eq_iff
  simp only [extractLsb'_eq_append_iff, and_assoc] at layout
  exact layout

theorem decodeRowControl_of_encodeRowControl {i : Instr} {sync : Bool} {imm : Word32} {v : Word} (hwf : i.wf = true)
    (h : encodeRowControl sync imm i = some v) : decodeRowControl v = .ok (some i) := by
  cases i
  case jmp | halt =>
    have fields := header_jump_eq_iff.mp (Option.some.inj h)
    simp [decodeRowControl, fields, hwf]
  case brTok =>
    have fields := header_branch_eq_iff.mp (Option.some.inj h)
    simp [decodeRowControl, fields, hwf]
  case loopRow | endloop =>
    have fields := header_loop_eq_iff.mp (Option.some.inj h)
    simp [decodeRowControl, fields, hwf]
  case bqpush =>
    have fields := header_push_eq_iff.mp (Option.some.inj h)
    simp [decodeRowControl, fields, hwf]
  all_goals cases h

end Sys2Proof

namespace Sys2Proof.Machine

/-! ## The statements -/

/-- Settles O1: each word is evaluated. -/
theorem decodeSpecExamples : Obligations.DecodeSpecExamples := by
  unfold Obligations.DecodeSpecExamples
  decide

/-- Settles O2: an encoding gives its fields back, and the decoder of its family reads those. -/
theorem encodeThenDecodeAccess : Obligations.EncodeThenDecodeAccess := by
  unfold Obligations.EncodeThenDecodeAccess
  exact fun i w hwf h => decode_of_encode hwf h

/-- Settles O3: as O2, for the packed operations, commands and headers. -/
theorem encodeThenDecodeExecute : Obligations.EncodeThenDecodeExecute := by
  unfold Obligations.EncodeThenDecodeExecute
  exact ⟨fun i v hwf h => decodePe_of_encodePe hwf h, fun i v hwf h => decodeMatrix_of_encodeMatrix hwf h,
    fun i sync imm v hwf h => decodeRowControl_of_encodeRowControl hwf h⟩

/-- Settles O4: each arm of the decoder checks the fields it does not read, so the word is the encoding of those it reads. -/
theorem decodeThenEncode : Obligations.DecodeThenEncode := by
  unfold Obligations.DecodeThenEncode
  exact fun w i h => encodes_of_decode h

end Sys2Proof.Machine
end

section
/-! PROOF. A step runs the instruction of the thread, row or unit whose turn it is (02 R44, R59; 05 R138, R141; 11 R357). -/

namespace Sys2Proof.Machine

theorem exec_next (i : Instr) (s : State) : ∃ t, exec i s = .next t := by
  cases i <;> exact ⟨_, rfl⟩

theorem issueWord_next (s : State) (w : Word) : ∃ t, issueWord s w = .next t := by
  unfold issueWord
  split
  · exact ⟨_, rfl⟩
  split
  · exact ⟨_, rfl⟩
  split
  · exact ⟨_, rfl⟩
  · exact exec_next _ s

/-! ### The fetch -/

/-- The agent of a fetch. -/
def State.fetchAgent (s : State) : Agent := if s.me.svc then { s.agent with phys := true } else s.agent

/-- The dword at the pc lies where no fetch is allowed. -/
def State.FetchOutside (s : State) : Prop :=
  (s.me.svc = true ∧ inService s.me.pc = false) ∨ (s.me.svc = false ∧ inAperture s.me.pc.toNat = true)

theorem fetch_of_fetched {s : State} {w : Word} (k : State → Word → Out) (h : s.me.fetched = some w) :
    s.fetch k = k (s.modMe (fun th => { th with fetched := none })) w := by
  simp only [State.fetch, h]

theorem fetchOutside_iff (s : State) :
    (if s.me.svc then !(inService s.me.pc) else inAperture s.me.pc.toNat) = true ↔ s.FetchOutside := by
  cases h : s.me.svc <;> simp [State.FetchOutside, h]

theorem fetch_outside {s : State} (k : State → Word → Out) (h : s.me.fetched = none) (hout : s.FetchOutside) :
    s.fetch k = .next (s.trap 0x06 s.me.pc) := by
  simp only [State.fetch, h]
  exact if_pos ((fetchOutside_iff s).mpr hout)

/-- A fetch from memory, by the outcome of its checks. -/
theorem fetch_inside {s : State} (k : State → Word → Out) (h : s.me.fetched = none) (hin : ¬s.FetchOutside) :
    s.fetch k = match checkAccess s s.fetchAgent s.me.pc 8 needFetch false with
      | .error (.trap c _) => .next (s.trap c s.me.pc)
      | .error (.denied t u) => .next (s.deny s.fetchAgent.master t u true false)
      | .ok acc =>
        if acc.poisoned s false then .next (s.trap 0x09 s.me.pc)
        else if acc.far.isSome then .next (s.sendRemote s.fetchAgent needFetch acc s.me.pc (.read 0 8) .fetch)
        else k (commitAccess s s.fetchAgent needFetch acc) (word (s.valueSeen acc.locs)) := by
  simp only [State.fetch, h]
  exact if_neg (mt (fetchOutside_iff s).mp hin)

theorem fetch_next (s : State) (k : State → Word → Out) (hk : ∀ s w, ∃ t, k s w = .next t) : ∃ t, s.fetch k = .next t := by
  cases h : s.me.fetched with
  | some w => rw [fetch_of_fetched k h]; exact hk _ _
  | none =>
    by_cases hout : s.FetchOutside
    · exact ⟨_, fetch_outside k h hout⟩
    rw [fetch_inside k h hout]
    split
    · exact ⟨_, rfl⟩
    · exact ⟨_, rfl⟩
    split
    · exact ⟨_, rfl⟩
    split
    · exact ⟨_, rfl⟩
    · exact hk _ _

theorem issueThread_next (m t : Nat) (s : State) : ∃ u, issueThread m t s = .next u := by
  unfold issueThread
  simp only
  split
  · exact fetch_next _ _ issueWord_next
  · exact ⟨_, rfl⟩

theorem runUnit_next (core : Nat) (unit : List Nat) (s : State) : ∃ t, runUnit core unit s = .next t := by
  cases unit with
  | nil => exact ⟨_, rfl⟩
  | cons r rest =>
    simp only [runUnit]
    split
    · exact exec_next _ _
    · split <;> exact ⟨_, rfl⟩

theorem runMove_next (v : Move) (s : State) : ∃ t, runMove v s = .next t := by
  cases v with
  | thread m t => exact issueThread_next m t s
  | rows core unit => exact runUnit_next core unit s
  | event m t i => exact exec_next i _
  | packageReset => exact exec_next (.packageReset _) _
  | phase n => exact ⟨_, rfl⟩
  | hub id => exact ⟨_, rfl⟩
  | controls core => exact ⟨_, rfl⟩
  | nodes core => exact ⟨_, rfl⟩
  | hostRead off n => exact ⟨_, rfl⟩

theorem step_nil {s : State} (h : s.agenda = []) : step s = .next { newCycle s with tick := s.tick + 1 } := by
  rw [step, h]

theorem step_cons {s : State} {v : Move} {rest : List Move} (h : s.agenda = v :: rest) :
    step s = runMove v { s with agenda := rest, tick := s.tick + 1 } := by
  rw [step, h]

theorem step_next (s : State) : ∃ t, step s = .next t := by
  cases h : s.agenda with
  | nil => exact ⟨_, step_nil h⟩
  | cons v rest => rw [step_cons h]; exact runMove_next v _

/-! ### The fetched word -/

/-- The instruction is a `resume` that names an entry. -/
def Resumes (i : Instr) : Prop := ∃ d a, i = .resumeRetry d a ∨ i = .resumeDeliver d a ∨ i = .resumeKill d a

theorem actsLast_iff (i : Instr) : actsLast i = true ↔ Resumes i := by
  unfold actsLast Resumes
  split <;> simp_all

theorem defers_iff (s : State) (i : Instr) : s.defers i = true ↔
    (∃ d k, i = .tquery d k) ∨ (∃ d k, i = .tqueryCrc d k) ∨ Resumes i ∨
      (s.me.helper = true ∧ ((∃ d n, i = .getcw d n) ∨ ∃ n a, i = .setcw n a)) := by
  unfold State.defers Resumes
  split <;> simp_all

/-- What an issued dword does, `rest` being the moves still to come. -/
def Runs (o : Out) (rest : List Move) (base : State) (w : Word) : Prop :=
  (w.toNat / 2 ^ 56 = 0x90 → base.me.svc = false → o = .next (base.trap 0x02 0)) ∧
  (w.toNat / 2 ^ 56 ≠ 0x90 ∨ base.me.svc = true →
    (∀ e, decode w = .error e → o = .next (base.trap 0x01 0)) ∧
    ∀ i, decode w = .ok i →
      let late : Prop := .phase 8 ∈ rest ∧ ((∃ d k, i = .tquery d k) ∨ (∃ d k, i = .tqueryCrc d k) ∨ Resumes i ∨
        (base.me.helper = true ∧ ((∃ d n, i = .getcw d n) ∨ ∃ n a, i = .setcw n a)))
      (late → o = .next { base with late := base.late ++ [(base.curKey, i)] }) ∧ (¬late → o = exec i base))

theorem issueWord_runs {base : State} {rest : List Move} (h : base.agenda = rest) (w : Word) :
    Runs (issueWord base w) rest base w := by
  refine ⟨fun hop hsvc => if_pos ⟨hop, by rw [hsvc]; rfl⟩, fun hok => ?_⟩
  have hnot : ¬(w.toNat / 2 ^ 56 = 0x90 ∧ (!base.me.svc) = true) := by
    rintro ⟨hop, hsvc⟩
    rcases hok with hne | hyes
    · exact hne hop
    · simp [hyes] at hsvc
  refine ⟨fun e he => by simp only [issueWord, if_neg hnot, he]; rfl, fun i hi => ?_⟩
  have hlate : (base.defers i && base.agenda.contains (.phase latePhase)) = true ↔ .phase 8 ∈ rest ∧ ((∃ d k, i = .tquery d k) ∨
      (∃ d k, i = .tqueryCrc d k) ∨ Resumes i ∨
        (base.me.helper = true ∧ ((∃ d n, i = .getcw d n) ∨ ∃ n a, i = .setcw n a))) := by
    rw [Bool.and_eq_true, defers_iff, List.contains_iff_mem, h, and_comm]
    rfl
  simp only [issueWord, if_neg hnot, hi]
  exact ⟨fun hl => if_pos (hlate.mpr hl), fun hl => if_neg (mt hlate.mp hl)⟩

theorem step_runs {s base : State} {rest : List Move} {w : Word} (hs : step s = issueWord base w) (h : base.agenda = rest) :
    Runs (step s) rest base w := hs ▸ issueWord_runs h w

/-! ### A thread's turn -/

theorem commitAccess_agenda (s : State) (ag : Agent) (need : Need) (acc : Access) : (commitAccess s ag need acc).agenda = s.agenda := by
  rw [(commitAccess_touches s ag need acc).state]
  rfl

/-- The state in which a thread's turn is judged. -/
def State.turnOf (s : State) (m t : Nat) (rest : List Move) : State :=
  { s with agenda := rest, tick := s.tick + 1, cur := { m, t } }

section
variable {s : State} {m t : Nat} {rest : List Move} (h : s.agenda = .thread m t :: rest)
include h

theorem step_thread : step s = if (s.turnOf m t rest).runnable (s.turnOf m t rest).curKey then (s.turnOf m t rest).fetch issueWord
    else .next (s.turnOf m t rest) := step_cons h

theorem step_thread_idle (hrun : (s.turnOf m t rest).runnable (s.turnOf m t rest).curKey = false) :
    step s = .next (s.turnOf m t rest) := by
  rw [step_thread h, hrun]
  rfl

theorem step_thread_fetch (hrun : (s.turnOf m t rest).runnable (s.turnOf m t rest).curKey = true) :
    step s = (s.turnOf m t rest).fetch issueWord := by
  rw [step_thread h, if_pos hrun]

end


/-! ### Deferred instructions -/

/-- The one deferred instruction acts in the part of the cycle that is its own. -/
theorem lateMoves_single {s : State} {k : Nat} {i : Instr} (h : s.late = [(k, i)]) (hrun : s.runnable k = true) (last : Bool) :
    lateMoves s last = if actsLast i = last then [.event (k / 8) (k % 8) i] else [] := by
  simp only [lateMoves, h, orderBy, insertBy, List.foldl_cons, List.foldl_nil, List.takeWhile_nil, List.dropWhile_nil,
    List.nil_append, List.append_nil, List.filter_cons, List.filter_nil, hrun, Bool.and_true, beq_iff_eq]
  split <;> rfl

/-- The deferred instructions run in their part of the cycle. -/
theorem step_late {s : State} {k : Nat} {i : Instr} {rest : List Move} (hlate : s.late = [(k, i)]) (hrun : s.runnable k = true) :
    (s.agenda = .phase 8 :: rest →
      (¬Resumes i → step s = .next { s with agenda := .event (k / 8) (k % 8) i :: rest, tick := s.tick + 1, late := [] }) ∧
      (Resumes i → step s = .next { s with agenda := rest, tick := s.tick + 1 })) ∧
    (s.agenda = .phase 12 :: rest → Resumes i → ∃ l,
      step s = .next { s with agenda := l ++ .event (k / 8) (k % 8) i :: rest, tick := s.tick + 1, late := [] }) := by
  have hmoves (last : Bool) := lateMoves_single (s := { s with agenda := rest, tick := s.tick + 1 }) hlate hrun last
  refine ⟨fun h => ⟨fun hi => ?_, fun hi => ?_⟩, fun h hi => ⟨hubMoves { s with agenda := rest, tick := s.tick + 1 }, ?_⟩⟩
  · have hlast : actsLast i = false := by rwa [← Bool.not_eq_true, actsLast_iff]
    rw [step_cons h]
    simp only [runMove, phaseMoves, hmoves]
    simp only [hlate, hlast, List.filter_cons, List.filter_nil]
    rfl
  · have hlast : actsLast i = true := (actsLast_iff i).mpr hi
    rw [step_cons h]
    simp only [runMove, phaseMoves, hmoves]
    simp only [hlate, hlast, List.filter_cons, List.filter_nil]
    rfl
  · have hlast : actsLast i = true := (actsLast_iff i).mpr hi
    rw [step_cons h]
    simp only [runMove, phaseMoves, hmoves, hlast, List.append_assoc]
    rfl


/-! ### The bundles that rows meet -/

/-- What decides the bundle a row of a core meets: the core's bundle store and the rows' pcs. -/
def Core.code (c : Core) : Tab Bundle × (Nat → Nat) := (c.store, fun r => (c.row r).pc)

theorem Core.form_of_code {c d : Core} (h : d.code = c.code) (r : Nat) : d.form r = c.form r := by
  obtain ⟨hstore, hpc⟩ := Prod.mk.inj h
  have hpc : (d.row r).pc = (c.row r).pc := congrFun hpc r
  simp only [Core.form, Core.here, Core.bundle, hstore, hpc]

theorem Core.setRow_code {c : Core} {r : Nat} {x : Row} (h : x.pc = (c.row r).pc) : (c.setRow r x).code = c.code := by
  refine congrArg (Prod.mk c.store) (funext fun q => ?_)
  by_cases hq : r = q
  · subst hq
    rw [Core.setRow, Core.row, Tab.get_put_same, h]
  · rw [Core.setRow, Core.row, Tab.get_put_other _ _ _ _ _ hq, Core.row]

/-- A change of a core that leaves every row at its bundle. -/
theorem State.modCore_code (s : State) (k j : Nat) {f : Core → Core} (hf : ∀ c, (f c).code = c.code) :
    ((s.modCore k f).core j).code = (s.core j).code := by
  by_cases h : k = j
  · subst h
    rw [State.modCore_eq, State.setCore_core_same, hf]
  · rw [State.modCore_eq, State.setCore_core_other _ _ _ _ h]

@[simp] theorem State.modMx_code (s : State) (f : Matrix → Matrix) (j : Nat) : ((s.modMx f).core j).code = (s.core j).code :=
  s.modCore_code _ j fun _ => rfl

theorem State.modMyRow_code (s : State) (j : Nat) {f : Row → Row} (hf : ∀ x, (f x).pc = x.pc) :
    ((s.modMyRow f).core j).code = (s.core j).code :=
  s.modCore_code _ j fun _ => Core.setRow_code (hf _)

@[simp] theorem State.raise_code (s : State) (k : Nat) (f : FaultRec) (j : Nat) : ((s.raise k f).core j).code = (s.core j).code := rfl

/-! ### A command of the array leaves every row at its bundle -/

@[simp] theorem postMatrix_code (s : State) (f : MatF) (evk ring index cyc j : Nat) :
    ((postMatrix s f evk ring index cyc).core j).code = (s.core j).code := by
  simp only [postMatrix]
  split
  · exact s.modMx_code _ j
  · rfl

@[simp] theorem demandRing_code (s : State) (f : MatF) (evk ring b lo count j : Nat) :
    ((demandRing s f evk ring b lo count).core j).code = (s.core j).code := by
  induction count with
  | zero => rfl
  | succ n ih =>
    simp only [demandRing]
    split
    · rw [postMatrix_code, ih]
    · exact ih

@[simp] theorem demand_code (s : State) (f : MatF) (b hiA hiB j : Nat) :
    ((demand s f b hiA hiB).core j).code = (s.core j).code := by
  simp only [demand, State.modMx_code, demandRing_code]

@[simp] theorem matrixFault_code (s : State) (cause ring index j : Nat) :
    ((matrixFault s cause ring index).core j).code = (s.core j).code := by
  have raised (t : State) : ((raiseMatrix t).core j).code = (t.core j).code := by
    unfold raiseMatrix
    split
    · split
      · rw [State.raise_code, State.modMx_code]
      · rfl
    · rfl
  rw [matrixFault, raised]
  exact s.modCore_code _ j fun _ => rfl

theorem code_ite {p : Prop} [Decidable p] {a b : State} {j : Nat} {x : Tab Bundle × (Nat → Nat)}
    (ha : (a.core j).code = x) (hb : (b.core j).code = x) : ((if p then a else b).core j).code = x := by
  split
  · exact ha
  · exact hb

@[simp] theorem acceptCommand_code (s : State) (mop : Nat) (f : MatF) (j : Nat) :
    ((acceptCommand s mop f).core j).code = (s.core j).code := by
  unfold acceptCommand
  extract_lets a mf k base s0 timedStart s1 s2 s3
  have begun : (s0.core j).code = (s.core j).code := s.modMx_code base j
  have mma : (s1.core j).code = (s.core j).code := (s0.modMx_code _ j).trans begun
  have started (t : State) (next : State → Nat → State) (ht : (t.core j).code = (s.core j).code)
      (hnext : ∀ u n, ((next u n).core j).code = (u.core j).code) : ((timedStart t next).core j).code = (s.core j).code :=
    code_ite (code_ite ((matrixFault_code _ _ _ _ _).trans ht) ((hnext _ _).trans ht)) ((hnext _ _).trans ((t.modMx_code _ j).trans ht))
  have claimed : (s2.core j).code = (s.core j).code := code_ite mma ((s1.modMx_code _ j).trans mma)
  have readied : (s3.core j).code = (s.core j).code := (s0.modMx_code _ j).trans begun
  clear_value s3 s2 s1 s0 timedStart
  split_ifs
  · exact (s0.modMx_code _ j).trans begun
  · exact (s0.modMx_code _ j).trans begun
  · exact (matrixFault_code _ _ _ _ _).trans begun
  · exact (s0.modMx_code _ j).trans begun
  · exact (matrixFault_code _ _ _ _ _).trans mma
  · exact started s2 _ claimed fun u _ => u.modMx_code _ j
  · exact started s3 _ readied fun u _ => (demand_code _ _ _ _ _ j).trans (u.modMx_code _ j)

@[simp] theorem takeCommand_code (s : State) (mop : Nat) (f : MatF) (j : Nat) :
    ((takeCommand s mop f).core j).code = (s.core j).code := by
  rw [takeCommand, acceptCommand_code, State.modMx_code]

theorem handOver_code (mop : Nat) (f : MatF) (s : State) (j : Nat) : ((handOver mop f s).core j).code = (s.core j).code := by
  unfold handOver
  split
  · rfl
  split
  · rw [takeCommand_code]
    exact State.modMyRow_code _ _ fun _ => rfl
  · exact State.modMyRow_code _ _ fun _ => rfl

theorem acceptWaiting_code (s : State) (j : Nat) : ((acceptWaiting s).core j).code = (s.core j).code := by
  unfold acceptWaiting
  split
  · rfl
  split
  · rfl
  split
  · rfl
  · rw [takeCommand_code]
    exact s.modCore_code _ j fun _ => Core.setRow_code rfl

theorem State.taken_code (s : State) (j : Nat) : (s.taken.core j).code = (s.core j).code := State.modMyRow_code _ _ fun _ => rfl

/-- A matrix command. -/
def isMatrixCommand : Instr → Bool
  | .mma _ | .mzero _ | .mload _ | .mdrain _ | .simmer _ | .simstop | .mstat | .mfence => true
  | _ => false

theorem allow_ok_eq {b : Bool} {i j : Instr} (h : allow b i = .ok j) : j = i := by
  unfold allow at h
  split at h
  · exact (Except.ok.inj h).symm
  · cases h

theorem isMatrix_of_decodeMatrix {w : BitVec 192} {i : Instr} (h : decodeMatrix w = .ok i) : isMatrixCommand i = true := by
  simp only [decodeMatrix] at h
  split at h
  case h_9 => cases h
  all_goals rw [allow_ok_eq h]; rfl

theorem exec_matrix_code {i : Instr} (hi : isMatrixCommand i = true ∨ i = .matrixCommandAccept) (s : State) (j : Nat) {t : State}
    (h : exec i s = .next t) : (t.core j).code = (s.core j).code := by
  have done {u : State} (h : Host.Outcome.next u = (.next t : Out)) (hu : (u.core j).code = (s.core j).code) :
      (t.core j).code = (s.core j).code := by
    cases h
    exact hu
  obtain hi | rfl := hi
  · cases i with
    | mma f => exact done h (handOver_code _ _ _ _)
    | mzero f => exact done h (handOver_code _ _ _ _)
    | mload f => exact done h (handOver_code _ _ _ _)
    | mdrain f => exact done h (handOver_code _ _ _ _)
    | simmer f => exact done h (handOver_code _ _ _ _)
    | simstop =>
      refine done h ?_
      rw [State.taken_code]
      split
      · exact s.modMx_code _ j
      · rfl
    | mstat => exact done h ((State.taken_code _ _).trans (s.modMx_code _ j))
    | mfence => exact done h (State.taken_code _ _)
    | _ => cases hi
  · exact done h (acceptWaiting_code _ _)


/-! ### A row by itself -/

/-- A row outside a sync group is a unit of its own; its turn begins with the group as it stands. -/
theorem runUnit_single {s : State} {core r : Nat} (h : (s.core core).isSync r = false) :
    runUnit core [r] s =
      let s1 := s.setCore core (s.core core)
      if (s.core core).form r = some .theEnd then exec .endRow { s1 with cur := { m := core, row := r } }
      else match breach s1 core r with
        | some slot => .next (s1.modCore core (fun c => c.fault { row := r, cause := 0x13, slot, bundle := (c.row r).pc }))
        | none => .next (issueUnit core [r] s1) := by
  have hgroup : s.modCore core (fun c => if [r].any c.isSync && c.group == [] then { c with group := [r] } else c) =
      s.setCore core (s.core core) := by
    rw [State.modCore_eq]
    simp only [List.any_cons, h, List.any_nil, Bool.or_false, Bool.false_and, Bool.false_eq_true, if_false]
  have hjoin : (s.core core).joining r = false := by simp only [Core.joining, h, Bool.and_false]
  simp only [runUnit, hgroup, State.setCore_core_same, List.findSome?_cons, List.findSome?_nil, hjoin, Bool.false_eq_true, if_false,
    beq_iff_eq]
  cases breach (s.setCore core (s.core core)) core r <;> rfl

theorem runUnit_end {s : State} {core r : Nat} (h : (s.core core).isSync r = false) (hend : (s.core core).form r = some .theEnd) :
    runUnit core [r] s = exec .endRow { s.setCore core (s.core core) with cur := { m := core, row := r } } :=
  (runUnit_single h).trans (if_pos hend)

theorem runUnit_issue {s : State} {core r : Nat} (h : (s.core core).isSync r = false) (hend : (s.core core).form r ≠ some .theEnd)
    (hbreach : breach (s.setCore core (s.core core)) core r = none) :
    runUnit core [r] s = .next (issueUnit core [r] (s.setCore core (s.core core))) := by
  refine (runUnit_single h).trans ((if_neg hend).trans ?_)
  rw [hbreach]

section
variable {s : State} {core r : Nat} {rest : List Move} (h : s.agenda = .rows core [r] :: rest)
include h

/-- The state in which row `r`'s turn is judged. -/
def State.rowsTurn (s : State) (core : Nat) (rest : List Move) : State :=
  let s0 : State := { s with agenda := rest, tick := s.tick + 1 }
  s0.setCore core (s.core core)

theorem step_row_end (hsync : (s.core core).isSync r = false) (hend : (s.core core).form r = some .theEnd) :
    step s = exec .endRow { s.rowsTurn core rest with cur := { m := core, row := r } } := by
  exact (step_cons h).trans (runUnit_end (s := { s with agenda := rest, tick := s.tick + 1 }) hsync hend)

theorem step_row (hsync : (s.core core).isSync r = false) (hend : (s.core core).form r ≠ some .theEnd)
    (hbreach : breach (s.rowsTurn core rest) core r = none) :
    step s = .next (issueUnit core [r] (s.rowsTurn core rest)) := by
  exact (step_cons h).trans (runUnit_issue (s := { s with agenda := rest, tick := s.tick + 1 }) hsync hend hbreach)

end

/-- A row by itself that neither holds nor faults issues, or hands its command over. -/
theorem issueUnit_single {s : State} {core r : Nat} (hfin : (s.core core).finished r = false)
    (hholds : (judge s core [r]).holds = false) (hfaults : (judge s core [r]).faults = []) :
    issueUnit core [r] s =
      if (s.core core).occupying r = true ∧ ¬((s.core core).matrix.accepts = true ∧ lowerHands s core r [r] = false)
      then offer core r [r] s else issueAll core [r] s := by
  cases hocc : (s.core core).occupying r
  · simp [issueUnit, hfin, hholds, hfaults, hocc]
  · cases hacc : (s.core core).matrix.accepts <;> cases hlow : lowerHands s core r [r] <;>
      simp [issueUnit, hfin, hholds, hfaults, hocc, hacc, hlow]

/-- The issue of a row by itself: its command, its slots, its count, and what a `bqpush` fixes. -/
theorem issueAll_single (core r : Nat) (s : State) :
    issueAll core [r] s =
      let t := issueTaken (issueSlots core (unitHeads s core) ((s.core core).issuing r) (offer core r [r] s)) core r
      if (t.core core).finished r then latchRow t core r else t := by
  simp only [issueAll, List.flatMap_cons, List.flatMap_nil, List.append_nil, List.foldl_cons, List.foldl_nil, List.filter_cons,
    List.filter_nil]
  split <;> rfl

/-! ### A matrix command -/

theorem form_of_matrixOp {c : Core} {r : Nat} {i : Instr} (h : c.matrixOp r = some i) : ∃ sync, c.form r = some (.matrix sync i) := by
  unfold Core.matrixOp at h
  split at h
  · next hform => cases h; exact ⟨_, hform⟩
  · cases h

theorem decodeMatrix_of_decodeBundle {b : Bundle} {sync : Bool} {i : Instr} (h : decodeBundle b = .ok (.matrix sync i)) :
    decodeMatrix (b.extractLsb' 0 192) = .ok i := by
  simp only [decodeBundle] at h
  split at h
  · split at h
    · cases h
    · split at h <;> cases h
  · split at h
    · cases h
    · split at h
      · cases h
      · next hm => cases h; exact hm
  · split at h <;> cases h
  · cases h

theorem decodeRowControl_of_decodeBundle {b : Bundle} {sync : Bool} {ops : List Instr} {rc : Option Instr} {imm : Word32}
    (h : decodeBundle b = .ok (.normal sync ops rc imm)) : decodeRowControl b.header = .ok rc := by
  simp only [decodeBundle] at h
  split at h
  · split at h
    · cases h
    · next hrc =>
      split at h
      case h_5 => cases h; exact hrc
      all_goals cases h
  · split at h
    · cases h
    · split at h <;> cases h
  · split at h <;> cases h
  · cases h

theorem decodeBundle_of_form {c : Core} {r : Nat} {f : BundleForm} (h : c.form r = some f) : decodeBundle (c.here r) = .ok f := by
  unfold Core.form at h
  split at h
  · next hf => rw [hf, Option.some.inj h]
  · cases h

theorem isMatrix_of_matrixOp {c : Core} {r : Nat} {i : Instr} (h : c.matrixOp r = some i) : isMatrixCommand i = true := by
  obtain ⟨sync, hform⟩ := form_of_matrixOp h
  exact isMatrix_of_decodeMatrix (decodeMatrix_of_decodeBundle (decodeBundle_of_form hform))

theorem latchRow_of_control {s : State} {core r : Nat} (h : (s.core core).control r = none) : latchRow s core r = s := by
  simp only [latchRow, h]

theorem offer_command {s : State} {core r : Nat} {i : Instr} (hop : (s.core core).matrixOp r = some i)
    (htaken : ((s.core core).row r).taken = false) (hgo : ¬((s.core core).occupying r = true ∧ lowerHands s core r [r] = true)) :
    offer core r [r] s = outState { s with cur := { m := core, row := r } }
      (exec (if ((s.core core).row r).handed && (s.core core).matrix.accepts then .matrixCommandAccept else i)
        { s with cur := { m := core, row := r } }) := by
  simp only [offer, hop, htaken, Bool.false_eq_true, if_false]
  exact if_neg (by rwa [Bool.and_eq_true])

theorem offer_waits {s : State} {core r : Nat} {i : Instr} (hop : (s.core core).matrixOp r = some i)
    (htaken : ((s.core core).row r).taken = false) (hocc : (s.core core).occupying r = true) (hlow : lowerHands s core r [r] = true) :
    offer core r [r] s = s.modCore core (fun c => c.setRow r { c.row r with handed := true }) := by
  simp only [offer, hop, htaken, hocc, hlow, Bool.false_eq_true, if_false, Bool.and_self, if_true]

theorem issueTaken_code (s : State) (core r j : Nat) : ((issueTaken s core r).core j).code = (s.core j).code := by
  refine s.modCore_code _ _ fun c => Core.setRow_code ?_
  split <;> rfl

/-- The row's command is taken in this issue cycle, in which the row has no slot and no control. -/
theorem issueAll_command {s : State} {core r : Nat} {i : Instr} (hop : (s.core core).matrixOp r = some i)
    (htaken : ((s.core core).row r).taken = false) (hgo : ¬((s.core core).occupying r = true ∧ lowerHands s core r [r] = true)) :
    ∃ t, exec (if ((s.core core).row r).handed && (s.core core).matrix.accepts then .matrixCommandAccept else i)
        { s with cur := { m := core, row := r } } = .next t ∧ issueAll core [r] s = issueTaken t core r := by
  obtain ⟨t, ht⟩ := exec_next (if ((s.core core).row r).handed && (s.core core).matrix.accepts then .matrixCommandAccept else i)
    { s with cur := { m := core, row := r } }
  refine ⟨t, ht, ?_⟩
  have hoffer : offer core r [r] s = t := by rw [offer_command hop htaken hgo, ht]; rfl
  obtain ⟨sync, hform⟩ := form_of_matrixOp hop
  have hissuing : (s.core core).issuing r = [] := by simp only [Core.issuing, hform]
  have hcode : ((issueTaken t core r).core core).code = (s.core core).code := by
    rw [issueTaken_code]
    refine exec_matrix_code ?_ { s with cur := { m := core, row := r } } core ht
    split
    · exact .inr rfl
    · exact .inl (isMatrix_of_matrixOp hop)
  have hcontrol : ((issueTaken t core r).core core).control r = none := by
    simp only [Core.control, Core.form_of_code hcode, hform]
  rw [issueAll_single, hissuing, hoffer]
  exact (if_congr Iff.rfl (latchRow_of_control hcontrol) rfl).trans (ite_self _)

/-- The row's one slot issues. -/
theorem issueAll_slot {s : State} {core r : Nat} {o : SlotOp} (hop : (s.core core).matrixOp r = none)
    (hissuing : (s.core core).issuing r = [o]) :
    ∃ t, exec o.op { s with cur := { m := core, row := o.row, pe := o.slot, rep := o.rep, peek := unitHeads s core } } = .next t ∧
      issueAll core [r] s =
        if ((issueTaken t core r).core core).finished r then latchRow (issueTaken t core r) core r else issueTaken t core r := by
  obtain ⟨t, ht⟩ := exec_next o.op { s with cur := { m := core, row := o.row, pe := o.slot, rep := o.rep, peek := unitHeads s core } }
  refine ⟨t, ht, ?_⟩
  have hoffer : offer core r [r] s = s := by simp only [offer, hop]
  have hslots : issueSlots core (unitHeads s core) [o] s = t := by
    simp only [issueSlots, ht]
    rfl
  rw [issueAll_single, hissuing, hoffer, hslots]

theorem occupying_of_matrixOp {c : Core} {r : Nat} {i : Instr} (hop : c.matrixOp r = some i) (htaken : (c.row r).taken = false) :
    c.occupying r = (commandOf i).isSome := by
  simp only [Core.occupying, htaken, hop, Option.bind_some, Bool.not_false, Bool.true_and]

theorem finished_of_matrixOp {c : Core} {r : Nat} {i : Instr} (hop : c.matrixOp r = some i) (htaken : (c.row r).taken = false) :
    c.finished r = false := by
  obtain ⟨sync, hform⟩ := form_of_matrixOp hop
  simp only [Core.finished, hform, htaken, Bool.false_and]

section
variable {s : State} {core r : Nat} {rest : List Move} (h : s.agenda = .rows core [r] :: rest)
  (hsync : (s.core core).isSync r = false) (hend : (s.core core).form r ≠ some .theEnd)
  (hbreach : breach (s.rowsTurn core rest) core r = none) (hholds : (judge (s.rowsTurn core rest) core [r]).holds = false)
  (hfaults : (judge (s.rowsTurn core rest) core [r]).faults = [])

theorem State.rowsTurn_core (s : State) (core : Nat) (rest : List Move) : (s.rowsTurn core rest).core core = s.core core :=
  State.setCore_core_same _ core _

/-- The array, or the lack of a need for it, lets the row's command take its issue cycle. -/
def State.Goes (s : State) (core r : Nat) (i : Instr) : Prop :=
  commandOf i = none ∨ ((s.core core).matrix.accepts = true ∧ lowerHands s core r [r] = false)

include h hsync hend hbreach hholds hfaults

/-- What a row that has not finished its bundle does. -/
theorem step_row_issue (hfin : (s.core core).finished r = false) :
    step s = .next (if (s.core core).occupying r = true ∧
        ¬((s.core core).matrix.accepts = true ∧ lowerHands (s.rowsTurn core rest) core r [r] = false)
      then offer core r [r] (s.rowsTurn core rest) else issueAll core [r] (s.rowsTurn core rest)) := by
  have hissue := issueUnit_single (s := s.rowsTurn core rest) (by rwa [s.rowsTurn_core]) hholds hfaults
  rw [s.rowsTurn_core] at hissue
  exact (step_row h hsync hend hbreach).trans (congrArg _ hissue)

section
variable {i : Instr} (hop : (s.core core).matrixOp r = some i) (htaken : ((s.core core).row r).taken = false)
include hop htaken

/-- A command that the array takes, or that needs none, is executed in the row's issue cycle. -/
theorem step_row_takes (hgoes : (s.rowsTurn core rest).Goes core r i) :
    ∃ t, exec (if ((s.core core).row r).handed && (s.core core).matrix.accepts then .matrixCommandAccept else i)
        { s.rowsTurn core rest with cur := { m := core, row := r } } = .next t ∧ step s = .next (issueTaken t core r) := by
  have hocc := occupying_of_matrixOp hop htaken
  rw [State.Goes, s.rowsTurn_core] at hgoes
  have hgo : ¬((s.core core).occupying r = true ∧ lowerHands (s.rowsTurn core rest) core r [r] = true) := by
    rintro ⟨hsome, hlow⟩
    obtain hnone | ⟨-, hfree⟩ := hgoes
    · rw [hocc, hnone] at hsome; cases hsome
    · rw [hfree] at hlow; cases hlow
  rw [← s.rowsTurn_core core rest] at hop htaken hgo
  obtain ⟨t, ht, hall⟩ := issueAll_command hop htaken hgo
  rw [s.rowsTurn_core] at ht hop htaken
  refine ⟨t, ht, ?_⟩
  rw [step_row_issue h hsync hend hbreach hholds hfaults (finished_of_matrixOp hop htaken), if_neg, hall]
  rintro ⟨hsome, hno⟩
  obtain hnone | hyes := hgoes
  · rw [hocc, hnone] at hsome; cases hsome
  · exact hno hyes

/-- A command that the array does not take is only handed over. -/
theorem step_row_offers (hwait : ¬(s.rowsTurn core rest).Goes core r i) :
    step s = .next (offer core r [r] (s.rowsTurn core rest)) ∧ (s.core core).occupying r = true := by
  obtain ⟨hsome, hno⟩ := not_or.mp hwait
  rw [s.rowsTurn_core] at hno
  have hocc : (s.core core).occupying r = true :=
    (occupying_of_matrixOp hop htaken).trans (Option.isSome_iff_ne_none.mpr hsome)
  exact ⟨by rw [step_row_issue h hsync hend hbreach hholds hfaults (finished_of_matrixOp hop htaken), if_pos ⟨hocc, hno⟩], hocc⟩

/-- Behind a lower row's command it waits. -/
theorem step_row_waits (hwait : ¬(s.rowsTurn core rest).Goes core r i) (hlow : lowerHands (s.rowsTurn core rest) core r [r] = true) :
    step s = .next ((s.rowsTurn core rest).setCore core ((s.core core).setRow r { (s.core core).row r with handed := true })) := by
  obtain ⟨hstep, hocc⟩ := step_row_offers h hsync hend hbreach hholds hfaults hop htaken hwait
  rw [← s.rowsTurn_core core rest] at hop htaken hocc
  rw [hstep, offer_waits hop htaken hocc hlow, State.modCore_eq, s.rowsTurn_core]

/-- With no lower row's command before it, it is handed to the array. -/
theorem step_row_hands (hwait : ¬(s.rowsTurn core rest).Goes core r i) (hlow : lowerHands (s.rowsTurn core rest) core r [r] = false) :
    step s = exec i { s.rowsTurn core rest with cur := { m := core, row := r } } := by
  obtain ⟨hstep, hocc⟩ := step_row_offers h hsync hend hbreach hholds hfaults hop htaken hwait
  have hacc : (s.core core).matrix.accepts = false := by
    rw [← Bool.not_eq_true]
    exact fun hacc => hwait (.inr ⟨by rwa [s.rowsTurn_core], hlow⟩)
  rw [← s.rowsTurn_core core rest] at hop htaken
  have hoffer := offer_command hop htaken fun hboth => Bool.false_ne_true (hlow.symm.trans hboth.2)
  obtain ⟨t, ht⟩ := exec_next i { s.rowsTurn core rest with cur := { m := core, row := r } }
  rw [s.rowsTurn_core, hacc, Bool.and_false, if_neg Bool.false_ne_true, ht] at hoffer
  rw [hstep, hoffer, ht]
  rfl

end

/-- The row's one slot issues. -/
theorem step_row_slot {o : SlotOp} (hop : (s.core core).matrixOp r = none) (hfin : (s.core core).finished r = false)
    (hone : (s.core core).issuing r = [o]) :
    ∃ t, exec o.op { s.rowsTurn core rest with
        cur := { m := core, row := o.row, pe := o.slot, rep := o.rep, peek := unitHeads (s.rowsTurn core rest) core } } = .next t ∧
      step s = .next (if ((issueTaken t core r).core core).finished r then latchRow (issueTaken t core r) core r
        else issueTaken t core r) := by
  have hocc : (s.core core).occupying r = false := by
    rw [Core.occupying, hop]
    exact Bool.and_false _
  have hstep := step_row_issue h hsync hend hbreach hholds hfaults hfin
  rw [if_neg fun hboth => Bool.false_ne_true (hocc.symm.trans hboth.1)] at hstep
  rw [← s.rowsTurn_core core rest] at hop hone
  obtain ⟨t, ht, hall⟩ := issueAll_slot hop hone
  exact ⟨t, ht, hstep.trans (congrArg _ hall)⟩

end

/-! ### Row controls -/

/-- What decides whether the rows other than `r` are at the end of their bundles. -/
def Core.elsewhere (c : Core) (r : Nat) : Tab Bundle × (Nat → Row) := (c.store, fun q => if q = r then {} else c.row q)

/-- Row `q` applies no control: it is inside its bundle, or does not run. -/
def Core.resting (c : Core) (q : Nat) : Prop := c.finished q = false ∨ (c.row q).run ≠ .running

theorem Core.resting_of_elsewhere {c d : Core} {r q : Nat} (h : d.elsewhere r = c.elsewhere r) (hq : q ≠ r) :
    d.resting q ↔ c.resting q := by
  obtain ⟨hstore, hrows⟩ := Prod.mk.inj h
  have hrow : d.row q = c.row q := by
    have := congrFun hrows q
    simpa only [if_neg hq] using this
  simp only [Core.resting, Core.finished, Core.form, Core.here, Core.bundle, hrow, hstore]

theorem Core.setRow_elsewhere (c : Core) (r : Nat) (x : Row) : (c.setRow r x).elsewhere r = c.elsewhere r := by
  refine congrArg (Prod.mk c.store) (funext fun q => ?_)
  by_cases hq : q = r
  · rw [if_pos hq, if_pos hq]
  · rw [if_neg hq, if_neg hq, Core.setRow, Core.row, Tab.get_put_other _ _ _ _ _ (Ne.symm hq), Core.row]

/-- The rows other than the acting one, and where the acting one is. -/
def State.elsewhere (s : State) : Cur × Tab Bundle × (Nat → Row) := (s.cur, s.myCore.elsewhere s.cur.row)

theorem State.modMyCore_elsewhere (s : State) {f : Core → Core} (hf : ∀ c, (f c).elsewhere s.cur.row = c.elsewhere s.cur.row) :
    (s.modMyCore f).elsewhere = s.elsewhere := by
  refine congrArg (Prod.mk s.cur) ?_
  rw [State.modMyCore_eq, State.myCore, State.setCore_cur, State.setCore_core_same, hf]

theorem State.modMyRow_elsewhere (s : State) (f : Row → Row) : (s.modMyRow f).elsewhere = s.elsewhere :=
  s.modMyCore_elsewhere fun c => c.setRow_elsewhere _ _

theorem State.jumpRow_elsewhere (s : State) (pc : Nat) : (s.jumpRow pc).elsewhere = s.elsewhere :=
  s.modMyCore_elsewhere fun c => c.setRow_elsewhere _ _

theorem State.setLoop_elsewhere (s : State) (l : BitVec 2) (v : Word32) : (s.setLoop l v).elsewhere = s.elsewhere :=
  s.modMyRow_elsewhere _

theorem Core.fault_elsewhere (c : Core) (x : XFault) (r : Nat) : (c.fault x).elsewhere r = c.elsewhere r := by
  unfold Core.fault
  split
  · rfl
  · split <;> rfl

theorem State.nextBundle_elsewhere (s : State) {k : State → State} (hk : ∀ t, (k t).elsewhere = t.elsewhere) :
    (s.nextBundle k).elsewhere = s.elsewhere := by
  simp only [State.nextBundle]
  split
  · exact s.modMyCore_elsewhere fun c => c.fault_elsewhere _ _
  · rw [hk, s.jumpRow_elsewhere]

theorem waitEmpty_elsewhere (s : State) (q slot : Nat) : (waitEmpty s s.cur.m s.cur.row q slot).elsewhere = s.elsewhere := by
  have counted (t : State) (core r : Nat) : (qemptyEvent t core q r slot).elsewhere = t.elsewhere := by
    simp only [qemptyEvent]
    split <;> rfl
  unfold waitEmpty
  split
  · rfl
  · rw [counted]
    exact s.modMyCore_elsewhere fun c => c.setRow_elsewhere _ _

theorem latchBq_elsewhere (s : State) (pe : BitVec 2) (r : BitVec 3) : (latchBq s pe r).elsewhere = s.elsewhere := by
  unfold latchBq
  split
  · rfl
  · exact s.modMyRow_elsewhere _

/-- A row control. -/
def isRowControl : Instr → Bool
  | .jmp _ | .brTok .. | .loopRow .. | .endloop .. | .bqpush .. | .halt => true
  | _ => false

/-- A row control changes no other row. -/
theorem exec_rowControl_elsewhere {i : Instr} (hi : isRowControl i = true) (s : State) {t : State} (h : exec i s = .next t) :
    t.elsewhere = s.elsewhere := by
  have done {u : State} (h : Host.Outcome.next u = (.next t : Out)) (hu : u.elsewhere = s.elsewhere) : t.elsewhere = s.elsewhere := by
    cases h
    exact hu
  cases i with
  | jmp target => exact done h (s.jumpRow_elsewhere _)
  | brTok q kind target =>
    refine done h ?_
    split
    · exact waitEmpty_elsewhere s _ _
    split
    · exact s.jumpRow_elsewhere _
    · exact s.nextBundle_elsewhere fun _ => rfl
  | loopRow l count => exact done h (s.nextBundle_elsewhere fun u => u.setLoop_elsewhere _ _)
  | endloop l target =>
    refine done h ?_
    dsimp only
    split
    · rw [State.jumpRow_elsewhere, State.setLoop_elsewhere]
    · exact s.nextBundle_elsewhere fun u => u.setLoop_elsewhere _ _
  | bqpush pe r =>
    refine done h ?_
    have latched := latchBq_elsewhere s pe r
    dsimp only
    split
    · exact latched
    · refine (State.nextBundle_elsewhere _ ?_).trans latched
      exact fun u => u.modMyCore_elsewhere fun _ => rfl
  | halt => exact done h (s.modMyRow_elsewhere _)
  | _ => cases hi

theorem isRowControl_of_decodeRowControl {w : Word} {i : Instr} (h : decodeRowControl w = .ok (some i)) : isRowControl i = true := by
  simp only [decodeRowControl] at h
  split at h
  case h_8 => cases h
  all_goals
    split at h
    · cases h <;> rfl
    · cases h

theorem isRowControl_of_control {c : Core} {r : Nat} {i : Instr} (h : c.control r = some i) : isRowControl i = true := by
  unfold Core.control at h
  split at h
  · next hform => exact isRowControl_of_decodeRowControl (h ▸ decodeRowControl_of_decodeBundle (decodeBundle_of_form hform))
  · cases h

theorem controlPass_resting {core : Nat} {group : List Nat} {goes : Bool} {s : State} {l : List Nat}
    (h : ∀ q ∈ l, (s.core core).resting q) : controlPass core group goes l s = some s := by
  induction l with
  | nil => rfl
  | cons q l ih =>
    have hskip : (!((s.core core).finished q) || ((s.core core).row q).run != .running || !(mayControl s (s.core core) q)) = true := by
      obtain hq | hq := h q List.mem_cons_self
      · simp [hq]
      · simp [hq]
    rw [controlPass, if_pos hskip]
    exact ih fun x hx => h x (List.mem_cons_of_mem _ hx)

/-- Of rows that each act by themselves, the one at the end of its bundle applies its control. -/
theorem controlPass_one {core r : Nat} {s : State} (hfin : (s.core core).finished r = true)
    (hrun : ((s.core core).row r).run = .running) (hmay : mayControl s (s.core core) r = true) {l : List Nat}
    (hnodup : l.Nodup) (hr : r ∈ l) (hs : ∀ q ∈ l, q ≠ r → (s.core core).resting q)
    (ht : ∀ q ∈ l, q ≠ r → ((applyControl core r s).core core).resting q) :
    controlPass core [] false l s = some (applyControl core r s) := by
  induction l with
  | nil => cases hr
  | cons q l ih =>
    obtain ⟨hq, hnodup⟩ := List.nodup_cons.mp hnodup
    by_cases hqr : q = r
    · subst hqr
      have hacts : (!((s.core core).finished q) || ((s.core core).row q).run != .running || !(mayControl s (s.core core) q)) = false := by
        simp [hfin, hrun, hmay]
      rw [controlPass, if_neg (by rw [hacts]; exact Bool.false_ne_true)]
      exact controlPass_resting fun x hx => ht x (List.mem_cons_of_mem _ hx) fun hxq => hq (hxq ▸ hx)
    · have hskip : (!((s.core core).finished q) || ((s.core core).row q).run != .running || !(mayControl s (s.core core) q)) = true := by
        obtain hq | hq := hs q List.mem_cons_self hqr
        · simp [hq]
        · simp [hq]
      rw [controlPass, if_pos hskip]
      exact ih hnodup ((List.mem_cons.mp hr).resolve_left (Ne.symm hqr)) (fun x hx => hs x (List.mem_cons_of_mem _ hx))
        fun x hx => ht x (List.mem_cons_of_mem _ hx)

/-- The end of an issue cycle in which one row, in no group, is at the end of its bundle. -/
theorem runControls_one {s : State} {core r : Nat} {i : Instr}
    (hrows : ∀ q < 4, ((s.core core).row q).done = false ∧ (q ≠ r → (s.core core).resting q))
    (hgroup : (s.core core).group = []) (hmay : mayControl s (s.core core) r = true) (hr : r < 4)
    (hrun : ((s.core core).row r).run = .running) (hfin : (s.core core).finished r = true) (hcontrol : (s.core core).control r = some i) :
    ∃ t, exec i { s with cur := { m := core, row := r } } = .next t ∧ runControls core s = freezeArray t core := by
  obtain ⟨t, ht⟩ := exec_next i { s with cur := { m := core, row := r } }
  have happly : applyControl core r s = t := by
    unfold applyControl
    change (match (s.core core).control r with | some i => _ | none => _) = t
    rw [hcontrol]
    change outState _ (exec i { s with cur := { m := core, row := r } }) = t
    rw [ht]
    rfl
  have helse := exec_rowControl_elsewhere (isRowControl_of_control hcontrol) _ ht
  have hothers : (t.core core).elsewhere r = (s.core core).elsewhere r := by
    obtain ⟨hcur, hcore⟩ := Prod.mk.inj helse
    rwa [State.myCore, hcur] at hcore
  have hdone : (s.core core).doneRows s.cyc = [] := by
    refine List.filter_eq_nil_iff.mpr fun x hx => ?_
    obtain ⟨q, hq, rfl⟩ := List.mem_map.mp hx
    simp [(hrows q (List.mem_range.mp hq)).1]
  have hpass : controlPass core [] false (List.range 4) s = some t := by
    rw [← happly]
    refine controlPass_one hfin hrun hmay List.nodup_range (List.mem_range.mpr hr) (fun q hq => (hrows q (List.mem_range.mp hq)).2)
      fun q hq hqr => ?_
    rw [happly]
    exact (Core.resting_of_elsewhere hothers hqr).mpr ((hrows q (List.mem_range.mp hq)).2 hqr)
  refine ⟨t, ht, ?_⟩
  simp only [runControls, hdone, if_true, applyControls, hgroup, List.filter_nil, hpass]
  rfl


/-- Settles O58: a step is the meaning of the move at the head of the agenda, for a thread the fetch and the decoded instruction; the
controls and commands of a row leave the other rows, and the row's own bundle, where they are. -/
theorem stepRunsInstruction : Obligations.StepRunsInstruction := by
  unfold Obligations.StepRunsInstruction
  refine ⟨step_next, ?_, ?_, fun s k i rest hlate hrun => step_late hlate hrun, ?_, ?_, fun s m t i rest h => step_cons h⟩
  · intro s h
    exact ⟨_, step_nil h, rfl, rfl, rfl, rfl, rfl, rfl, by rw [← h]; rfl⟩
  · intro s m t rest h s0 runs ag
    refine ⟨step_thread_idle h, fun hrun => ?_⟩
    have hstep : step s = s0.fetch issueWord := step_thread_fetch h hrun
    refine ⟨fun w hw => ?_, fun hnone hout => hstep.trans (fetch_outside _ hnone hout), fun hnone hin => ?_⟩
    · exact step_runs (hstep.trans (fetch_of_fetched issueWord hw)) rfl
    have hfetch := hstep.trans (fetch_inside issueWord hnone hin)
    rw [show s0.fetchAgent = ag from rfl] at hfetch
    refine ⟨fun c v hc => ?_, fun t u hc => ?_, fun acc hc => ?_⟩
    · rw [hfetch, hc]
    · rw [hfetch, hc]
    rw [hc] at hfetch
    refine ⟨fun hp => hfetch.trans (if_pos hp), fun hp hfar => ?_, fun hp hfar => ?_⟩
    · exact hfetch.trans ((if_neg (ne_true_of_eq_false hp)).trans (if_pos (Option.isSome_iff_ne_none.mpr hfar)))
    · have hnear : ¬acc.far.isSome = true := by rw [hfar]; exact Bool.false_ne_true
      exact step_runs (hfetch.trans ((if_neg (ne_true_of_eq_false hp)).trans (if_neg hnear))) (commitAccess_agenda s0 ag needFetch acc)
  · intro s core r rest h s0 c s1 at_ hsync
    refine ⟨step_row_end h hsync, fun hend hbreach hholds hfaults => ⟨fun i hop htaken => ?_, fun o => ?_⟩⟩
    · intro goes
      have hgoes : (s.rowsTurn core rest).Goes core r i ↔ goes := by rw [State.Goes, s.rowsTurn_core]; rfl
      exact ⟨fun hgo => step_row_takes h hsync hend hbreach hholds hfaults hop htaken (hgoes.mpr hgo),
        fun hno => step_row_waits h hsync hend hbreach hholds hfaults hop htaken (mt hgoes.mp hno),
        fun hno => step_row_hands h hsync hend hbreach hholds hfaults hop htaken (mt hgoes.mp hno)⟩
    · exact step_row_slot h hsync hend hbreach hholds hfaults
  · intro s core r rest i h s0 c hrows hgroup hxfault hfrozen hsaving hr hrun hfin hcontrol
    have hmay : mayControl s0 c r = true := by simp [mayControl, hxfault, hfrozen, hsaving]
    obtain ⟨t, ht, hstep⟩ := runControls_one hrows hgroup hmay hr hrun hfin hcontrol
    exact ⟨t, ht, (step_cons h).trans (congrArg Host.Outcome.next hstep)⟩

end Sys2Proof.Machine
end

section
/-! PROOF. The supervisor family (12 R382 to R390, R395): invalidation, migration piece by piece, access tables, freeze and thaw. -/

namespace Sys2Proof.Machine

/-! ### Supervisor instructions -/

/-- The meaning of a supervisor instruction whose registers hold good data, in supervisor state. -/
theorem State.supervisor_reading {s : State} {rs : List Reg} (hsvc : s.me.svc = true) (hrs : s.readable rs) (k : State) :
    s.supervisor (s.reading rs k) = k := by
  rw [State.supervisor_of hsvc, State.reading_of_readable hrs]

theorem State.supervisor_traps {i : Instr} {s k : State} (h : exec i s = .next (s.supervisor k)) (hsvc : s.me.svc = false) :
    Traps i s 0x02 0 := by
  rw [Traps, h, State.supervisor, hsvc]
  rfl

theorem State.hold_me (s : State) (i : Instr) :
    (s.hold i).me = { s.me with held := some i, heldFrom := if s.me.held = some i then s.me.heldFrom else s.cyc } :=
  State.setThr_me s _

/-! ### Invalidation -/

theorem awayThrough_iff (s : State) (job lo n : Nat) :
    s.awayThrough job lo n = true ↔ s.awayIn job lo n = true ∨
      ∃ x ∈ s.cache, x.job = job ∧ x.va < lo + n ∧ lo < x.va + levelSize x.level ∧ s.awayIn job x.va (levelSize x.level) = true := by
  simp [State.awayThrough, meets, and_assoc]

theorem invalidate_holds {i : Instr} {d : Reg} {job lo n : Nat} {s : State} (h : exec i s = .next (invalidate i d job lo n s))
    (hwait : s.awayThrough job lo n = true ∨ s.movingIn job lo n = true) : exec i s = .next (s.hold i) := by
  rw [h, invalidate, if_pos (by rwa [Bool.or_eq_true])]

theorem invalidate_leaves {i : Instr} {d : Reg} {job lo n : Nat} {s : State} (h : exec i s = .next (invalidate i d job lo n s))
    (haway : ¬s.awayThrough job lo n = true) (hmoving : s.movingIn job lo n = false) :
    LeavesAt i s (s.uncache job lo n) d 0 (s.me.pc + 8) s.me.busyTo := by
  refine leavesAt_of_result (base := s.uncache job lo n) ?_
  rw [h, invalidate, if_neg]
  rw [Bool.or_eq_true, hmoving]
  simpa using haway

/-- What an invalidation of [lo, lo + n) does, once its job is known. -/
theorem removes_of_invalidate {i : Instr} {d : Reg} {job lo n : Nat} {s : State} (h : exec i s = .next (invalidate i d job lo n s)) :
    let away : Prop := s.awayIn job lo n = true ∨
      ∃ x ∈ s.cache, x.job = job ∧ x.va < lo + n ∧ lo < x.va + levelSize x.level ∧ s.awayIn job x.va (levelSize x.level) = true
    (away ∨ s.movingIn job lo n = true →
      ∃ t, exec i s = .next t ∧ t.me.held = some i ∧ t.me.pc = s.me.pc ∧ t.cache = s.cache ∧ t.walks = s.walks) ∧
    (¬away → s.movingIn job lo n = false → LeavesAt i s (s.uncache job lo n) d 0 (s.me.pc + 8) s.me.busyTo) := by
  intro away
  have haway : s.awayThrough job lo n = true ↔ away := awayThrough_iff s job lo n
  refine ⟨fun hwait => ⟨_, invalidate_holds h (hwait.imp_left haway.mpr), ?_, ?_, rfl, rfl⟩,
    fun hno => invalidate_leaves h (mt haway.mp hno)⟩
  · rw [State.hold_me]
  · rw [State.hold_me]

/-- The statuses of an invalidation's job number, then what it does. -/
theorem job_of_withJob {i : Instr} {d a : Reg} {s : State} {k : Nat → State} (h : exec i s = .next (withJob d a s k)) {go : Prop}
    (hgo : exec i s = .next (k (s.rx a).toNat) → go) :
    (2 ^ 16 ≤ (s.rx a).toNat → Gives i s d 3) ∧ ((s.rx a).toNat < 2 ^ 16 →
      (¬s.dword (s.sup.jobtab * 2 ^ 22 + 64 * (s.rx a).toNat) % 2 = 1 → Gives i s d 1) ∧
      (s.dword (s.sup.jobtab * 2 ^ 22 + 64 * (s.rx a).toNat) % 2 = 1 → go)) := by
  have status (n : Nat) (hn : jobStatus s (s.rx a) = some n) : Gives i s d (word n) :=
    gives_of_result (by rw [h, withJob, hn])
  refine ⟨fun hbig => status 3 (if_pos (by omega)), fun hsmall => ?_⟩
  have hdiv : ¬(s.rx a).toNat / 2 ^ 16 ≠ 0 := by omega
  refine ⟨fun hinvalid => status 1 ?_, fun hvalid => hgo ?_⟩
  · rw [jobStatus, if_neg hdiv, if_neg (by simpa [State.jobValid] using hinvalid)]
  · have hnone : jobStatus s (s.rx a) = none := by rw [jobStatus, if_neg hdiv, if_pos (by simpa [State.jobValid] using hvalid)]
    rw [h, withJob, hnone]

theorem spanBad_iff (st : Word) (n : Nat) :
    spanBad st n = true ↔ 2 ^ 56 < st.toNat + n ∧ (st.toNat < 0xFF * 2 ^ 56 ∨ 2 ^ 64 < st.toNat + n) := by
  simp [spanBad]

theorem tlbinvAll_holds {d : Reg} {s : State} (hsvc : s.me.svc = true)
    (h : s.remotes ≠ [] ∨ (∃ e ∈ s.cores, ∃ x ∈ e.2.copies, x.far ≠ []) ∨ s.migrations ≠ []) :
    exec (.tlbinvAll d) s = .next (s.hold (.tlbinvAll d)) := by
  refine congrArg Host.Outcome.next ((State.supervisor_of hsvc _).trans (if_pos ?_))
  simpa [or_assoc] using h

theorem tlbinvAll_leaves {d : Reg} {s : State} (hsvc : s.me.svc = true)
    (hremotes : s.remotes = []) (hcopies : ¬∃ e ∈ s.cores, ∃ x ∈ e.2.copies, x.far ≠ []) (hmigrations : s.migrations = []) :
    LeavesAt (.tlbinvAll d) s { s with cache := [], walks := [], jobs := [] } d 0 (s.me.pc + 8) s.me.busyTo := by
  refine leavesAt_of_result (base := { s with cache := [], walks := [], jobs := [] }) ?_
  refine congrArg Host.Outcome.next ((State.supervisor_of hsvc _).trans (if_neg ?_))
  simpa [hremotes, hmigrations] using hcopies

/-! ### Access tables -/

theorem bits_eq_div_mod {w : Nat} (v : BitVec w) (hi lo : Nat) : bits v hi lo = v.toNat / 2 ^ lo % 2 ^ (hi + 1 - lo) := by
  rw [bits, Nat.shiftRight_eq_div_pow]

theorem isTarget_iff (t : Nat) : isTarget t = true ↔
    t < 0x18 ∨ (0x20 ≤ t ∧ t ≤ 0x23) ∨ t = 0x30 ∨ (0x1000 ≤ t ∧ t ≤ 0x1FFF) := by
  simp [isTarget, or_assoc]

/-- The entry that an `acctab` writes, by its fields. -/
theorem accOf_eq (lo hi : Word) : accOf lo hi =
    { limit := lo.toNat / 2 ^ 32, base := lo.toNat % 2 ^ 32, v := hi.getLsbD 63, w := hi.getLsbD 62, r := hi.getLsbD 61,
      mhi := hi.toNat / 2 ^ 13 % 2 ^ 13, mlo := hi.toNat % 2 ^ 13 } := by
  have hlimit : bits lo 63 32 = lo.toNat / 2 ^ 32 := by
    rw [bits_eq_div_mod]
    have := lo.isLt
    omega
  have hbase : bits lo 31 0 = lo.toNat % 2 ^ 32 := by rw [bits_eq_div_mod, pow_zero, Nat.div_one]
  have hmlo : bits hi 12 0 = hi.toNat % 2 ^ 13 := by rw [bits_eq_div_mod, pow_zero, Nat.div_one]
  rw [accOf, hlimit, hbase, hmlo, bits_eq_div_mod]
  rfl

/-- The statuses of `acctab`, in their order (12 R387). -/
theorem acctabStatus_eq (v hi : Word) (e : AccEntry) : acctabStatus v hi e =
    if ¬isTarget (v.toNat / 2 ^ 16 % 2 ^ 16) = true then 1
    else if 2 ^ 32 ≤ v.toNat ∨ v.toNat / 2 ^ 6 % 2 ^ 10 ≠ 0 then 2
    else if hi.toNat / 2 ^ 26 % 2 ^ 35 ≠ 0 then 3
    else if e.v = true ∧ (e.limit < e.base ∨ e.mhi < e.mlo) then 4 else 0 := by
  have htop : bits v 63 32 ≠ 0 ↔ 2 ^ 32 ≤ v.toNat := by
    rw [bits_eq_div_mod]
    have := v.isLt
    omega
  simp only [acctabStatus, htop]
  simp [bits_eq_div_mod]

/-- The state that an `acctab` leaves, but for its register result: the new entry, and the one it replaces, which governs until the end of
the cycle. -/
def State.putAcc (s : State) (target i : Nat) (e : AccEntry) : State :=
  { s with acc := Tab.put s.acc (64 * target + i) e
           accOld := if (Tab.find s.accOld (64 * target + i)).isSome then s.accOld
             else Tab.put s.accOld (64 * target + i) (s.accEntry target i) }

theorem accKey_inj {u t i j : Nat} (hi : i < 64) (hj : j < 64) : 64 * t + i = 64 * u + j ↔ u = t ∧ j = i := by omega

theorem State.putAcc_accEntry (s : State) {target i u j : Nat} (e : AccEntry) (hi : i < 64) (hj : j < 64) :
    (s.putAcc target i e).accEntry u j = if u = target ∧ j = i then e else s.accEntry u j := by
  unfold State.accEntry State.putAcc
  by_cases h : u = target ∧ j = i
  · rw [if_pos h, (accKey_inj hi hj).mpr h, Tab.find_put_same]
  · rw [if_neg h, Tab.find_put_other _ _ _ _ (mt (accKey_inj hi hj).mp h)]

/-- The requests of the cycle are judged by the entries of before (12 R395). -/
theorem State.putAcc_accBefore (s : State) {target i u j : Nat} (e : AccEntry) (hi : i < 64) (hj : j < 64) :
    (s.putAcc target i e).accBefore u j = s.accBefore u j := by
  have hentry := s.putAcc_accEntry (target := target) (u := u) e hi hj
  unfold State.accBefore
  by_cases h : u = target ∧ j = i
  · obtain ⟨rfl, rfl⟩ := h
    cases hold : Tab.find s.accOld (64 * u + j) with
    | some e' => simp [State.putAcc, hold]
    | none => simp [State.putAcc, hold]
  · rw [hentry, if_neg h]
    have hkey := mt (accKey_inj hi hj).mp h
    have hsame : Tab.find (s.putAcc target i e).accOld (64 * u + j) = Tab.find s.accOld (64 * u + j) := by
      unfold State.putAcc
      split
      · rfl
      · exact Tab.find_put_other _ _ _ _ hkey
    rw [hsame]

theorem exec_acctab {s : State} {a b c : Reg} (d : Reg) (hsvc : s.me.svc = true) (hread : s.readable [a, b, c]) :
    exec (.acctab d a b c) s = .next (
      match acctabStatus (s.rx a) (s.rx c) (accOf (s.rx b) (s.rx c)) with
      | 0 => (s.putAcc ((s.rx a).toNat / 2 ^ 16 % 2 ^ 16) ((s.rx a).toNat % 2 ^ 6) (accOf (s.rx b) (s.rx c))).result d 0
      | n => s.result d (word n)) := by
  have htarget : bits (s.rx a) 31 16 = (s.rx a).toNat / 2 ^ 16 % 2 ^ 16 := bits_eq_div_mod _ _ _
  have hindex : bits (s.rx a) 5 0 = (s.rx a).toNat % 2 ^ 6 := by rw [bits_eq_div_mod, pow_zero, Nat.div_one]
  rw [← htarget, ← hindex]
  exact congrArg Host.Outcome.next (State.supervisor_reading hsvc hread _)

theorem acctab_refused {s : State} {a b c : Reg} (d : Reg) (hsvc : s.me.svc = true) (hread : s.readable [a, b, c]) {n : Nat}
    (h : acctabStatus (s.rx a) (s.rx c) (accOf (s.rx b) (s.rx c)) = n + 1) : Gives (.acctab d a b c) s d (word (n + 1)) := by
  have hexec := exec_acctab d hsvc hread
  rw [h] at hexec
  exact gives_of_result hexec

/-! ### Freeze and thaw -/

theorem isMaster_iff (m : Nat) : isMaster m = true ↔
    m < 0x1020 ∨ (0x1040 ≤ m ∧ m ≤ 0x1047) ∨ (0x1050 ≤ m ∧ m ≤ 0x1053) ∨ m = 0x1058 ∨ (0x1100 ≤ m ∧ m ≤ 0x11BF) := by
  simp [isMaster, or_assoc]

/-- A listed thread changed, or an unlisted one, which is as it was: a change of the listed threads of one master. -/
theorem thr_map_eq (s : State) (m : Nat) (f : Thread → Thread) (k : Nat) :
    Tab.get {} (s.threads.map (fun e => if e.1 / 8 = m then (e.1, f e.2) else e)) k =
      if k / 8 = m ∧ (Tab.find s.threads k).isSome then f (s.thr k) else s.thr k := by
  unfold State.thr
  induction s.threads with
  | nil => simp [Tab.get, Tab.find]
  | cons e l ih =>
    obtain ⟨j, x⟩ := e
    by_cases hj : j = k
    · subst hj
      by_cases hm : j / 8 = m
      · simp [Tab.get, Tab.find, hm]
      · simp [Tab.get, Tab.find, hm]
    · have hget : Tab.get {} ((j, x) :: l) k = Tab.get {} l k := by simp [Tab.get, hj]
      have hfind : Tab.find ((j, x) :: l) k = Tab.find l k := by simp [Tab.find, hj]
      rw [hget, hfind, ← ih, List.map_cons]
      split <;> simp [Tab.get, hj]

theorem thr_unlisted {s : State} {k : Nat} (h : ¬(Tab.find s.threads k).isSome = true) : s.thr k = {} := by
  unfold State.thr
  induction hl : s.threads generalizing s with
  | nil => rfl
  | cons e l ih =>
    obtain ⟨j, x⟩ := e
    rw [hl] at h
    by_cases hj : j = k
    · simp [Tab.find, hj] at h
    · simp only [Tab.find, Tab.get, hj, if_false] at h ⊢
      exact ih (s := { s with threads := l }) h rfl

/-- A property of a master's threads that its change gives, and that a thread at rest has. -/
theorem thr_map_prop {s : State} {m k : Nat} {f : Thread → Thread} {P : Thread → Prop} (hk : k / 8 = m)
    (hf : ∀ th, P (f th)) (hrest : P {}) :
    P (Tab.get {} (s.threads.map (fun e => if e.1 / 8 = m then (e.1, f e.2) else e)) k) := by
  rw [thr_map_eq]
  split
  · exact hf _
  · next h => exact (thr_unlisted fun hlisted => h ⟨hk, hlisted⟩) ▸ hrest

theorem thr_map_other (s : State) {m k : Nat} (f : Thread → Thread) (hk : k / 8 ≠ m) :
    Tab.get {} (s.threads.map (fun e => if e.1 / 8 = m then (e.1, f e.2) else e)) k = s.thr k := by
  rw [thr_map_eq, if_neg fun h => hk h.1]

/-- What a change of the listed threads keeps. -/
theorem thr_map_keeps {α : Type} (s : State) (m k : Nat) {f : Thread → Thread} {g : Thread → α} (hf : ∀ th, g (f th) = g th) :
    g (Tab.get {} (s.threads.map (fun e => if e.1 / 8 = m then (e.1, f e.2) else e)) k) = g (s.thr k) := by
  rw [thr_map_eq]
  split
  · exact hf _
  · rfl

theorem Thread.stopAt_held (th : Thread) (cyc : Nat) : (th.stopAt cyc).held = none := by
  unfold Thread.stopAt Thread.settle
  split <;> rfl

theorem Thread.stopAt_pc (th : Thread) (cyc : Nat) : (th.stopAt cyc).pc = th.pc := by
  unfold Thread.stopAt Thread.settle
  split <;> rfl

theorem Thread.stopAt_reg (th : Thread) (cyc : Nat) (r : Reg) : (th.stopAt cyc).reg r = th.reg r := by
  have hregs : (th.stopAt cyc).regs = th.regs := by
    unfold Thread.stopAt Thread.settle
    split <;> rfl
  rw [Thread.reg, hregs, Thread.reg]

theorem State.result_thr_other {s : State} {k : Nat} (d : Reg) (v : Word) (h : k ≠ s.curKey) : (s.result d v).thr k = s.thr k := by
  rw [State.result_eq, State.setThr_thr_other _ _ _ _ (Ne.symm h)]

theorem State.result_me (s : State) (d : Reg) (v : Word) :
    (s.result d v).me = { s.me.setReg d v with pc := s.me.pc + 8, held := none } := by
  rw [State.result_eq, State.setThr_me]

theorem State.result_rx (s : State) (d r : Reg) (v : Word) : (s.result d v).rx r = if r = d ∧ r ≠ 0 then v else s.rx r := by
  rw [State.rx, State.result_me, State.rx, ← Thread.reg_setReg]
  rfl

theorem State.result_zero_rx (s : State) (d : Reg) : (s.result d 0).rx d = 0 := by
  rw [State.result_rx]
  by_cases hd : d = 0
  · rw [if_neg fun h => h.2 hd, hd]
    rfl
  · rw [if_pos ⟨rfl, hd⟩]

theorem exec_freeze {s : State} {a : Reg} (d : Reg) (hsvc : s.me.svc = true) (hread : s.readable [a]) :
    exec (.freeze d a) s = .next (freezeOp d a s) := congrArg _ (State.supervisor_reading hsvc hread _)

theorem exec_thaw {s : State} {a : Reg} (d : Reg) (hsvc : s.me.svc = true) (hread : s.readable [a]) :
    exec (.thaw d a) s = .next (thawOp d a s) := congrArg _ (State.supervisor_reading hsvc hread _)

section
variable {s : State} {a : Reg} (d : Reg)

theorem freezeOp_unknown (h : ¬isMaster (s.rx a).toNat = true) : freezeOp d a s = s.result d 1 := by simp [freezeOp, h]

theorem thawOp_unknown (h : ¬isMaster (s.rx a).toNat = true) : thawOp d a s = s.result d 1 := by simp [thawOp, h]

variable (hmaster : isMaster (s.rx a).toNat = true)
include hmaster

theorem freezeOp_frozen (h : (s.rx a).toNat ∈ s.frozen) : freezeOp d a s = s.result d 2 := by simp [freezeOp, hmaster, h]

theorem thawOp_running (h : (s.rx a).toNat ∉ s.frozen) : thawOp d a s = s.result d 2 := by simp [thawOp, hmaster, h]

theorem thawOp_denied (h : Tab.get 0 s.deniedAt (s.rx a).toNat = s.cyc + 1) : thawOp d a s = s.result d 2 := by
  simp [thawOp, hmaster, h]

/-- The thread is no longer stopped in an instruction. -/
def Thread.goOn (th : Thread) : Thread := { th with stopIn := none }

/-- The state of a thaw, but for its register result. -/
def State.thawed (s : State) (m : Nat) : State :=
  { s with frozen := s.frozen.filter (· != m), dirty := true
           threads := s.threads.map (fun e => if e.1 / 8 = m then (e.1, e.2.goOn) else e) }

theorem thawOp_thaws (h : (s.rx a).toNat ∈ s.frozen) (hdenied : Tab.get 0 s.deniedAt (s.rx a).toNat ≠ s.cyc + 1) :
    thawOp d a s = (s.thawed (s.rx a).toNat).result d 0 := by
  simp [thawOp, hmaster, h, hdenied, State.thawed, Thread.goOn]

theorem freezeOp_freezes (h : (s.rx a).toNat ∉ s.frozen) : freezeOp d a s =
    State.freezeMaster { s.result d 0 with frozeAt := Tab.put s.frozeAt (s.rx a).toNat (s.cyc + 1) } (s.rx a).toNat := by
  simp [freezeOp, hmaster, h]

end

/-- A thaw lets the threads of its master go on from where they stopped, and changes no other but for the register result. -/
theorem thaw_leaves (s : State) (d : Reg) (m : Nat) :
    let t := (s.thawed m).result d 0
    t.frozen = s.frozen.filter (· != m) ∧ t.dirty = true ∧
      (∀ k, k / 8 = m → (t.thr k).stopIn = none) ∧ (∀ k, k / 8 ≠ m → k ≠ s.curKey → t.thr k = s.thr k) ∧
      t.me.pc = s.me.pc + 8 ∧ (∀ r, t.rx r = if r = d ∧ r ≠ 0 then 0 else s.rx r) ∧ t.mem = s.mem ∧ t.cores = s.cores ∧
      t.tasks = s.tasks := by
  intro t
  have hpc : (s.thawed m).me.pc = s.me.pc := thr_map_keeps s m s.curKey (f := Thread.goOn) (g := Thread.pc) fun _ => rfl
  have hreg (r : Reg) : (s.thawed m).rx r = s.rx r := thr_map_keeps s m s.curKey (f := Thread.goOn) (g := fun th => th.reg r) fun _ => rfl
  have hstop {k : Nat} (hk : k / 8 = m) : ((s.thawed m).thr k).stopIn = none :=
    thr_map_prop (f := Thread.goOn) (P := fun th => th.stopIn = none) hk (fun _ => rfl) rfl
  refine ⟨rfl, rfl, fun k hk => ?_, fun k hk hcur => ?_, ?_, fun r => ?_, rfl, rfl, rfl⟩
  · by_cases hcur : k = s.curKey
    · subst hcur
      change ((s.thawed m).result d 0).me.stopIn = none
      rw [State.result_me]
      refine Eq.trans ?_ (hstop hk)
      unfold Thread.setReg
      split <;> rfl
    · rw [State.result_thr_other (s := s.thawed m) d 0 hcur]
      exact hstop hk
  · rw [State.result_thr_other (s := s.thawed m) d 0 hcur]
    exact thr_map_other s _ hk
  · rw [State.result_me]
    exact congrArg (· + 8) hpc
  · rw [State.result_rx, hreg]

/-- A freeze leaves no thread of its master in a held instruction, and changes no other but for the register result. -/
theorem freeze_leaves (s : State) (d : Reg) (m : Nat) (hm : m ∉ s.frozen) :
    let t := State.freezeMaster { s.result d 0 with frozeAt := Tab.put s.frozeAt m (s.cyc + 1) } m
    t.frozen = m :: s.frozen ∧ (∀ k, k / 8 = m → (t.thr k).held = none) ∧
      (∀ k, k / 8 ≠ m → k ≠ s.curKey → t.thr k = s.thr k) ∧ t.me.pc = s.me.pc + 8 ∧ t.rx d = 0 ∧
      (∀ r, r ≠ d → t.rx r = s.rx r) ∧ t.mem = s.mem ∧ t.cores = s.cores ∧ t.tasks = s.tasks := by
  intro t
  have hreg (r : Reg) : t.rx r = (s.result d 0).rx r :=
    thr_map_keeps (s.result d 0) m s.curKey (g := fun th => th.reg r) fun th => th.stopAt_reg _ r
  have hpc : t.me.pc = (s.result d 0).me.pc :=
    thr_map_keeps (s.result d 0) m s.curKey (g := Thread.pc) fun th => th.stopAt_pc _
  have hfrozen : (s.result d 0).frozen.contains m = false := by
    change s.frozen.contains m = false
    simpa using hm
  refine ⟨if_neg (ne_true_of_eq_false hfrozen), fun k hk => ?_, fun k hk hcur => ?_, ?_, ?_, fun r hr => ?_, rfl, rfl, rfl⟩
  · exact thr_map_prop (s := s.result d 0) (P := fun th => th.held = none) hk (fun th => th.stopAt_held _) rfl
  · exact (thr_map_other (s.result d 0) (·.stopAt (s.result d 0).cyc) hk).trans (State.result_thr_other d 0 hcur)
  · rw [hpc, State.result_me]
  · rw [hreg, State.result_zero_rx]
  · rw [hreg, State.result_rx, if_neg fun h => hr h.1]

/-! ### Bytes written to memory -/

theorem State.bytes_length (s : State) (pa n : Nat) : (s.bytes pa n).length = n := by
  induction n generalizing pa with
  | zero => rfl
  | succ n ih => rw [State.bytes, List.length_cons, ih]

theorem State.bytes_getElem? (s : State) {pa n k : Nat} (h : k < n) : (s.bytes pa n)[k]? = some (s.byteAt (pa + k)) := by
  induction n generalizing pa k with
  | zero => omega
  | succ n ih =>
    cases k with
    | zero => rfl
    | succ k => rw [State.bytes, List.getElem?_cons_succ, ih (by omega), show pa + 1 + k = pa + (k + 1) by omega]

theorem State.bytes_congr {s t : State} {pa n : Nat} (h : ∀ k < n, t.byteAt (pa + k) = s.byteAt (pa + k)) :
    t.bytes pa n = s.bytes pa n := by
  refine List.ext_getElem? fun k => ?_
  by_cases hk : k < n
  · rw [t.bytes_getElem? hk, s.bytes_getElem? hk, h k hk]
  · rw [List.getElem?_eq_none (by rw [State.bytes_length]; omega), List.getElem?_eq_none (by rw [State.bytes_length]; omega)]

theorem ofBytes_lt (bs : List Byte) : ofBytes bs < 256 ^ bs.length := by
  induction bs with
  | nil => exact Nat.one_pos
  | cons b bs ih =>
    have := b.isLt
    rw [ofBytes, List.length_cons, Nat.pow_succ]
    omega

theorem State.dword_lt (s : State) (pa : Nat) : s.dword pa < 2 ^ 64 := by
  have := ofBytes_lt (s.bytes pa 8)
  rwa [State.bytes_length] at this

/-- The PFN of a leaf replaced: a dword again. -/
theorem setBits_pfn_lt {v : Nat} (x : Nat) (hv : v < 2 ^ 64) : setBits v 43 12 x < 2 ^ 64 := by
  simp only [setBits, Nat.shiftRight_eq_div_pow, Nat.shiftLeft_eq]
  omega

theorem State.write_of_memory {s : State} {pa : Nat} (h : isHub pa = false) (bs : List Byte) : s.write pa bs =
    { s with mem := Memory.puts s.mem pa bs, undef := cutInterval s.undef pa (pa + bs.length),
             dead := s.dead.filter (fun g => !(g * 2 ^ 21 < pa + bs.length && pa < (g + 1) * 2 ^ 21))
             deadFrames := s.deadFrames.filter (fun l => !(l.any (fun f => f * 4096 < pa + bs.length && pa < (f + 1) * 4096))) } :=
  if_neg (ne_true_of_eq_false h)

/-- A read of any byte after a write to memory. -/
theorem State.write_byteAt {s : State} (hwf : Memory.wf s.mem = true) {pa : Nat} {bs : List Byte}
    (hpa : isHub pa = false) (hall : ∀ p, pa ≤ p → p < pa + bs.length → isHub p = false) (p : Nat) :
    (s.write pa bs).byteAt p = if pa ≤ p ∧ p < pa + bs.length then bs[p - pa]?.getD 0 else s.byteAt p := by
  rw [State.write_of_memory hpa]
  by_cases hp : isHub p = true
  · have hout : ¬(pa ≤ p ∧ p < pa + bs.length) := fun h => by rw [hall p h.1 h.2] at hp; cases hp
    rw [if_neg hout, State.byteAt, State.byteAt, if_pos hp, if_pos hp]
    rfl
  · simp only [State.byteAt, if_neg hp, inSpans_cutInterval, Memory.get_puts _ _ _ hwf]
    by_cases hin : pa ≤ p ∧ p < pa + bs.length
    · simp [hin]
    · rw [if_neg hin, if_neg hin]
      have : (decide (pa ≤ p) && decide (p < pa + bs.length)) = false := by simpa using hin
      rw [this]
      simp

theorem State.byteAt_poison (s : State) (l : List Nat) (p : Nat) : State.byteAt { s with poison := l } p = s.byteAt p := rfl

/-- No byte of an aligned block is a hub register when its first is not. -/
theorem isHub_block {n pa p : Nat} (hn : n = 8 ∨ n = 4096) (hpa : pa % n = 0) (h : isHub pa = false) (hlo : pa ≤ p) (hhi : p < pa + n) :
    isHub p = false := by
  have hub (x : Nat) : isHub x = false ↔ ¬(0x30000000000 ≤ x ∧ x < 0x40000000000) := by
    rw [← Bool.not_eq_true, isHub, Bool.and_eq_true, decide_eq_true_iff, decide_eq_true_iff]
    rfl
  rw [hub] at h ⊢
  rcases hn with rfl | rfl <;> omega

theorem State.writeDword_byteAt {s : State} (hwf : Memory.wf s.mem = true) {pa : Nat} (v : Nat) (hpa : isHub pa = false)
    (halign : pa % 8 = 0) (p : Nat) :
    (s.writeDword pa v).byteAt p = if pa ≤ p ∧ p < pa + 8 then BitVec.ofNat 8 (v / 256 ^ (p - pa)) else s.byteAt p := by
  rw [State.writeDword, State.write_byteAt hwf hpa fun p hlo hhi => isHub_block (.inl rfl) halign hpa hlo (by rwa [toBytes_length] at hhi),
    toBytes_length]
  refine if_ctx_congr Iff.rfl (fun hin => ?_) fun _ => rfl
  rw [toBytes_get _ _ _ (by omega)]
  rfl

theorem State.writeDword_dword {s : State} (hwf : Memory.wf s.mem = true) {pa v : Nat} (hpa : isHub pa = false) (halign : pa % 8 = 0)
    (hv : v < 2 ^ 64) : (s.writeDword pa v).dword pa = v := by
  have hbytes : (s.writeDword pa v).bytes pa 8 = toBytes 8 v := by
    refine List.ext_getElem (by rw [State.bytes_length, toBytes_length]) fun k hk hk' => ?_
    rw [State.bytes_length] at hk
    refine Option.some.inj ?_
    rw [← List.getElem?_eq_getElem, ← List.getElem?_eq_getElem, State.bytes_getElem? _ hk, toBytes_get _ _ _ hk,
      State.writeDword_byteAt hwf v hpa halign, if_pos (by omega), Nat.add_sub_cancel_left]
  rw [State.dword, hbytes, ofBytes_toBytes]
  exact Nat.mod_eq_of_lt hv

theorem State.writeDword_migrations {s : State} {pa : Nat} (h : isHub pa = false) (v : Nat) :
    (s.writeDword pa v).migrations = s.migrations := by
  rw [State.writeDword, State.write_of_memory h]

theorem State.writeDword_cache {s : State} {pa : Nat} (h : isHub pa = false) (v : Nat) : (s.writeDword pa v).cache = s.cache := by
  rw [State.writeDword, State.write_of_memory h]

theorem State.writeDword_me {s : State} {pa : Nat} (h : isHub pa = false) (v : Nat) : (s.writeDword pa v).me = s.me := by
  rw [State.writeDword, State.write_of_memory h]
  rfl

/-! ### Migration -/

/-- The migrations in progress changed. -/
def State.withMigrations (s : State) (l : List Migration) : State := { s with migrations := l }

@[simp] theorem State.withMigrations_migrations (s : State) (l : List Migration) : (s.withMigrations l).migrations = l := rfl
@[simp] theorem State.withMigrations_cache (s : State) (l : List Migration) : (s.withMigrations l).cache = s.cache := rfl
@[simp] theorem State.withMigrations_mem (s : State) (l : List Migration) : (s.withMigrations l).mem = s.mem := rfl
@[simp] theorem State.withMigrations_me (s : State) (l : List Migration) : (s.withMigrations l).me = s.me := rfl
@[simp] theorem State.withMigrations_byteAt (s : State) (l : List Migration) (p : Nat) : (s.withMigrations l).byteAt p = s.byteAt p := rfl

/-- A piece of a page under migration: its bytes are in the new frame, and no cache holds a translation of the page. -/
def State.movePiece (s : State) (m : Migration) : State :=
  let s := s.uncache m.job m.va (levelSize m.level)
  let s := s.write (m.frame + 4096 * m.next) (s.bytes (m.old + 4096 * m.next) 4096)
  { s with poison := movePoison s.poison (m.old + 4096 * m.next) (m.frame + 4096 * m.next) 4096 }

theorem migrateNext_more {s : State} {m : Migration} (h : 4096 * (m.next + 1) < levelSize m.level) : migrateNext s m =
    (s.movePiece m).withMigrations ({ m with next := m.next + 1 } :: (s.movePiece m).migrations.filter (fun x => x.thr != m.thr)) :=
  if_pos h

theorem migrateNext_last {s : State} {m : Migration} (h : ¬4096 * (m.next + 1) < levelSize m.level) : migrateNext s m =
    ((s.movePiece m).withMigrations ((s.movePiece m).migrations.filter (fun x => x.thr != m.thr))).writeDword m.leafAt
      (setBits ((s.movePiece m).dword m.leafAt) 43 12 (m.frame / 4096)) :=
  if_neg h

/-- What `migrate` does for a migration under way: a piece moves unless an access is on its way in it, and the instruction is held until the
migration is over. -/
def migrateTry (d a b c : Reg) (s : State) (m : Migration) : State :=
  let t := if s.awayIn m.job (m.va + 4096 * m.next) 4096 then
      s.withMigrations (m :: s.migrations.filter (fun x => x.thr != m.thr))
    else migrateNext s m
  if t.migrations.any (fun x => x.thr == m.thr) then t.hold (.migrate d a b c) else t.result d 0

theorem migrate_again {s : State} {m : Migration} (d a b c : Reg) (h : s.migrations.find? (fun m => m.thr == s.curKey) = some m) :
    migrate d a b c s = migrateTry d a b c s m := by
  simp only [migrate, h]
  rfl

theorem migrate_refused {s : State} {n : Nat} {a b c : Reg} (d : Reg) (h : s.migrations.find? (fun m => m.thr == s.curKey) = none)
    (hn : migrateCheck s (s.rx a) (s.rx b).toNat (s.rx c).toNat = .error n) : migrate d a b c s = s.result d (word n) := by
  simp only [migrate, h, hn]

theorem migrate_begins {s : State} {m : Migration} {a b c : Reg} (d : Reg) (h : s.migrations.find? (fun m => m.thr == s.curKey) = none)
    (hm : migrateCheck s (s.rx a) (s.rx b).toNat (s.rx c).toNat = .ok m) : migrate d a b c s = migrateTry d a b c s m := by
  simp only [migrate, h, hm]
  rfl

theorem migrateTry_away {s : State} {m : Migration} (d a b c : Reg) (h : s.awayIn m.job (m.va + 4096 * m.next) 4096 = true) :
    migrateTry d a b c s m =
      (s.withMigrations (m :: s.migrations.filter (fun x => x.thr != m.thr))).hold (.migrate d a b c) := by
  rw [migrateTry, if_pos h, if_pos]
  simp

section
variable {s : State} {m : Migration} (hnew : isHub (m.frame + 4096 * m.next) = false)
include hnew

theorem State.movePiece_migrations : (s.movePiece m).migrations = s.migrations := by
  simp only [State.movePiece, State.write_of_memory hnew]
  rfl

theorem State.movePiece_cache : (s.movePiece m).cache = (s.uncache m.job m.va (levelSize m.level)).cache := by
  simp only [State.movePiece, State.write_of_memory hnew]

theorem State.movePiece_cur : (s.movePiece m).cur = s.cur := by
  simp only [State.movePiece, State.write_of_memory hnew]
  rfl

theorem State.movePiece_threads : (s.movePiece m).threads = s.threads := by
  simp only [State.movePiece, State.write_of_memory hnew]
  rfl

theorem State.movePiece_me : (s.movePiece m).me = s.me := by
  simp only [State.me, State.thr, State.curKey, State.movePiece_threads hnew, State.movePiece_cur hnew]

theorem State.movePiece_memWf (hwf : Memory.wf s.mem = true) : Memory.wf (s.movePiece m).mem = true := by
  simp only [State.movePiece, State.write_of_memory hnew]
  exact Memory.wf_puts _ _ hwf

/-- Every byte after a piece has moved. -/
theorem State.movePiece_byteAt (hwf : Memory.wf s.mem = true) (halign : (m.frame + 4096 * m.next) % 4096 = 0) (p : Nat) :
    (s.movePiece m).byteAt p =
      if m.frame + 4096 * m.next ≤ p ∧ p < m.frame + 4096 * m.next + 4096
      then s.byteAt (m.old + 4096 * m.next + (p - (m.frame + 4096 * m.next))) else s.byteAt p := by
  have hall (p : Nat) (hlo : m.frame + 4096 * m.next ≤ p) (hhi : p < m.frame + 4096 * m.next + 4096) : isHub p = false :=
    isHub_block (.inr rfl) halign hnew hlo hhi
  have hwrite := State.write_byteAt (s := s.uncache m.job m.va (levelSize m.level))
    (bs := (s.uncache m.job m.va (levelSize m.level)).bytes (m.old + 4096 * m.next) 4096) hwf hnew
    (by rwa [State.bytes_length]) p
  rw [State.bytes_length] at hwrite
  refine (State.byteAt_poison _ _ p).trans (hwrite.trans (if_ctx_congr Iff.rfl (fun hin => ?_) fun _ => rfl))
  rw [State.bytes_getElem? _ (by omega), Option.getD_some]
  rfl

variable (d a b c : Reg) (haway : s.awayIn m.job (m.va + 4096 * m.next) 4096 = false)
include haway

theorem migrateTry_more (h : 4096 * (m.next + 1) < levelSize m.level) : migrateTry d a b c s m =
    ((s.movePiece m).withMigrations ({ m with next := m.next + 1 } :: s.migrations.filter (fun x => x.thr != m.thr))).hold
      (.migrate d a b c) := by
  rw [migrateTry, haway, if_neg Bool.false_ne_true, migrateNext_more h, State.movePiece_migrations hnew, if_pos]
  simp

/-- The last piece, but for the register result: the leaf names the new frame. -/
def State.endMigration (s : State) (m : Migration) : State :=
  ((s.movePiece m).withMigrations (s.migrations.filter (fun x => x.thr != m.thr))).writeDword m.leafAt
    (setBits ((s.movePiece m).dword m.leafAt) 43 12 (m.frame / 4096))

theorem migrateTry_last (hleaf : isHub m.leafAt = false) (h : ¬4096 * (m.next + 1) < levelSize m.level) :
    migrateTry d a b c s m = (s.endMigration m).result d 0 := by
  rw [migrateTry, haway, if_neg Bool.false_ne_true, migrateNext_last h, State.movePiece_migrations hnew]
  refine if_neg ?_
  rw [State.writeDword_migrations hleaf]
  simp
end

theorem State.hold_cache (s : State) (i : Instr) : (s.hold i).cache = s.cache := rfl
theorem State.hold_migrations (s : State) (i : Instr) : (s.hold i).migrations = s.migrations := rfl
theorem State.result_cache (s : State) (d : Reg) (v : Word) : (s.result d v).cache = s.cache := rfl
theorem State.result_migrations (s : State) (d : Reg) (v : Word) : (s.result d v).migrations = s.migrations := rfl
theorem State.dword_congr {s t : State} {pa : Nat} (h : ∀ k < 8, t.byteAt (pa + k) = s.byteAt (pa + k)) : t.dword pa = s.dword pa :=
  congrArg ofBytes (State.bytes_congr h)
theorem State.result_dword (s : State) (d : Reg) (v : Word) (pa : Nat) : (s.result d v).dword pa = s.dword pa :=
  State.dword_congr fun _ _ => rfl
theorem State.hold_byteAt (s : State) (i : Instr) (p : Nat) : (s.hold i).byteAt p = s.byteAt p := rfl

theorem State.result_byteAt (s : State) (d : Reg) (v : Word) (p : Nat) : (s.result d v).byteAt p = s.byteAt p := rfl

/-- No cache holds a translation that meets the page any more. -/
theorem State.not_mem_uncache {s : State} {job va n : Nat} {x : Cached} (h : x ∈ (s.uncache job va n).cache) :
    ¬(x.job = job ∧ x.va < va + n ∧ va < x.va + levelSize x.level) := by
  have hkept := (List.mem_filter.mp h).2
  simpa [imp_iff_not_or, or_assoc] using hkept

theorem State.movePiece_withMigrations_memWf {s : State} {m : Migration} (hwf : Memory.wf s.mem = true)
    (hnew : isHub (m.frame + 4096 * m.next) = false) (l : List Migration) : Memory.wf ((s.movePiece m).withMigrations l).mem = true := by
  rw [State.withMigrations_mem]
  exact State.movePiece_memWf hnew hwf

/-- Beside the leaf a migration's end writes the piece alone. -/
theorem State.endMigration_byteAt {s : State} {m : Migration} (hwf : Memory.wf s.mem = true)
    (hnew : isHub (m.frame + 4096 * m.next) = false) (hleaf : isHub m.leafAt = false) (hleafAlign : m.leafAt % 8 = 0) (p : Nat)
    (hp : ¬(m.leafAt ≤ p ∧ p < m.leafAt + 8)) : (s.endMigration m).byteAt p = (s.movePiece m).byteAt p := by
  rw [State.endMigration, State.writeDword_byteAt (State.movePiece_withMigrations_memWf hwf hnew _) _ hleaf hleafAlign, if_neg hp,
    State.withMigrations_byteAt]

theorem State.endMigration_dword {s : State} {m : Migration} (hwf : Memory.wf s.mem = true)
    (hnew : isHub (m.frame + 4096 * m.next) = false) (halign : (m.frame + 4096 * m.next) % 4096 = 0)
    (hleaf : isHub m.leafAt = false) (hleafAlign : m.leafAt % 8 = 0)
    (hapart : m.leafAt + 8 ≤ m.frame + 4096 * m.next ∨ m.frame + 4096 * m.next + 4096 ≤ m.leafAt) :
    (s.endMigration m).dword m.leafAt = setBits (s.dword m.leafAt) 43 12 (m.frame / 4096) := by
  have hsame : (s.movePiece m).dword m.leafAt = s.dword m.leafAt := by
    refine State.dword_congr fun k hk => ?_
    rw [State.movePiece_byteAt hnew hwf halign, if_neg (by omega)]
  rw [State.endMigration, State.writeDword_dword (State.movePiece_withMigrations_memWf hwf hnew _) hleaf hleafAlign
    (setBits_pfn_lt _ (State.dword_lt _ _)), hsame]

section
variable {s : State} {m : Migration} (hnew : isHub (m.frame + 4096 * m.next) = false) (hleaf : isHub m.leafAt = false)
include hnew hleaf

theorem State.endMigration_me : (s.endMigration m).me = s.me := by
  rw [State.endMigration, State.writeDword_me hleaf, State.withMigrations_me, State.movePiece_me hnew]

theorem State.endMigration_cache : (s.endMigration m).cache = (s.uncache m.job m.va (levelSize m.level)).cache := by
  rw [State.endMigration, State.writeDword_cache hleaf, State.withMigrations_cache, State.movePiece_cache hnew]

end

theorem State.endMigration_migrations {s : State} {m : Migration} (hleaf : isHub m.leafAt = false) :
    (s.endMigration m).migrations = s.migrations.filter (fun x => x.thr != m.thr) := by
  rw [State.endMigration, State.writeDword_migrations hleaf, State.withMigrations_migrations]

section
variable {s : State} {m : Migration} (hwf : Memory.wf s.mem = true) (hnew : isHub (m.frame + 4096 * m.next) = false)
  (halign : (m.frame + 4096 * m.next) % 4096 = 0)
include hwf hnew halign

/-- A piece that is not the last: the instruction is held, and nothing outside the piece's new place changes in memory. -/
theorem movePiece_hold_leaves (i : Instr) (l : List Migration) :
    let t := ((s.movePiece m).withMigrations l).hold i
    (∀ k < 4096, t.byteAt (m.frame + 4096 * m.next + k) = s.byteAt (m.old + 4096 * m.next + k)) ∧
      (∀ x, x ∈ t.cache → ¬(x.job = m.job ∧ x.va < m.va + levelSize m.level ∧ m.va < x.va + levelSize x.level)) ∧
      t.me.held = some i ∧ t.me.pc = s.me.pc ∧ t.migrations = l ∧
      ∀ p, ¬(m.frame + 4096 * m.next ≤ p ∧ p < m.frame + 4096 * m.next + 4096) → t.byteAt p = s.byteAt p := by
  intro t
  have hbyte (p : Nat) : t.byteAt p = _ :=
    (State.hold_byteAt _ i p).trans ((State.withMigrations_byteAt _ l p).trans (State.movePiece_byteAt hnew hwf halign p))
  have hme := State.hold_me ((s.movePiece m).withMigrations l) i
  refine ⟨fun k hk => ?_, fun x hx => ?_, by rw [hme], ?_, State.hold_migrations _ i, fun p hp => (hbyte p).trans (if_neg hp)⟩
  · rw [hbyte, if_pos (by omega), Nat.add_sub_cancel_left]
  · rw [State.hold_cache, State.withMigrations_cache, State.movePiece_cache hnew] at hx
    exact State.not_mem_uncache hx
  · rw [hme, State.withMigrations_me, State.movePiece_me hnew]

variable (hleaf : isHub m.leafAt = false) (hleafAlign : m.leafAt % 8 = 0)
  (hapart : m.leafAt + 8 ≤ m.frame + 4096 * m.next ∨ m.frame + 4096 * m.next + 4096 ≤ m.leafAt)
include hleaf hleafAlign hapart

/-- The last piece: the instruction is over, and beside the piece's new place only the leaf changes in memory. -/
theorem endMigration_result_leaves (d : Reg) :
    let t := (s.endMigration m).result d 0
    (∀ k < 4096, t.byteAt (m.frame + 4096 * m.next + k) = s.byteAt (m.old + 4096 * m.next + k)) ∧
      (∀ x, x ∈ t.cache → ¬(x.job = m.job ∧ x.va < m.va + levelSize m.level ∧ m.va < x.va + levelSize x.level)) ∧
      t.me.held = none ∧ t.me.pc = s.me.pc + 8 ∧ t.rx d = 0 ∧ (∀ r, r ≠ d → t.rx r = s.rx r) ∧
      (∀ x ∈ t.migrations, x.thr ≠ m.thr) ∧ t.dword m.leafAt = setBits (s.dword m.leafAt) 43 12 (m.frame / 4096) ∧
      ∀ p, ¬(m.frame + 4096 * m.next ≤ p ∧ p < m.frame + 4096 * m.next + 4096) → ¬(m.leafAt ≤ p ∧ p < m.leafAt + 8) →
        t.byteAt p = s.byteAt p := by
  intro t
  have hbyte (p : Nat) (hp : ¬(m.leafAt ≤ p ∧ p < m.leafAt + 8)) : t.byteAt p = _ :=
    (State.result_byteAt _ d 0 p).trans ((State.endMigration_byteAt hwf hnew hleaf hleafAlign p hp).trans
      (State.movePiece_byteAt hnew hwf halign p))
  have hme := State.endMigration_me (s := s) hnew hleaf
  refine ⟨fun k hk => ?_, fun x hx => ?_, ?_, ?_, State.result_zero_rx _ d, fun r hr => ?_, fun x hx => ?_, ?_,
    fun p hp hpl => (hbyte p hpl).trans (if_neg hp)⟩
  · rw [hbyte _ (by omega), if_pos (by omega), Nat.add_sub_cancel_left]
  · rw [State.result_cache, State.endMigration_cache hnew hleaf] at hx
    exact State.not_mem_uncache hx
  · rw [State.result_me]
  · rw [State.result_me, hme]
  · rw [State.result_rx, if_neg fun heq => hr heq.1, State.rx, hme, State.rx]
  · rw [State.result_migrations, State.endMigration_migrations hleaf] at hx
    simpa using (List.mem_filter.mp hx).2
  · exact (State.result_dword _ d 0 _).trans (State.endMigration_dword hwf hnew halign hleaf hleafAlign hapart)

end

/-- The job of a migration is refused. -/
theorem migrateCheck_unknown {s : State} (va : Word) (frame : Nat) {job : Nat}
    (h : ¬(job < 2 ^ 16 ∧ s.dword (s.sup.jobtab * 2 ^ 22 + 64 * job) % 2 = 1)) : migrateCheck s va frame job = .error 5 := by
  refine if_pos ?_
  by_cases hjob : job < 2 ^ 16
  · exact .inr (by simpa [State.jobValid] using fun hvalid => h ⟨hjob, hvalid⟩)
  · exact .inl (Nat.not_lt.mp hjob)

section
variable {s : State} {va : Word} (frame : Nat) {job : Nat} (hjob : job < 2 ^ 16)
  (hvalid : s.dword (s.sup.jobtab * 2 ^ 22 + 64 * job) % 2 = 1)
include hjob hvalid

/-- What a migration is refused for once its job is known, or what it is. -/
theorem migrateCheck_known : migrateCheck s va frame job =
    match if canonical va && !inAperture va.toNat then walk s job va.toNat else .error 0x05 with
    | .error _ => .error 1
    | .ok tr =>
      let size := levelSize tr.level
      let base := va.toNat / size * size
      if frame % size ≠ 0 ∨ !(populated frame size) then .error 2
      else if leafRpkg tr.leaf ≠ 0xFF then .error 3
      else if 8 ≤ s.migrations.length ∨ s.movingIn job base size then .error 4
      else .ok { thr := s.curKey, job, va := base, level := tr.level, leafAt := tr.leafAt, old := leafPfn tr.leaf * 4096,
                 frame, next := 0 } := by
  refine if_neg ?_
  rintro (hbig | hinvalid)
  · exact absurd hjob (Nat.not_lt.mpr hbig)
  · rw [State.jobValid, decide_eq_true hvalid] at hinvalid
    cases hinvalid

theorem migrateCheck_unmapped (h : canonical va = false ∨ inAperture va.toNat = true ∨ ∃ e, walk s job va.toNat = .error e) :
    migrateCheck s va frame job = .error 1 := by
  rw [migrateCheck_known frame hjob hvalid]
  have hfails : ∃ e, (if canonical va && !inAperture va.toNat then walk s job va.toNat else .error 0x05) = .error e := by
    split
    · next hin =>
      obtain ⟨hcan, hap⟩ := Bool.and_eq_true_iff.mp hin
      rcases h with hno | hno | hno
      · rw [hno] at hcan; cases hcan
      · rw [hno] at hap; cases hap
      · exact hno
    · exact ⟨_, rfl⟩
  obtain ⟨e, he⟩ := hfails
  rw [he]

variable {tr : Tr} (hcan : canonical va = true) (hap : inAperture va.toNat = false) (hwalk : walk s job va.toNat = .ok tr)
include hcan hap hwalk

theorem migrateCheck_mapped : migrateCheck s va frame job =
      if ¬(frame % levelSize tr.level = 0 ∧ populated frame (levelSize tr.level) = true) then .error 2
      else if leafRpkg tr.leaf ≠ 0xFF then .error 3
      else if 8 ≤ s.migrations.length ∨ s.movingIn job (va.toNat / levelSize tr.level * levelSize tr.level) (levelSize tr.level) = true
        then .error 4
      else .ok { thr := s.curKey, job, va := va.toNat / levelSize tr.level * levelSize tr.level, level := tr.level, leafAt := tr.leafAt,
                 old := leafPfn tr.leaf * 4096, frame, next := 0 } := by
  rw [migrateCheck_known frame hjob hvalid, hcan, hap]
  simp only [Bool.not_false, Bool.and_self, if_true, hwalk]
  refine if_congr ?_ rfl rfl
  simp [imp_iff_not_or]

end

theorem exec_migrate {s : State} {a b c : Reg} (d : Reg) (hsvc : s.me.svc = true) (hread : s.readable [a, b, c]) :
    exec (.migrate d a b c) s = .next (migrate d a b c s) := congrArg _ (State.supervisor_reading hsvc hread _)

/-- Settles O48: each meaning by its branches; a migration by what one piece of it writes, a freeze and a thaw by what they do to a listed
and to an unlisted thread. -/
theorem supervisor : Obligations.Supervisor := by
  unfold Obligations.Supervisor
  intro s d a b c A B C tlb others
  refine ⟨fun hsvc i hi => ?_, fun hsvc hread => ?_⟩
  · simp only [tlb, others, List.cons_append, List.nil_append, List.mem_cons, List.not_mem_nil, or_false] at hi
    rcases hi with rfl | rfl | rfl | rfl | rfl | rfl | rfl | rfl | rfl | rfl | rfl | rfl | rfl <;>
      exact State.supervisor_traps rfl hsvc
  have hab : s.readable [a, b] := fun r hr => hread r (List.mem_append_left [c] hr)
  have ha : s.readable [a] := fun r hr => hread r (List.mem_append_left [b, c] hr)
  intro leaves size holds valid job removes
  refine ⟨job_of_withJob (congrArg _ (State.supervisor_reading hsvc hab _)) removes_of_invalidate,
    job_of_withJob (congrArg _ (State.supervisor_reading hsvc hread _)) fun h => ?_,
    job_of_withJob (congrArg _ (State.supervisor_reading hsvc ha _)) removes_of_invalidate,
    ⟨fun h => ⟨_, tlbinvAll_holds hsvc h, by rw [State.hold_me], by rw [State.hold_me], rfl, rfl⟩, tlbinvAll_leaves hsvc⟩,
    ?_, ?_, ?_⟩
  · intro bad
    have hbad : (C = 0 ∨ spanBad (s.rx b) C = true) ↔ bad := or_congr_right (spanBad_iff _ _)
    exact ⟨fun h2 => gives_of_result (h.trans (congrArg _ (if_pos (hbad.mpr h2)))),
      fun h2 => removes_of_invalidate (h.trans (congrArg _ (if_neg (mt hbad.mp h2))))⟩
  · intro i moves
    have hexec := exec_migrate d hsvc hread
    have refused {n : Nat} (hnone : s.migrations.find? (fun m => m.thr == s.curKey) = none)
        (hn : migrateCheck s (s.rx a) B C = .error n) : Gives i s d (word n) :=
      gives_of_result (hexec.trans (congrArg _ (migrate_refused d hnone hn)))
    have hmoves (m : Migration) (h : exec i s = .next (migrateTry d a b c s m)) : moves m := by
      refine ⟨fun haway => ?_, fun haway => ?_⟩
      · rw [migrateTry_away d a b c haway] at h
        exact ⟨_, h, by rw [State.hold_me], by rw [State.hold_me]; rfl, List.mem_cons_self, rfl⟩
      intro old new hinv halign hnew hleafAlign hleaf hapart
      by_cases hmore : 4096 * (m.next + 1) < levelSize m.level
      · rw [migrateTry_more hnew d a b c haway hmore] at h
        obtain ⟨hnewBytes, hcache, hheld, hpc, hmigrations, hbytes⟩ := movePiece_hold_leaves hinv.bytesWf.mem hnew halign i
          ({ m with next := m.next + 1 } :: s.migrations.filter (fun x => x.thr != m.thr))
        exact ⟨_, h, hnewBytes, hcache, fun _ => ⟨hheld, hpc, hmigrations ▸ List.mem_cons_self, hbytes⟩,
          fun hlast => absurd hmore (Nat.not_lt.mpr hlast)⟩
      · rw [migrateTry_last hnew d a b c haway hleaf hmore] at h
        obtain ⟨hnewBytes, hcache, hends⟩ := endMigration_result_leaves hinv.bytesWf.mem hnew halign hleaf hleafAlign hapart d
        exact ⟨_, h, hnewBytes, hcache, fun hless => absurd hless hmore, fun _ => hends⟩
    refine ⟨fun m hm => hmoves m (hexec.trans (congrArg _ (migrate_again d a b c hm))), fun hnone => ?_⟩
    intro known
    refine ⟨fun hno => refused hnone (migrateCheck_unknown _ _ hno), fun ⟨hjob, hvalid⟩ =>
      ⟨fun hno => refused hnone (migrateCheck_unmapped _ hjob hvalid hno), fun tr hcan hap hwalk => ?_⟩⟩
    intro n fits
    have hcheck := migrateCheck_mapped B hjob hvalid hcan hap hwalk
    refine ⟨fun hno => refused hnone (hcheck.trans (if_pos hno)), fun hfits hfar => ?_, fun hfits hhere => ?_⟩
    · exact refused hnone (hcheck.trans ((if_neg (not_not.mpr hfits)).trans (if_pos hfar)))
    replace hcheck := hcheck.trans ((if_neg (not_not.mpr hfits)).trans (if_neg (not_not.mpr hhere)))
    intro base taken
    exact ⟨fun htaken => refused hnone (hcheck.trans (if_pos htaken)),
      fun hfree => hmoves _ (hexec.trans (congrArg _ (migrate_begins d hnone (hcheck.trans (if_neg hfree)))))⟩
  · intro i target e known reserved spare odd
    have hexec := exec_acctab d hsvc hread
    have hstatus := acctabStatus_eq (s.rx a) (s.rx c) (accOf (s.rx b) (s.rx c))
    have refused {n : Nat} (h : acctabStatus (s.rx a) (s.rx c) e = n + 1) : Gives i s d (word (n + 1)) :=
      acctab_refused d hsvc hread ((accOf_eq _ _).symm ▸ h)
    rw [accOf_eq] at hexec hstatus
    have hunknown : ¬isTarget target = true ↔ ¬known := not_congr (isTarget_iff target)
    have pass (h : known) {x y : Nat} : (if ¬isTarget target = true then x else y) = y := if_neg (mt hunknown.mp (not_not.mpr h))
    refine ⟨fun h1 => refused (hstatus.trans (if_pos (hunknown.mpr h1))),
      fun h1 h2 => refused (hstatus.trans ((pass h1).trans (if_pos h2))),
      fun h1 h2 h3 => refused (hstatus.trans ((pass h1).trans ((if_neg h2).trans (if_pos h3)))),
      fun h1 h2 h3 h4 => refused (hstatus.trans ((pass h1).trans ((if_neg h2).trans ((if_neg h3).trans (if_pos h4))))),
      fun h1 h2 h3 h4 => ?_⟩
    rw [hstatus.trans ((pass h1).trans ((if_neg h2).trans ((if_neg h3).trans (if_neg h4))))] at hexec
    have hindex : A % 2 ^ 6 < 64 := Nat.mod_lt _ (by norm_num)
    exact ⟨_, _, leavesAt_of_result (base := s.putAcc target (A % 2 ^ 6) e) hexec,
      fun u j hj => ⟨s.putAcc_accEntry e hindex hj, s.putAcc_accBefore e hindex hj⟩⟩
  · intro master
    have hmaster : isMaster A = true ↔ master := isMaster_iff A
    have hfreeze := exec_freeze d hsvc ha
    have hthaw := exec_thaw d hsvc ha
    refine ⟨fun hno => ?_, fun hyes hin => ⟨?_, fun hdenied => ?_, fun hdenied => ?_⟩, fun hyes hout => ⟨?_, ?_⟩⟩
    · exact ⟨gives_of_result (hfreeze.trans (congrArg _ (freezeOp_unknown d (mt hmaster.mp hno)))),
        gives_of_result (hthaw.trans (congrArg _ (thawOp_unknown d (mt hmaster.mp hno))))⟩
    · exact gives_of_result (hfreeze.trans (congrArg _ (freezeOp_frozen d (hmaster.mpr hyes) hin)))
    · exact gives_of_result (hthaw.trans (congrArg _ (thawOp_denied d (hmaster.mpr hyes) hdenied)))
    · exact ⟨_, hthaw.trans (congrArg _ (thawOp_thaws d (hmaster.mpr hyes) hin hdenied)), thaw_leaves s d A⟩
    · exact gives_of_result (hthaw.trans (congrArg _ (thawOp_running d (hmaster.mpr hyes) hout)))
    · exact ⟨_, hfreeze.trans (congrArg _ (freezeOp_freezes d (hmaster.mpr hyes) hout)), freeze_leaves s d A hout⟩

end Sys2Proof.Machine
end

section
/-! PROOF. Words as numbers: what the operations of 04 R124 to R128 compute on patterns of 64 bits. -/

namespace Sys2Proof.Machine

/-! ## Words as numbers (00 R8) -/

theorem wrap64_add (x y : Int) : wrap64 (x + y) = wrap64 x + wrap64 y := BitVec.ofInt_add x y
theorem wrap64_mul (x y : Int) : wrap64 (x * y) = wrap64 x * wrap64 y := BitVec.ofInt_mul x y
theorem wrap64_sub (x y : Int) : wrap64 (x - y) = wrap64 x - wrap64 y := by
  rw [sub_eq_add_neg, wrap64_add, sub_eq_add_neg]
  exact congrArg (wrap64 x + ·) BitVec.ofInt_neg
@[simp] theorem wrap64_toInt (x : Word) : wrap64 x.toInt = x := BitVec.ofInt_toInt
theorem wrap64_natCast (n : Nat) : wrap64 n = word n := BitVec.ofInt_natCast ..
@[simp] theorem word_toNat (x : Word) : word x.toNat = x := BitVec.ofNat_toNat ..
theorem word_add (m n : Nat) : word (m + n) = word m + word n := BitVec.ofNat_add m n
theorem word_mul (m n : Nat) : word (m * n) = word m * word n := BitVec.ofNat_mul m n
theorem word_congr {m n : Nat} (h : m % 2 ^ 64 = n % 2 ^ 64) : word m = word n := BitVec.eq_of_toNat_eq (by simpa [word] using h)
theorem sext64_eq_wrap64 {w : Nat} (v : BitVec w) : sext64 v = wrap64 v.toInt := rfl

theorem boolWord_eq_ite {p : Prop} [Decidable p] : boolWord (decide p) = if p then 1 else 0 := by simp [boolWord]

theorem signedOf_eq_toInt (n v : Nat) : signedOf n v = (BitVec.ofNat n v).toInt := by
  rw [BitVec.toInt_eq_toNat_cond, BitVec.toNat_ofNat, signedOf]

theorem sextWord_eq_wrap64 {x : Word} {n : Nat} (h : x.toNat % 2 ^ 32 = n % 2 ^ 32) : sextWord x = wrap64 (signedOf 32 n) := by
  rw [signedOf_eq_toInt, sextWord, sext64_eq_wrap64]
  exact congrArg (fun v : Word32 => wrap64 v.toInt) (BitVec.eq_of_toNat_eq (by simpa using h))

/-! ## Shifts and rotations -/

theorem shiftLeft_eq_word (x : Word) (n : Nat) : x <<< n = word (x.toNat * 2 ^ n) :=
  BitVec.eq_of_toNat_eq (by simp [word, Nat.shiftLeft_eq])
theorem shiftRight_eq_word (x : Word) (n : Nat) : x >>> n = word (x.toNat / 2 ^ n) := by
  rw [← Nat.shiftRight_eq_div_pow, ← BitVec.toNat_ushiftRight, word_toNat]
theorem sshiftRight_eq_wrap64 (x : Word) (n : Nat) : x.sshiftRight n = wrap64 (x.toInt / 2 ^ n) := by
  rw [BitVec.sshiftRight_eq, Int.shiftRight_eq_div_pow]; rfl

theorem rotateLeft_eq_of_bits {x v : Word} {n : Nat} (hn : n < 64) (h : ∀ k < 64, v.getLsbD ((k + n) % 64) = x.getLsbD k) :
    x.rotateLeft n = v := by
  refine BitVec.eq_of_getLsbD_eq fun i hi => ?_
  rw [BitVec.getLsbD_rotateLeft, Nat.mod_eq_of_lt hn, Bool.cond_decide]
  by_cases hin : i < n
  · rw [if_pos hin, ← h _ (by omega)]
    congr 1; omega
  · rw [if_neg hin, ← h _ (by omega)]
    simp only [hi, decide_true, Bool.true_and]
    congr 1; omega

theorem rotateRight_eq_of_bits {x v : Word} {n : Nat} (hn : n < 64) (h : ∀ k < 64, v.getLsbD k = x.getLsbD ((k + n) % 64)) :
    x.rotateRight n = v := by
  refine BitVec.eq_of_getLsbD_eq fun i hi => ?_
  rw [BitVec.getLsbD_rotateRight, Nat.mod_eq_of_lt hn, Bool.cond_decide, h i hi]
  by_cases hin : i < 64 - n
  · rw [if_pos hin]
    congr 1; omega
  · rw [if_neg hin]
    simp only [hi, decide_true, Bool.true_and]
    congr 1; omega

/-! ## Counts and reversals, by the bits -/

theorem trailing_eq {v m n : Nat} (hn : n ≤ m) (zeros : ∀ k < n, v.testBit k = false) (one : n < m → v.testBit n = true) :
    trailing v m = n := by
  induction m generalizing v n with
  | zero => exact (Nat.le_zero.mp hn).symm
  | succ m ih =>
    cases n with
    | zero => simpa [trailing, Nat.testBit_zero] using one (Nat.succ_pos m)
    | succ n =>
      have even : ¬v % 2 = 1 := by simpa [Nat.testBit_zero] using zeros 0 (Nat.succ_pos n)
      rw [trailing, if_neg even, ih (Nat.le_of_succ_le_succ hn) (fun k hk => ?_) (fun hlt => ?_), Nat.add_comm]
      · rw [← Nat.testBit_succ]; exact zeros _ (Nat.succ_lt_succ hk)
      · rw [← Nat.testBit_succ]; exact one (Nat.succ_lt_succ hlt)

theorem countOnes_eq (v n : Nat) : countOnes v n = ((List.range n).filter v.testBit).length := by
  induction n generalizing v with
  | zero => rfl
  | succ n ih =>
    have low : v % 2 = if v.testBit 0 then 1 else 0 := by
      rw [Nat.testBit_zero]; rcases Nat.mod_two_eq_zero_or_one v with h | h <;> simp [h]
    have shift : v.testBit ∘ Nat.succ = (v / 2).testBit := funext fun k => Nat.testBit_succ v k
    rw [countOnes, ih, low, List.range_succ_eq_map, List.filter_cons, List.filter_map, shift]
    split <;> simp [Nat.add_comm]

theorem reverseBits_eq_of_bits {x v : Word} (h : ∀ k < 64, v.getLsbD k = x.getLsbD (63 - k)) : reverseBits x = v := by
  refine BitVec.eq_of_getLsbD_eq fun i hi => ?_
  rw [reverseBits, BitVec.getLsbD_reverse, BitVec.getMsbD_eq_getLsbD, h i hi]
  simp [hi]

theorem reverseBits_getLsbD (x : Word) {k : Nat} (hk : k < 64) : (reverseBits x).getLsbD k = x.getLsbD (63 - k) := by
  rw [reverseBits, BitVec.getLsbD_reverse, BitVec.getMsbD_eq_getLsbD]
  simp [hk]

theorem swapBytes_eq_of_bytes {x v : Word} (h : ∀ k < 8, v.toNat / 256 ^ k % 256 = x.toNat / 256 ^ (7 - k) % 256) : swapBytes x = v := by
  have bytes : (toBytes 8 x.toNat).reverse = toBytes 8 v.toNat := by
    refine List.ext_getElem (by simp [toBytes_length]) fun k hk hk' => Option.some_inj.mp ?_
    have hlt : k < 8 := by simpa [toBytes_length] using hk'
    rw [← List.getElem?_eq_getElem, ← List.getElem?_eq_getElem, List.getElem?_reverse (by simpa [toBytes_length] using hlt), toBytes_length,
      toBytes_get 8 _ _ (by omega), toBytes_get 8 _ _ hlt]
    exact congrArg some (BitVec.eq_of_toNat_eq (by simpa using (h k hlt).symm))
  rw [swapBytes, bytes, ofBytes_toBytes]
  exact (word_congr (Nat.mod_mod _ _)).trans (word_toNat v)

/-! ## Fields (04 R126) -/

theorem insertField_eq_of_bits {old x v : Word} {pos len : Nat} (h : ∀ k < 64, v.getLsbD k =
    if pos ≤ k ∧ k < pos + fieldLen pos len then x.getLsbD (k - pos) else old.getLsbD k) : insertField old x pos len = v := by
  have mask (k : Nat) (hk : k < 64) : (word ((2 ^ fieldLen pos len - 1) * 2 ^ pos)).getLsbD k =
      decide (pos ≤ k ∧ k < pos + fieldLen pos len) := by
    rw [word, BitVec.getLsbD_ofNat, Nat.testBit_mul_two_pow, Nat.testBit_two_pow_sub_one]
    simp only [hk, decide_true, Bool.true_and, ← Bool.decide_and]
    exact decide_eq_decide.mpr (by omega)
  refine BitVec.eq_of_getLsbD_eq fun k hk => ?_
  rw [h k hk, insertField]
  simp only [BitVec.getLsbD_or, BitVec.getLsbD_and, BitVec.getLsbD_not, BitVec.getLsbD_shiftLeft, mask k hk]
  split
  · next inside => simp [hk, inside]
  · next outside => simp [hk, outside]

end Sys2Proof.Machine
end

section
/-! PROOF. Register-to-register functions, divisions, fields, immediates and control transfers (04 R124 to R133). -/

namespace Sys2Proof.Machine

/-! ## The operand forms (04 R116, R117) -/

section
variable {i : Instr} {s : State} {d a b c : Reg} {v : Word}

theorem gives_of_unary {f : Word → Word} (h : exec i s = .next (unary f d a s)) (hread : s.readable [a]) (hv : f (s.rx a) = v) :
    Gives i s d v :=
  gives_of_result (h.trans (by rw [unary, State.reading_of_readable hread, hv]))

theorem gives_of_binary {f : Word → Word → Word} (h : exec i s = .next (binary f d a b s)) (hread : s.readable [a, b])
    (hv : f (s.rx a) (s.rx b) = v) : Gives i s d v :=
  gives_of_result (h.trans (by rw [binary, State.reading_of_readable hread, hv]))

theorem gives_of_ternary {f : Word → Word → Word → Word} (h : exec i s = .next (ternary f d a b c s)) (hread : s.readable [a, b, c])
    (hv : f (s.rx a) (s.rx b) (s.rx c) = v) : Gives i s d v :=
  gives_of_result (h.trans (by rw [ternary, State.reading_of_readable hread, hv]))

theorem gives_of_quaternary {f : Word → Word → Word → Word → Word} (h : exec i s = .next (quaternary f d a b c s))
    (hread : s.readable [d, a, b, c]) (hv : f (s.rx d) (s.rx a) (s.rx b) (s.rx c) = v) : Gives i s d v :=
  gives_of_result (h.trans (by rw [quaternary, State.reading_of_readable hread, hv]))

theorem gives_of_withImm {f : Word → Word32 → Word} {imm : Word32} (h : exec i s = .next (withImm f d a imm s))
    (hread : s.readable [a]) (hv : f (s.rx a) imm = v) : Gives i s d v :=
  gives_of_result (h.trans (by rw [withImm, State.reading_of_readable hread, hv]))

theorem gives_of_withImmOld {f : Word → Word → Word32 → Word} {imm : Word32} (h : exec i s = .next (withImmOld f d a imm s))
    (hread : s.readable [d, a]) (hv : f (s.rx d) (s.rx a) imm = v) : Gives i s d v :=
  gives_of_result (h.trans (by rw [withImmOld, State.reading_of_readable hread, hv]))

theorem givesAt_of_dividing {f : Word → Word → Word} (h : exec i s = .next (dividing f d a b s)) (hread : s.readable [a, b])
    (hv : f (s.rx a) (s.rx b) = v) : GivesAt i s d v (s.me.pc + 8) (s.cyc + 40) :=
  givesAt_of_occupy (h.trans (by rw [dividing, State.reading_of_readable hread, hv]))

theorem State.readable_cons {l : List Reg} (hd : s.readable [d]) (hl : s.readable l) : s.readable (d :: l) :=
  List.forall_mem_cons.mpr ⟨hd d (List.mem_singleton_self d), hl⟩

end

/-! ## The table of R124 -/

theorem add_eq_wrap64 (x y : Word) : x + y = wrap64 (x.toInt + y.toInt) := by rw [wrap64_add, wrap64_toInt, wrap64_toInt]
theorem sub_eq_wrap64 (x y : Word) : x - y = wrap64 (x.toInt - y.toInt) := by rw [wrap64_sub, wrap64_toInt, wrap64_toInt]
theorem mul_eq_word (x y : Word) : x * y = word (x.toNat * y.toNat) := by rw [word_mul, word_toNat, word_toNat]
theorem madd_eq_word (x y z : Word) : x * y + z = word (x.toNat * y.toNat + z.toNat) := by rw [word_add, ← mul_eq_word, word_toNat]

theorem sextWord_add (x y : Word) : sextWord (x + y) = wrap64 (signedOf 32 (x.toNat + y.toNat)) :=
  sextWord_eq_wrap64 (by rw [BitVec.toNat_add]; omega)
theorem sextWord_sub (x y : Word) : sextWord (x - y) = wrap64 (signedOf 32 (x.toNat + 2 ^ 64 - y.toNat)) :=
  sextWord_eq_wrap64 (by have := y.isLt; rw [BitVec.toNat_sub]; omega)
theorem sextWord_mul (x y : Word) : sextWord (x * y) = wrap64 (signedOf 32 (x.toNat * y.toNat)) :=
  sextWord_eq_wrap64 (by rw [BitVec.toNat_mul]; omega)

theorem signedMin_eq_wrap64 (x y : Word) : signedMin x y = wrap64 (min x.toInt y.toInt) := by
  rw [signedMin, min_def, apply_ite wrap64, wrap64_toInt, wrap64_toInt]
theorem signedMax_eq_wrap64 (x y : Word) : signedMax x y = wrap64 (max x.toInt y.toInt) := by
  rw [signedMax, max_def, apply_ite wrap64, wrap64_toInt, wrap64_toInt]
theorem unsignedMin_eq_word (x y : Word) : unsignedMin x y = word (min x.toNat y.toNat) := by
  rw [unsignedMin, min_def, apply_ite word, word_toNat, word_toNat]
theorem unsignedMax_eq_word (x y : Word) : unsignedMax x y = word (max x.toNat y.toNat) := by
  rw [unsignedMax, max_def, apply_ite word, word_toNat, word_toNat]

theorem boolWord_bne (x y : Word) : boolWord (x != y) = if x = y then 0 else 1 := by simp [boolWord, bne]

theorem shiftOf_lt (x : Word) : shiftOf x < 64 := Nat.mod_lt _ (by norm_num)

theorem clz_eq_word {x : Word} {n : Nat} (hn : n ≤ 64) (zeros : ∀ k < n, x.getLsbD (63 - k) = false)
    (one : n < 64 → x.getLsbD (63 - n) = true) : word (trailing (reverseBits x).toNat 64) = word n :=
  congrArg word (trailing_eq hn (fun k hk => (reverseBits_getLsbD x (hk.trans_le hn)).trans (zeros k hk))
    (fun hlt => (reverseBits_getLsbD x hlt).trans (one hlt)))

/-- Settles O5: each function by its operand form, and its value by the law of the word operation. -/
theorem integerResults : Obligations.IntegerResults := by
  unfold Obligations.IntegerResults
  intro s d a b c
  refine ⟨fun ha => ?_, fun hab => ?_, fun habc => ?_⟩
  · exact ⟨fun n hn zeros one => gives_of_unary rfl ha (clz_eq_word hn zeros one),
      fun n hn zeros one => gives_of_unary rfl ha (congrArg word (trailing_eq hn zeros one)),
      gives_of_unary rfl ha (congrArg word (countOnes_eq _ 64)),
      fun v hv => gives_of_unary rfl ha (reverseBits_eq_of_bits hv),
      fun v hv => gives_of_unary rfl ha (swapBytes_eq_of_bytes hv)⟩
  · exact ⟨gives_of_binary rfl hab (add_eq_wrap64 _ _), gives_of_binary rfl hab (sub_eq_wrap64 _ _),
      gives_of_binary rfl hab (sextWord_add _ _), gives_of_binary rfl hab (sextWord_sub _ _),
      gives_of_binary rfl hab rfl, gives_of_binary rfl hab rfl, gives_of_binary rfl hab rfl,
      gives_of_binary rfl hab rfl, gives_of_binary rfl hab rfl, gives_of_binary rfl hab rfl,
      ⟨gives_of_binary rfl hab (shiftLeft_eq_word _ _), gives_of_binary rfl hab (shiftRight_eq_word _ _),
        gives_of_binary rfl hab (sshiftRight_eq_wrap64 _ _),
        fun v hv => gives_of_binary rfl hab (rotateLeft_eq_of_bits (shiftOf_lt _) hv),
        fun v hv => gives_of_binary rfl hab (rotateRight_eq_of_bits (shiftOf_lt _) hv)⟩,
      gives_of_binary rfl hab (mul_eq_word _ _), gives_of_binary rfl hab rfl, gives_of_binary rfl hab rfl, gives_of_binary rfl hab rfl,
      gives_of_binary rfl hab (sextWord_mul _ _),
      gives_of_binary rfl hab (signedMin_eq_wrap64 _ _), gives_of_binary rfl hab (signedMax_eq_wrap64 _ _),
      gives_of_binary rfl hab (unsignedMin_eq_word _ _), gives_of_binary rfl hab (unsignedMax_eq_word _ _),
      gives_of_binary rfl hab boolWord_eq_ite, gives_of_binary rfl hab boolWord_eq_ite,
      gives_of_binary rfl hab boolWord_eq_ite, gives_of_binary rfl hab (boolWord_bne _ _)⟩
  · exact ⟨gives_of_ternary rfl habc (madd_eq_word _ _ _), gives_of_ternary rfl habc (ite_not _ _ _)⟩

/-! ## Divisions (R125) -/

theorem toInt_eq_zero_iff (x : Word) : x.toInt = 0 ↔ x = 0 := by
  rw [← BitVec.toInt_inj]; rfl
theorem toNat_eq_zero_iff (x : Word) : x.toNat = 0 ↔ x = 0 := by
  rw [← BitVec.toNat_inj]; rfl

theorem divSigned_eq_wrap64 (x y : Word) : divSigned x y =
    wrap64 (if y.toInt = 0 then -1 else if x.toInt = -2 ^ 63 ∧ y.toInt = -1 then -2 ^ 63 else x.toInt.tdiv y.toInt) := by
  rw [divSigned, apply_ite wrap64, apply_ite wrap64]
  exact if_congr (toInt_eq_zero_iff y).symm rfl rfl

theorem remSigned_eq_wrap64 (x y : Word) : remSigned x y =
    wrap64 (if y.toInt = 0 then x.toInt else if x.toInt = -2 ^ 63 ∧ y.toInt = -1 then 0 else x.toInt - x.toInt.tdiv y.toInt * y.toInt) := by
  rw [remSigned, apply_ite wrap64, apply_ite wrap64, wrap64_toInt]
  exact if_congr (toInt_eq_zero_iff y).symm rfl rfl

theorem divUnsigned_eq_word (x y : Word) : divUnsigned x y = word (if y.toNat = 0 then 2 ^ 64 - 1 else x.toNat / y.toNat) := by
  rw [divUnsigned, apply_ite word]
  exact if_congr (toNat_eq_zero_iff y).symm rfl rfl

theorem remUnsigned_eq_word (x y : Word) :
    remUnsigned x y = word (if y.toNat = 0 then x.toNat else x.toNat - x.toNat / y.toNat * y.toNat) := by
  rw [remUnsigned, apply_ite word, word_toNat, Nat.mod_eq_sub_div_mul]
  exact if_congr (toNat_eq_zero_iff y).symm rfl rfl

/-- Settles O6: the quotients and remainders of R125 as numbers, and `occupy` for the 40 cycles. -/
theorem divisionResults : Obligations.DivisionResults := by
  unfold Obligations.DivisionResults
  intro s d a b hab
  refine ⟨⟨givesAt_of_dividing rfl hab (divSigned_eq_wrap64 _ _), givesAt_of_dividing rfl hab (remSigned_eq_wrap64 _ _),
    fun hy hxy => ?_⟩, givesAt_of_dividing rfl hab (divUnsigned_eq_word _ _), givesAt_of_dividing rfl hab (remUnsigned_eq_word _ _)⟩
  have noOverflow : ¬((s.rx a).toInt = -2 ^ 63 ∧ (s.rx b).toInt = -1) := not_and_or.mpr hxy
  rw [if_neg hy, if_neg noOverflow, Int.tmod_def, mul_comm]

/-! ## Fields (R126) -/

theorem immPos_eq (imm : Word32) : immPos imm = imm.toNat % 64 := by simp [immPos, bits]
theorem immLen_eq (imm : Word32) : immLen imm = imm.toNat / 256 % 64 + 1 := by simp [immLen, bits_eq_div_mod]

/-- Settles O7: extraction by the definition of a field, insertion bit by bit. -/
theorem fieldResults : Obligations.FieldResults := by
  unfold Obligations.FieldResults
  intro s d a b c imm clip f inserted
  refine ⟨fun habc => ⟨gives_of_ternary rfl habc rfl, gives_of_ternary rfl habc rfl, fun hd v hv =>
    gives_of_quaternary rfl (State.readable_cons hd habc) (insertField_eq_of_bits hv)⟩, fun ha => ?_⟩
  rw [← immPos_eq, ← immLen_eq]
  exact ⟨gives_of_withImm rfl ha rfl, gives_of_withImm rfl ha rfl, fun hd v hv =>
    gives_of_withImmOld rfl (State.readable_cons hd ha) (insertField_eq_of_bits hv)⟩

/-! ## Immediates and `lea` (R127, R128) -/

theorem add_sext64 {w : Nat} (x : Word) (v : BitVec w) : x + sext64 v = wrap64 (x.toInt + v.toInt) := by
  rw [wrap64_add, wrap64_toInt, sext64_eq_wrap64]
theorem mul_sext64 (x : Word) (v : Word32) : x * sext64 v = wrap64 (x.toInt * v.toInt) := by
  rw [wrap64_mul, wrap64_toInt, sext64_eq_wrap64]
theorem zext64_eq_word {w : Nat} (v : BitVec w) : zext64 v = word v.toNat :=
  BitVec.eq_of_toNat_eq (by simp [zext64, word])

theorem shiftLeft_eq_mul (x : Word) (n : Nat) : x <<< n = x * wrap64 (2 ^ n) := by
  rw [shiftLeft_eq_word, word_mul, word_toNat, ← wrap64_natCast, Nat.cast_pow]; rfl

theorem setWidth_sext64 (v : Word32) : (sext64 v).setWidth 32 = v := by
  refine BitVec.eq_of_getLsbD_eq fun k hk => ?_
  simp only [sext64, BitVec.getLsbD_setWidth, BitVec.getLsbD_signExtend, hk, decide_true, if_true, Bool.true_and,
    show k < 64 by omega]

theorem sextWord_add_sext64 (x : Word) (v : Word32) : sextWord (x + sext64 v) = wrap64 (signedOf 32 (x.toNat + v.toNat)) := by
  have low : (sext64 v).toNat % 2 ^ 32 = v.toNat := by
    rw [← BitVec.toNat_setWidth, setWidth_sext64]
  exact sextWord_eq_wrap64 (by rw [BitVec.toNat_add]; omega)

theorem lih_eq_word (x : Word) (v : Word32) : (v ++ x.setWidth 32 : BitVec 64) = word (v.toNat * 2 ^ 32 + x.toNat % 2 ^ 32) := by
  rw [← BitVec.toNat_setWidth 32 x, ← Nat.shiftLeft_eq, Nat.shiftLeft_add_eq_or_of_lt (x.setWidth 32).isLt, ← BitVec.toNat_append,
    word_toNat]

theorem lea_eq_wrap64 (x y : Word) (n : Nat) {w : Nat} (v : BitVec w) :
    x + y <<< n + sext64 v = wrap64 (x.toInt + y.toInt * 2 ^ n + v.toInt) := by
  rw [wrap64_add, wrap64_add, wrap64_mul, wrap64_toInt, wrap64_toInt, shiftLeft_eq_mul, sext64_eq_wrap64]

theorem fieldImm_iff (imm : Word32) : fieldImm imm = true ↔ imm.toNat / 2 ^ 14 = 0 ∧ imm.toNat / 64 % 4 = 0 := by
  have := imm.isLt
  simp only [fieldImm, Bool.and_eq_true, beq_iff_eq, ← BitVec.toNat_inj, BitVec.extractLsb'_toNat, Nat.shiftRight_eq_div_pow,
    BitVec.ofNat_eq_ofNat, BitVec.toNat_ofNat]
  omega

/-- Settles O8: each immediate form as in R127, `lea` as in R128; what decodes is well formed. -/
theorem immediateResults : Obligations.ImmediateResults := by
  unfold Obligations.ImmediateResults
  refine ⟨fun s d a imm => ⟨gives_of_result rfl, fun ha => ?_⟩, fun s d a b shift disp hab =>
    gives_of_binary rfl hab (lea_eq_wrap64 _ _ _ _), fun w i hdecode d a imm => ?_⟩
  · have low : zext64 imm = word imm.toNat := zext64_eq_word imm
    exact ⟨gives_of_withImm rfl ha (add_sext64 _ _), gives_of_withImm rfl ha (sextWord_add_sext64 _ _),
      gives_of_withImm rfl ha (congrArg _ low), gives_of_withImm rfl ha (congrArg _ low), gives_of_withImm rfl ha (congrArg _ low),
      fun _ => ⟨gives_of_withImm rfl ha (shiftLeft_eq_word _ _), gives_of_withImm rfl ha (shiftRight_eq_word _ _),
        gives_of_withImm rfl ha (sshiftRight_eq_wrap64 _ _)⟩,
      gives_of_withImm rfl ha boolWord_eq_ite, gives_of_withImm rfl ha boolWord_eq_ite, gives_of_withImm rfl ha (lih_eq_word _ _),
      gives_of_withImm rfl ha (mul_sext64 _ _)⟩
  · have wf : i.wf = true := (decodeThenEncode w i hdecode).1
    refine ⟨fun h => ?_, fun h => ?_⟩
    · rcases h with rfl | rfl | rfl <;> exact of_decide_eq_true wf
    · rcases h with rfl | rfl | rfl <;> exact (fieldImm_iff imm).mp wf

/-! ## Control transfers (R129 to R133) -/

theorem State.target_eq_wrap64 (s : State) (disp : Word32) : s.target disp = wrap64 (s.me.pc.toNat + 8 * disp.toInt) := by
  rw [State.target, shiftLeft_eq_mul, wrap64_add, wrap64_natCast, word_toNat, wrap64_mul, sext64_eq_wrap64, mul_comm]; rfl

theorem State.checkTarget_canonical (s : State) {target : Word} (h : canonical target = true) (k : State) : s.checkTarget target k = k :=
  if_pos h

theorem State.checkTarget_traps (s : State) {target : Word} (h : canonical target = false) (k : State) :
    s.checkTarget target k = s.trap 0x03 target := if_neg (by simp [h])

section
variable {i : Instr} {s : State} {d a b : Reg} {target v : Word}

/-- A transfer that is not refused: the register result, then the pc. -/
theorem givesAt_of_checkTarget (h : exec i s = .next (s.checkTarget target ((s.wx d v).goto target))) (can : canonical target = true) :
    GivesAt i s d v target s.me.busyTo :=
  givesAt_of_goto (h.trans (by rw [State.checkTarget_canonical _ can]))

theorem jumpsTo_of_checkTarget (h : exec i s = .next (s.checkTarget target (s.goto target))) (can : canonical target = true) :
    JumpsTo i s target :=
  jumpsTo_of_goto (h.trans (by rw [State.checkTarget_canonical _ can]))

theorem traps_of_checkTarget {k : State} (h : exec i s = .next (s.checkTarget target k)) (can : canonical target = false) :
    Traps i s 0x03 target :=
  h.trans (by rw [State.checkTarget_traps _ can])

/-- R129: a taken branch goes to its target or traps, one not taken goes on. -/
theorem branch_outcome {taken : Word → Word → Bool} {holds : Bool} {disp : Word32} (h : exec i s = .next (branch taken a b disp s))
    (hread : s.readable [a, b]) (htaken : taken (s.rx a) (s.rx b) = holds) (htarget : s.target disp = target) :
    if holds then
      (canonical target = true → JumpsTo i s target) ∧ (canonical target = false → Traps i s 0x03 target)
    else JumpsTo i s (s.me.pc + 8) := by
  rw [branch, State.reading_of_readable hread, htarget, htaken] at h
  cases holds with
  | true => exact ⟨jumpsTo_of_checkTarget h, traps_of_checkTarget h⟩
  | false => exact jumpsTo_of_goto h

end

section
variable {s : State} {a : Reg} {disp : Word32}

theorem exec_loop_goes (hread : s.readable [a]) (hn : s.rx a - 1 ≠ 0) :
    exec (.loop a disp) s = .next (s.checkTarget (s.target disp) ((s.wx a (s.rx a - 1)).goto (s.target disp))) :=
  congrArg _ ((State.reading_of_readable hread _).trans (if_pos hn))

theorem exec_loop_ends (hread : s.readable [a]) (hn : s.rx a - 1 = 0) : exec (.loop a disp) s = .next (s.result a 0) :=
  congrArg _ ((State.reading_of_readable hread _).trans (if_neg (not_not.mpr hn)))

theorem exec_jalr (d : Reg) (imm : Word32) (hread : s.readable [a]) : exec (.jalr d a imm) s =
    .next (if (s.rx a + sext64 imm).toNat % 8 ≠ 0 then s.trap 0x04 (s.rx a + sext64 imm) else link d (s.rx a + sext64 imm) s) :=
  congrArg _ (State.reading_of_readable hread _)

end

/-- Settles O9: each transfer by what `checkTarget` makes of its target. -/
theorem controlTransfers : Obligations.ControlTransfers := by
  unfold Obligations.ControlTransfers
  refine ⟨fun s a b disp hab => ?_, fun s d a disp => ?_, fun s d a imm ha => ?_⟩
  · have htarget := s.target_eq_wrap64 disp
    exact ⟨branch_outcome rfl hab rfl htarget, branch_outcome rfl hab rfl htarget, branch_outcome rfl hab rfl htarget,
      branch_outcome rfl hab rfl htarget, branch_outcome rfl hab rfl htarget, branch_outcome rfl hab rfl htarget⟩
  · rw [← s.target_eq_wrap64 disp]
    intro target n
    refine ⟨fun can => ⟨jumpsTo_of_checkTarget rfl can, givesAt_of_checkTarget rfl can,
      fun ha hn => givesAt_of_checkTarget (exec_loop_goes ha hn) can⟩,
      fun can => ⟨traps_of_checkTarget rfl can, traps_of_checkTarget rfl can, fun ha hn => traps_of_checkTarget (exec_loop_goes ha hn) can⟩,
      fun ha hn => gives_of_result (exec_loop_ends ha hn), ?_⟩
    rintro rfl
    exact show (0 : Word) - 1 ≠ 0 by decide
  · rw [← add_sext64]
    intro target
    have hexec := exec_jalr d imm ha
    refine ⟨fun odd => hexec.trans (congrArg _ (if_pos odd)), fun aligned can => ?_, fun aligned can => ?_⟩
    · exact traps_of_checkTarget (hexec.trans (congrArg _ (if_neg (not_not.mpr aligned)))) can
    · exact givesAt_of_checkTarget (hexec.trans (congrArg _ (if_neg (not_not.mpr aligned)))) can

end Sys2Proof.Machine
end

section
/-! PROOF. Pops, tries and snapshots of the queues (07 R223 to R228). -/

namespace Sys2Proof.Machine

/-! ## The acting thread's registers, written one after the other -/

theorem State.wx_eq (s : State) (d : Reg) (v : Word) : s.wx d v = s.setThr s.curKey (s.me.setReg d v) := rfl

@[simp] theorem State.setThr_wx (s : State) (th : Thread) (d : Reg) (v : Word) :
    (s.setThr s.curKey th).wx d v = s.setThr s.curKey (th.setReg d v) := by
  rw [State.wx, State.modMe_eq, State.setThr_me, State.setThr_curKey, State.setThr_setThr]

@[simp] theorem State.setThr_next (s : State) (th : Thread) :
    (s.setThr s.curKey th).next = s.setThr s.curKey { th with pc := th.pc + 8, held := none } := by
  rw [State.next, State.goto, State.modMe_eq, State.setThr_me, State.setThr_curKey, State.setThr_setThr]

theorem State.setThr_setCore_setThr (s : State) (k m : Nat) (c : Core) (x y : Thread) :
    ((s.setThr k x).setCore m c).setThr k y = (s.setCore m c).setThr k y := by
  simp [State.setThr, State.setCore]

@[simp] theorem Thread.setReg_lodcyc (th : Thread) (d : Reg) (v : Word) : (th.setReg d v).lodcyc = th.lodcyc := by
  unfold Thread.setReg; split <;> rfl

theorem Thread.reg_setReg_eq (th : Thread) (d r : Reg) (v : Word) :
    (th.setReg d v).reg r = if r = 0 then 0 else if r = d then v else th.reg r := by
  rw [Thread.reg_setReg]
  by_cases h : r = 0
  · rw [if_pos h, if_neg (fun hd => hd.2 h), h, Thread.reg_zero]
  · rw [if_neg h]
    exact if_congr (and_iff_left h) rfl rfl

theorem Thread.reg_setReg_setReg (th : Thread) (d b r : Reg) (v w : Word) :
    ((th.setReg d v).setReg b w).reg r = if r = 0 then 0 else if r = b then w else if r = d then v else th.reg r := by
  rw [Thread.reg_setReg_eq, Thread.reg_setReg_eq]
  by_cases h : r = 0
  · rw [if_pos h, if_pos h]
  · rw [if_neg h, if_neg h, if_neg h]

theorem Thread.reg_clearReg (th : Thread) (d r : Reg) : (th.setReg d 0).reg r = if r = d then 0 else th.reg r := by
  rw [Thread.reg_setReg_eq]
  by_cases h : r = 0
  · rw [if_pos h, h, Thread.reg_zero, ite_self]
  · rw [if_neg h]

/-- `t` is `s` with another own core, and the acting thread past its instruction. -/
def State.PassedWith (s t : State) (core : Core) : Prop :=
  t.me.pc = s.me.pc + 8 ∧ t.me.held = none ∧ t = (s.setCore s.cur.m core).setThr s.curKey t.me

theorem State.passedWith_next {s : State} {core : Core} {th : Thread} (hpc : th.pc = s.me.pc) :
    s.PassedWith ((s.setCore s.cur.m core).setThr s.curKey th).next core := by
  have h : ((s.setCore s.cur.m core).setThr s.curKey th).next =
      (s.setCore s.cur.m core).setThr s.curKey { th with pc := th.pc + 8, held := none } := State.setThr_next (s.setCore s.cur.m core) th
  have hme : ((s.setCore s.cur.m core).setThr s.curKey th).next.me = { th with pc := th.pc + 8, held := none } := by
    rw [h]; exact State.setThr_me (s.setCore s.cur.m core) _
  refine ⟨?_, ?_, ?_⟩
  · rw [hme, ← hpc]
  · rw [hme]
  · rw [hme, h]

theorem State.next_rx (s : State) (th : Thread) (r : Reg) : (s.setThr s.curKey th).next.rx r = th.reg r := by
  rw [State.setThr_next, State.rx, State.setThr_me]; rfl

theorem State.next_lodcyc (s : State) (th : Thread) : (s.setThr s.curKey th).next.me.lodcyc = th.lodcyc := by
  rw [State.setThr_next, State.setThr_me]

/-! ## LOD (07 R228, 11 R362) -/

theorem armed_iff (t : Task) (en : Word) (enable hi lo : Nat) (counter : Word) :
    armed t en enable (bits en hi lo) counter = true ↔
      bit en enable = true ∧ t.trapvec ≠ 0 ∧ en.toNat / 2 ^ lo % 2 ^ (hi + 1 - lo) ≤ counter.toNat := by
  simp [armed, bits_eq_div_mod, and_assoc]

section
variable {i : Instr} {tval : Word} {s : State}

theorem lodEvent_armed (h : armed s.myTask (s.myTask.trapenAt s.cyc) 1 (bits (s.myTask.trapenAt s.cyc) 47 32) s.me.lodcnt = true) :
    lodEvent i tval s = (s.setThr s.curKey { s.me with lodcnt := s.me.lodcnt + 1 }).trap 0x0B tval := if_pos h

theorem lodEvent_holds (h : ¬armed s.myTask (s.myTask.trapenAt s.cyc) 1 (bits (s.myTask.trapenAt s.cyc) 47 32) s.me.lodcnt = true) :
    lodEvent i tval s = (s.setThr s.curKey { s.me with lodcnt := s.me.lodcnt + 1 }).hold i := if_neg h

/-- A pop that finds nothing: the trap when LOD is armed, else the hold. -/
theorem lodEvent_outcome (h : exec i s = .next (lodEvent i tval s)) :
    let task := s.taskOf s.me.task
    let trapen := task.trapenAt s.cyc
    let isArmed : Prop := bit trapen 1 = true ∧ task.trapvec ≠ 0 ∧ trapen.toNat / 2 ^ 32 % 2 ^ 16 ≤ s.me.lodcnt.toNat
    (isArmed → exec i s = .next ((s.setThr s.curKey { s.me with lodcnt := s.me.lodcnt + 1 }).trap 0x0B tval)) ∧
    (¬isArmed → ∃ t, exec i s = .next t ∧ t.me.held = some i ∧ t.me.pc = s.me.pc ∧ t.me.lodcnt = s.me.lodcnt + 1 ∧
      t.me.regs = s.me.regs ∧ t = s.setThr s.curKey t.me) := by
  intro task trapen isArmed
  have harmed := armed_iff task trapen 1 47 32 s.me.lodcnt
  refine ⟨fun yes => h.trans (congrArg _ (lodEvent_armed (harmed.mpr yes))),
    fun no => ⟨_, h.trans (congrArg _ (lodEvent_holds (mt harmed.mp no))), ?_⟩⟩
  rw [State.hold_me, State.setThr_me]
  refine ⟨rfl, rfl, rfl, rfl, ?_⟩
  rw [State.hold, State.modMe_eq, State.setThr_curKey, State.setThr_setThr, State.setThr_me]

end

/-! ## Which queues a pop may name (07 R221, 11 R366) -/

section
variable {s : State} {q : BitVec 4}

theorem State.withQueue_undeclared (h : (s.myCore.queue q.toNat).decl = false) (xa : Option Bool) (k : Queue → State) :
    s.withQueue q xa k = s.trap ILLOP 0 := by
  simp [State.withQueue, h]

theorem State.popQueue_refused (h : (s.myCore.queue q.toNat).decl = false ∨ (s.myCore.queue q.toNat).xa = false ∨
    s.chained s.me.task q.toNat = true) (k : Queue → State) : s.popQueue q k = s.trap ILLOP 0 := by
  by_cases hdecl : (s.myCore.queue q.toNat).decl = false
  · exact State.withQueue_undeclared hdecl _ _
  · by_cases hxa : (s.myCore.queue q.toNat).xa = false
    · simp [State.popQueue, State.withQueue, hxa]
    · have hchained : s.chained s.me.task q.toNat = true := by simpa [hdecl, hxa] using h
      simp [State.popQueue, State.withQueue, hdecl, hxa, hchained]

theorem State.popQueue_passes (hdecl : (s.myCore.queue q.toNat).decl = true) (hxa : (s.myCore.queue q.toNat).xa = true)
    (hchained : s.chained s.me.task q.toNat = false) (k : Queue → State) : s.popQueue q k = k (s.myCore.queue q.toNat) := by
  simp [State.popQueue, State.withQueue, hdecl, hxa, hchained]

end

/-! ## Taking the head (07 R223) -/

theorem takeHead_traps (d : Reg) (q : BitVec 4) {e : QEntry} (hpoison : e.tok.poison = true) (after : State → State) (s : State) :
    takeHead d 0 q e after s = s.trap 0x09 (word q.toNat) := if_pos (by simp [hpoison])

/-- The core without the head of a queue. -/
def Core.without (c : Core) (q : Nat) : Core := c.setQueue q (c.queue q).pop

theorem takeHead_takes (d : Reg) {b : Reg} (q : BitVec 4) {e : QEntry} (h : e.tok.poison = false ∨ b ≠ 0) (after : State → State)
    (s : State) : takeHead d b q e after s =
      after ((s.setCore s.cur.m (s.myCore.without q.toNat)).setThr s.curKey ((s.me.setReg d e.tok.data).setReg b (kindWord e.tok))) := by
  have keep : ¬(e.tok.poison && b == 0) = true := by
    rw [Bool.and_eq_true, beq_iff_eq]
    rintro ⟨hp, hb⟩
    exact h.elim (fun h => by simp [h] at hp) (fun h => h hb)
  exact (if_neg keep).trans (congrArg after (State.setThr_wx (s.setCore s.cur.m (s.myCore.without q.toNat)) _ b _))

section
variable {s : State} {d b : Reg} {q : BitVec 4} {e : QEntry}

theorem takeHead_next_took (h : e.tok.poison = false ∨ b ≠ 0) :
    (∀ r, (takeHead d b q e State.next s).rx r =
      if r = 0 then 0 else if r = b then kindWord e.tok else if r = d then e.tok.data else s.rx r) ∧
    s.PassedWith (takeHead d b q e State.next s) (s.myCore.without q.toNat) := by
  rw [takeHead_takes d q h]
  exact ⟨fun r => (State.next_rx (s.setCore s.cur.m _) _ r).trans (Thread.reg_setReg_setReg ..), State.passedWith_next (by simp)⟩

theorem takeHead_flag_took (c : Reg) (h : e.tok.poison = false ∨ b ≠ 0) :
    (∀ r, (takeHead d b q e (fun s => (s.wx c 1).next) s).rx r = if r = 0 then 0 else if r = c then 1 else
      if r = b then kindWord e.tok else if r = d then e.tok.data else s.rx r) ∧
    s.PassedWith (takeHead d b q e (fun s => (s.wx c 1).next) s) (s.myCore.without q.toNat) := by
  have hwx := State.setThr_wx (s.setCore s.cur.m (s.myCore.without q.toNat)) ((s.me.setReg d e.tok.data).setReg b (kindWord e.tok)) c 1
  have hstate := (takeHead_takes d q h (fun s => (s.wx c 1).next) s).trans (congrArg State.next hwx)
  rw [hstate]
  refine ⟨fun r => (State.next_rx (s.setCore s.cur.m _) _ r).trans ?_, State.passedWith_next (by simp)⟩
  rw [Thread.reg_setReg_eq, Thread.reg_setReg_setReg]
  by_cases hr : r = 0
  · rw [if_pos hr, if_pos hr]
  · rw [if_neg hr, if_neg hr, if_neg hr]; rfl

end

/-! ## The branch queue (07 R224) -/

section
variable {s : State} {v : Nat × BitVec 16} {l : List (Nat × BitVec 16)}

theorem Core.bqHead_of_ready {c : Core} {cyc : Nat} (hbq : c.bq = v :: l) (hready : v.1 ≤ cyc) : c.bqHead cyc = some v.2 := by
  rw [Core.bqHead, hbq]
  exact if_pos hready

theorem takeBq_eq (hbq : s.myCore.bq = v :: l) : takeBq s = s.setCore s.cur.m { s.myCore with bq := l } := by
  rw [takeBq, State.modMyCore_eq, hbq, List.tail_cons]

theorem takeBq_result (hbq : s.myCore.bq = v :: l) (d : Reg) : (takeBq s).result d (zext64 v.2) =
    ((s.setCore s.cur.m { s.myCore with bq := l }).setThr s.curKey (s.me.setReg d (word v.2.toNat))).next := by
  rw [takeBq_eq hbq, zext64_eq_word]
  rfl

theorem bqpop_head (hbq : s.myCore.bq = v :: l) (hready : v.1 ≤ s.cyc) (d : Reg) : bqpop d s =
    ((s.setCore s.cur.m { s.myCore with bq := l }).setThr s.curKey (s.me.setReg d (word v.2.toNat))).next := by
  rw [bqpop, Core.bqHead_of_ready hbq hready]
  exact takeBq_result hbq d

end

/-- A try that finds nothing writes zeros and passes. -/
theorem zeros_pass (s : State) (th : Thread) (hpc : th.pc = s.me.pc) :
    (s.setThr s.curKey th).next.me.pc = s.me.pc + 8 ∧ (s.setThr s.curKey th).next.me.held = none ∧
    (s.setThr s.curKey th).next = s.setThr s.curKey (s.setThr s.curKey th).next.me := by
  rw [State.setThr_next, State.setThr_me, hpc]
  exact ⟨rfl, rfl, rfl⟩

/-! ## The instructions, on a home thread -/

section
variable {s : State} {d b c : Reg} {q : BitVec 4} (hsvc : s.me.svc = false) (hhelper : s.me.helper = false)
include hsvc hhelper

theorem exec_qpop : exec (.qpop d b q) s = .next (qpop d b q s) := congrArg _ (State.homeOnly_of hsvc hhelper _)

theorem exec_qpop_refused (h : (s.myCore.queue q.toNat).decl = false ∨ (s.myCore.queue q.toNat).xa = false ∨
    s.chained s.me.task q.toNat = true) : Traps (.qpop d b q) s 0x01 0 :=
  (exec_qpop hsvc hhelper).trans (congrArg _ (State.popQueue_refused h _))

theorem exec_qtry_refused (h : (s.myCore.queue q.toNat).decl = false ∨ (s.myCore.queue q.toNat).xa = false ∨
    s.chained s.me.task q.toNat = true) : Traps (.qtry d b c q) s 0x01 0 :=
  congrArg _ ((State.homeOnly_of hsvc hhelper _).trans (State.popQueue_refused h _))

theorem exec_qstat_undeclared (h : (s.myCore.queue q.toNat).decl = false) : Traps (.qstat d q) s 0x01 0 :=
  congrArg _ ((State.homeOnly_of hsvc hhelper _).trans (State.withQueue_undeclared h _ _))

theorem exec_qstat_declared (h : (s.myCore.queue q.toNat).decl = true) : Gives (.qstat d q) s d (s.queueSeen s.cur.m q.toNat) :=
  gives_of_result (congrArg _ ((State.homeOnly_of hsvc hhelper _).trans (by simp [State.withQueue, h])))

section
variable (hdecl : (s.myCore.queue q.toNat).decl = true) (hxa : (s.myCore.queue q.toNat).xa = true)
  (hfree : s.chained s.me.task q.toNat = false)
include hdecl hxa hfree

theorem exec_qpop_empty (h : (s.myCore.queue q.toNat).head s.cyc = none) :
    exec (.qpop d b q) s = .next (lodEvent (.qpop d b q) (word q.toNat) s) := by
  rw [exec_qpop hsvc hhelper, qpop, State.popQueue_passes hdecl hxa hfree, h]

theorem exec_qpop_head {e : QEntry} (h : (s.myCore.queue q.toNat).head s.cyc = some e) :
    exec (.qpop d b q) s = .next (takeHead d b q e State.next s) := by
  rw [exec_qpop hsvc hhelper, qpop, State.popQueue_passes hdecl hxa hfree, h]

theorem exec_qtry_empty (h : (s.myCore.queue q.toNat).head s.cyc = none) :
    exec (.qtry d b c q) s = .next (s.setThr s.curKey (((s.me.setReg d 0).setReg b 0).setReg c 0)).next := by
  have hexec : exec (.qtry d b c q) s = .next (((s.wx d 0).wx b 0).wx c 0).next :=
    congrArg _ ((State.homeOnly_of hsvc hhelper _).trans ((State.popQueue_passes hdecl hxa hfree _).trans (by rw [h])))
  rw [hexec, s.wx_eq d, State.setThr_wx, State.setThr_wx]

theorem exec_qtry_head {e : QEntry} (h : (s.myCore.queue q.toNat).head s.cyc = some e) :
    exec (.qtry d b c q) s = .next (takeHead d b q e (fun s => (s.wx c 1).next) s) :=
  congrArg _ ((State.homeOnly_of hsvc hhelper _).trans ((State.popQueue_passes hdecl hxa hfree _).trans (by rw [h])))

end

theorem exec_bqpop : exec (.bqpop d) s = .next (bqpop d s) := congrArg _ (State.homeOnly_of hsvc hhelper _)

theorem exec_bqpop_empty (h : s.myCore.bqHead s.cyc = none) : exec (.bqpop d) s = .next (lodEvent (.bqpop d) 0x10 s) := by
  rw [exec_bqpop hsvc hhelper, bqpop, h]

theorem exec_bqtry_empty (h : s.myCore.bqHead s.cyc = none) :
    exec (.bqtry d c) s = .next (s.setThr s.curKey ((s.me.setReg d 0).setReg c 0)).next := by
  have hexec : exec (.bqtry d c) s = .next ((s.wx d 0).wx c 0).next :=
    congrArg _ ((State.homeOnly_of hsvc hhelper _).trans (by rw [h]))
  rw [hexec, s.wx_eq d, State.setThr_wx]

section
variable {v : Nat × BitVec 16} {l : List (Nat × BitVec 16)} (hbq : s.myCore.bq = v :: l) (hready : v.1 ≤ s.cyc)
include hbq hready

theorem exec_bqpop_head : exec (.bqpop d) s =
    .next ((s.setCore s.cur.m { s.myCore with bq := l }).setThr s.curKey (s.me.setReg d (word v.2.toNat))).next := by
  rw [exec_bqpop hsvc hhelper, bqpop_head hbq hready]

theorem exec_bqtry_head : exec (.bqtry d c) s =
    .next ((s.setCore s.cur.m { s.myCore with bq := l }).setThr s.curKey ((s.me.setReg d (word v.2.toNat)).setReg c 1)).next := by
  have hexec : exec (.bqtry d c) s = .next (((takeBq s).wx d (zext64 v.2)).wx c 1).next :=
    congrArg _ ((State.homeOnly_of hsvc hhelper _).trans (by rw [Core.bqHead_of_ready hbq hready]))
  rw [hexec, takeBq_eq hbq, zext64_eq_word]
  exact congrArg (fun t => Host.Outcome.next (State.next t)) (State.setThr_wx (s.setCore s.cur.m { s.myCore with bq := l }) _ c 1)

end

end

/-! ## A held pop (07 R228) -/

/-- The thread that has counted its blocked cycles and is held no longer. -/
def Thread.counted (th : Thread) (cyc : Nat) : Thread := { th with lodcyc := th.lodcyc + word (cyc - th.heldFrom), held := none }

section
variable {s : State} {d b : Reg} {q : BitVec 4}

theorem countBlocked_eq (s : State) :
    countBlocked s = s.setThr s.curKey { s.me with lodcyc := s.me.lodcyc + word (s.cyc - s.me.heldFrom) } := rfl

theorem exec_blockedPop_qpop_empty (hheld : s.me.held = some (.qpop d b q)) (h : (s.myCore.queue q.toNat).head s.cyc = none) :
    exec .blockedPopTakesEffect s = .next s := by
  change execBlockedPopTakesEffect s = _
  rw [execBlockedPopTakesEffect, hheld]
  dsimp only
  rw [h]

theorem exec_blockedPop_qpop_head (hheld : s.me.held = some (.qpop d b q)) {e : QEntry}
    (h : (s.myCore.queue q.toNat).head s.cyc = some e) :
    exec .blockedPopTakesEffect s = .next (takeHead d b q e State.next (s.setThr s.curKey (s.me.counted s.cyc))) := by
  change execBlockedPopTakesEffect s = _
  rw [execBlockedPopTakesEffect, hheld]
  dsimp only
  rw [h, countBlocked_eq, State.modMe_eq, State.setThr_curKey, State.setThr_setThr, State.setThr_me]
  rfl

theorem exec_blockedPop_bqpop_empty (hheld : s.me.held = some (.bqpop d)) (h : s.myCore.bqHead s.cyc = none) :
    exec .blockedPopTakesEffect s = .next s := by
  change execBlockedPopTakesEffect s = _
  rw [execBlockedPopTakesEffect, hheld]
  dsimp only
  rw [h]

theorem takeHead_counted_took {e : QEntry} (h : e.tok.poison = false ∨ b ≠ 0) :
    let t := takeHead d b q e State.next (s.setThr s.curKey (s.me.counted s.cyc))
    (∀ r, t.rx r = if r = 0 then 0 else if r = b then kindWord e.tok else if r = d then e.tok.data else s.rx r) ∧
    s.PassedWith t (s.myCore.without q.toNat) ∧ t.me.lodcyc = s.me.lodcyc + word (s.cyc - s.me.heldFrom) := by
  intro t
  have ht : t = ((s.setCore s.cur.m (s.myCore.without q.toNat)).setThr s.curKey
      (((s.me.counted s.cyc).setReg d e.tok.data).setReg b (kindWord e.tok))).next := by
    refine (takeHead_takes d q h _ _).trans (congrArg State.next ?_)
    rw [State.setThr_curKey, State.setThr_me]
    exact State.setThr_setCore_setThr ..
  rw [ht]
  exact ⟨fun r => (State.next_rx (s.setCore s.cur.m _) _ r).trans (Thread.reg_setReg_setReg ..), State.passedWith_next (by simp; rfl),
    (State.next_lodcyc (s.setCore s.cur.m _) _).trans (by simp; rfl)⟩

theorem exec_blockedPop_bqpop_head {v : Nat × BitVec 16} {l : List (Nat × BitVec 16)} (hheld : s.me.held = some (.bqpop d))
    (hbq : s.myCore.bq = v :: l) (hready : v.1 ≤ s.cyc) : exec .blockedPopTakesEffect s =
      .next ((s.setCore s.cur.m { s.myCore with bq := l }).setThr s.curKey
        ({ s.me with lodcyc := s.me.lodcyc + word (s.cyc - s.me.heldFrom) }.setReg d (word v.2.toNat))).next := by
  change execBlockedPopTakesEffect s = _
  rw [execBlockedPopTakesEffect, hheld]
  dsimp only
  rw [Core.bqHead_of_ready hbq hready]
  refine congrArg _ ((takeBq_result (s := countBlocked s) hbq d).trans (congrArg State.next ?_))
  rw [countBlocked_eq, State.setThr_curKey, State.setThr_me]
  exact State.setThr_setCore_setThr ..

end

/-- Settles O23: what each instruction meets at the head of its queue, and the state each outcome leaves. -/
theorem queuePops : Obligations.QueuePops := by
  unfold Obligations.QueuePops
  intro s d b c q x task trapen isArmed without lod blocked done took
  refine ⟨fun hsvc hhelper => ⟨fun bad => ⟨exec_qpop_refused hsvc hhelper bad, exec_qtry_refused hsvc hhelper bad⟩,
      exec_qstat_undeclared hsvc hhelper, fun hdecl => ⟨exec_qstat_declared hsvc hhelper hdecl, fun hprior => ?_⟩,
      fun hdecl hxa hfree => ⟨fun e he => ⟨?_, fun htake => ⟨?_, ?_⟩⟩, fun hnone => ⟨?_, ?_⟩⟩,
      fun hnone => ⟨?_, ?_⟩, fun v l hbq hready => ⟨?_, ?_⟩⟩,
    fun hheld => ⟨fun hnone => ?_, fun e he htake => ?_⟩, fun hheld => ⟨fun hnone => ?_, fun v l hbq hready => ?_⟩⟩
  · rw [State.queueSeen, hprior]; rfl
  · rintro hpoison rfl
    exact ⟨(exec_qpop_head hsvc hhelper hdecl hxa hfree he).trans (congrArg _ (takeHead_traps d q hpoison _ s)),
      (exec_qtry_head hsvc hhelper hdecl hxa hfree he).trans (congrArg _ (takeHead_traps d q hpoison _ s))⟩
  · exact ⟨_, exec_qpop_head hsvc hhelper hdecl hxa hfree he, takeHead_next_took htake⟩
  · exact ⟨_, exec_qtry_head hsvc hhelper hdecl hxa hfree he, takeHead_flag_took c htake⟩
  · exact lodEvent_outcome (exec_qpop_empty hsvc hhelper hdecl hxa hfree hnone)
  · refine ⟨_, exec_qtry_empty hsvc hhelper hdecl hxa hfree hnone, fun r => (State.next_rx s _ r).trans ?_, zeros_pass s _ (by simp)⟩
    rw [Thread.reg_clearReg, Thread.reg_clearReg, Thread.reg_clearReg, ← ite_or, ← ite_or]
    exact if_congr (by tauto) rfl rfl
  · exact lodEvent_outcome (exec_bqpop_empty hsvc hhelper hnone)
  · refine ⟨_, exec_bqtry_empty hsvc hhelper hnone, fun r => (State.next_rx s _ r).trans ?_, zeros_pass s _ (by simp)⟩
    rw [Thread.reg_clearReg, Thread.reg_clearReg, ← ite_or]
    exact if_congr or_comm rfl rfl
  · exact ⟨_, exec_bqpop_head hsvc hhelper hbq hready,
      fun r => (State.next_rx (s.setCore s.cur.m _) _ r).trans (Thread.reg_setReg_eq ..), State.passedWith_next (by simp)⟩
  · exact ⟨_, exec_bqtry_head hsvc hhelper hbq hready,
      fun r => (State.next_rx (s.setCore s.cur.m _) _ r).trans (Thread.reg_setReg_setReg ..), State.passedWith_next (by simp)⟩
  · exact exec_blockedPop_qpop_empty hheld hnone
  · obtain ⟨hregs, hdone, hblocked⟩ := takeHead_counted_took (s := s) (d := d) (q := q) htake
    exact ⟨_, exec_blockedPop_qpop_head hheld he, ⟨hregs, hdone⟩, hblocked⟩
  · exact exec_blockedPop_bqpop_empty hheld hnone
  · refine ⟨_, exec_blockedPop_bqpop_head hheld hbq hready, (State.next_rx (s.setCore s.cur.m _) _ d).trans ?_,
      State.passedWith_next (by simp), (State.next_lodcyc (s.setCore s.cur.m _) _).trans (by simp)⟩
    rw [Thread.reg_setReg_eq, if_pos rfl]

end Sys2Proof.Machine
end

section
/-! PROOF. Control words: which there are, which reads and writes trap, and what `getcw` reads (04 R118 to R123). -/

namespace Sys2Proof.Machine

/-! ## Which words there are (04 R118 to R121) -/

section
variable {s : State} {n : Nat}

theorem State.cword_of_common {v : Word} (h : s.commonWord n = some v) : s.cword n = some v := by rw [State.cword, h]

theorem State.cword_service (hsvc : s.me.svc = true) (h : s.commonWord n = none) : s.cword n = s.svcWord n := by
  rw [State.cword, h]; exact if_pos hsvc

theorem State.cword_task (hsvc : s.me.svc = false) (h : s.commonWord n = none) : s.cword n = s.taskWord n := by
  rw [State.cword, h]; exact if_neg (by simp [hsvc])

theorem State.commonWord_none (s : State) (h : n ≠ 0 ∧ n ≠ 1 ∧ n ≠ 2 ∧ n ≠ 3 ∧ n ≠ 6 ∧ n ≠ 0x13) : s.commonWord n = none := by
  unfold State.commonWord
  split
  case h_7 => rfl
  all_goals omega

theorem State.svcWord_none (s : State) (h : n < 0x800 ∨ 0x802 < n ∧ n < 0x810 ∨ 0x818 < n) : s.svcWord n = none := by
  unfold State.svcWord
  dsimp only
  split
  case h_13 => rfl
  all_goals omega

/-- The words of the queues (R121). -/
theorem State.taskWord_queue (s : State) (h : 0xC ≤ n ∧ n ≤ 0xF ∨ 0x13 ≤ n ∧ n < 0x50 ∨ 0x53 < n) : s.taskWord n =
    let q := s.taskCore.queue (n % 16)
    if n / 16 = 2 then some (word (if q.decl then q.cap else 0))
    else if n / 16 = 3 then some (word (bits (s.queueSeen s.myTask.core (n % 16)) 6 0))
    else if n / 16 = 4 then some (if q.decl then Tab.get 0 s.myTask.qempty (n % 16) else 0)
    else none := by
  unfold State.taskWord
  dsimp only
  split
  case h_15 => rfl
  all_goals omega

theorem State.taskWord_none (s : State) (h : 0xC ≤ n ∧ n ≤ 0xF ∨ 0x13 ≤ n ∧ n ≤ 0x1F ∨ 0x54 ≤ n) : s.taskWord n = none :=
  (s.taskWord_queue (by omega)).trans ((if_neg (by omega)).trans ((if_neg (by omega)).trans (if_neg (by omega))))

variable {v : Word}

theorem State.writeCword_service (hsvc : s.me.svc = true) (h : n ≠ 1 ∧ n ≠ 2 ∧ n ≠ 3 ∧ n ≠ 6) :
    s.writeCword n v = s.writeSvc n v := by
  unfold State.writeCword
  split
  case h_5 => exact if_pos hsvc
  all_goals omega

theorem State.writeCword_task (hsvc : s.me.svc = false) (h : n ≠ 1 ∧ n ≠ 2 ∧ n ≠ 3 ∧ n ≠ 6) :
    s.writeCword n v = s.writeTask n v := by
  unfold State.writeCword
  split
  case h_5 => exact if_neg (by simp [hsvc])
  all_goals omega

theorem State.writeSvc_none (s : State) (v : Word)
    (h : n < 0x800 ∨ 0x802 < n ∧ n < 0x810 ∨ n = 0x812 ∨ n = 0x815 ∨ 0x818 < n) : s.writeSvc n v = none := by
  unfold State.writeSvc
  dsimp only
  split
  case h_11 => rfl
  all_goals omega

/-- A word of a queue is written where it counts for a declared queue of a home thread. -/
theorem State.writeTask_queue (s : State) (v : Word) (h : n < 4 ∨ 0xC ≤ n ∧ n ≠ 0x51) : s.writeTask n v =
    if n / 16 = 4 ∧ !s.me.helper ∧ ((s.core s.myTask.core).queue (n % 16)).decl then
      some (s.modMyTask (fun t => { t with qempty := Tab.put t.qempty (n % 16) v }))
    else none := by
  unfold State.writeTask
  dsimp only
  split
  case h_9 => rfl
  all_goals omega

end

/-! ## Reads and writes that trap -/

section
variable {s : State} {d a : Reg} {n : BitVec 12}

theorem State.naming_of {k : Nat} (h : k < 0x800 ∨ s.me.svc = true) (t : State) : s.naming k t = t :=
  if_neg (by rintro ⟨hk, hsvc⟩; rcases h with h | h
             · omega
             · simp [h] at hsvc)

theorem State.naming_traps {k : Nat} (hsvc : s.me.svc = false) (h : 0x800 ≤ k) (t : State) : s.naming k t = s.trap PRIV 0 :=
  if_pos ⟨h, by simp [hsvc]⟩

theorem getcw_traps (hname : n.toNat < 0x800 ∨ s.me.svc = true) (h : s.cword n.toNat = none) : Traps (.getcw d n) s 0x01 0 :=
  congrArg _ ((State.naming_of hname _).trans (by rw [h]; rfl))

theorem setcw_traps (hname : n.toNat < 0x800 ∨ s.me.svc = true) (h : s.next.writeCword n.toNat (s.rx a) = none) :
    Traps (.setcw n a) s 0x01 0 :=
  congrArg _ ((State.naming_of hname _).trans (by rw [h]; rfl))

theorem State.next_me (s : State) : s.next.me = { s.me with pc := s.me.pc + 8, held := none } := State.setThr_me _ _

theorem State.next_svc (s : State) : s.next.me.svc = s.me.svc := by rw [State.next_me]

theorem cword_traps_service (hsvc : s.me.svc = true) (h : 0x818 < n.toNat ∨ 0x802 < n.toNat ∧ n.toNat < 0x810 ∨
      4 ≤ n.toNat ∧ n.toNat < 0x800 ∧ n.toNat ≠ 6 ∧ n.toNat ≠ 0x13) :
    Traps (.getcw d n) s 0x01 0 ∧ Traps (.setcw n a) s 0x01 0 :=
  ⟨getcw_traps (.inr hsvc) ((State.cword_service hsvc (s.commonWord_none (by omega))).trans (s.svcWord_none (by omega))),
    setcw_traps (.inr hsvc) ((State.writeCword_service (s.next_svc.trans hsvc) (by omega)).trans (s.next.writeSvc_none _ (by omega)))⟩

theorem setcw_traps_service (hsvc : s.me.svc = true) (h : n.toNat = 0 ∨ n.toNat = 0x13 ∨ n.toNat = 0x812 ∨ n.toNat = 0x815) :
    Traps (.setcw n a) s 0x01 0 :=
  setcw_traps (.inr hsvc) ((State.writeCword_service (s.next_svc.trans hsvc) (by omega)).trans (s.next.writeSvc_none _ (by omega)))

theorem getcw_traps_task (hsvc : s.me.svc = false)
    (h : 0xC ≤ n.toNat ∧ n.toNat ≤ 0xF ∨ 0x14 ≤ n.toNat ∧ n.toNat ≤ 0x1F ∨ 0x54 ≤ n.toNat ∧ n.toNat ≤ 0x7FF) :
    Traps (.getcw d n) s 0x01 0 :=
  getcw_traps (.inl (by omega)) ((State.cword_task hsvc (s.commonWord_none (by omega))).trans (s.taskWord_none (by omega)))

theorem setcw_traps_task (hsvc : s.me.svc = false) (h : n.toNat = 0 ∨ 0xC ≤ n.toNat ∧ n.toNat ≤ 0x3F ∨ n.toNat = 0x50 ∨
    0x52 ≤ n.toNat ∧ n.toNat ≤ 0x7FF) : Traps (.setcw n a) s 0x01 0 :=
  setcw_traps (.inl (by omega)) ((State.writeCword_task (s.next_svc.trans hsvc) (by omega)).trans
    ((s.next.writeTask_queue _ (by omega)).trans (if_neg (by omega))))

theorem setcw_traps_qempty (hsvc : s.me.svc = false) (hlo : 0x40 ≤ n.toNat) (hhi : n.toNat ≤ 0x4F)
    (h : s.me.helper = true ∨ ((s.core (s.taskOf s.me.task).core).queue (n.toNat - 0x40)).decl = false) :
    Traps (.setcw n a) s 0x01 0 := by
  refine setcw_traps (.inl (by omega)) ((State.writeCword_task (s.next_svc.trans hsvc) (by omega)).trans
    ((s.next.writeTask_queue _ (by omega)).trans (if_neg ?_)))
  rintro ⟨-, hhome, hdecl⟩
  rw [State.next_me] at hhome
  have hq : n.toNat % 16 = n.toNat - 0x40 := by omega
  have hcore : (s.next.core s.next.myTask.core).queue (n.toNat % 16) = (s.core (s.taskOf s.me.task).core).queue (n.toNat - 0x40) := by
    rw [State.myTask, State.next_me, hq]; rfl
  rw [hcore] at hdecl
  rcases h with h | h <;> simp [h] at hhome hdecl

end

/-! ## What a read finds -/

section
variable {s : State} {d : Reg} {n : Nat} {v : Word}

theorem getcw_gives (hstruck : ∀ k, s.struck k = false) (hn : n < 2 ^ 12) (hname : n < 0x800 ∨ s.me.svc = true)
    (h : s.cword n = some v) : Gives (.getcw d (BitVec.ofNat 12 n)) s d v := by
  have hk : (BitVec.ofNat 12 n).toNat = n := Nat.mod_eq_of_lt hn
  refine gives_of_result (congrArg _ ((State.naming_of (by rwa [hk]) _).trans ?_))
  rw [hk, h]
  exact if_neg (by simp [hstruck])

/-- Reads of words every thread has, or that the kind of the acting thread has. -/
theorem getcw_gives_list {l : List (Nat × Word)} (hstruck : ∀ k, s.struck k = false)
    (hname : ∀ e ∈ l, e.1 < 2 ^ 12 ∧ (e.1 < 0x800 ∨ s.me.svc = true)) (h : ∀ e ∈ l, s.cword e.1 = some e.2) :
    ∀ e ∈ l, Gives (.getcw d (BitVec.ofNat 12 e.1)) s d e.2 :=
  fun e he => getcw_gives hstruck (hname e he).1 (hname e he).2 (h e he)

/-- The queue's status word shows its occupancy in bits [6:0] (07 R225). -/
theorem Queue.status_occ (q : Queue) (cyc : Nat) : bits (q.status cyc) 6 0 = q.occ cyc % 128 := by
  unfold Queue.status
  rw [bits_eq_div_mod, word, BitVec.toNat_ofNat]
  cases q.head cyc with
  | none => dsimp only; split_ifs <;> omega
  | some e =>
    change (2 ^ 23 + (if e.tok.poison then 2 ^ 22 else 0) + e.tok.kind.toNat * 2 ^ 18 + (if q.xa then 2 ^ 17 else 0) +
      (if q.decl then 2 ^ 16 else 0) + q.cap * 2 ^ 8 + q.occ cyc : Nat) % 2 ^ 64 / 2 ^ 0 % 2 ^ (6 + 1 - 0) = q.occ cyc % 128
    split_ifs <;> omega

theorem State.queueSeen_now {m : Nat} (h : ∀ p, Tab.find s.prior m = some p → p.cyc ≠ s.cyc) (q : Nat) :
    s.queueSeen m q = ((s.core m).queue q).status s.cyc := by
  unfold State.queueSeen
  split
  · next p hp => exact if_neg (h p hp)
  · rfl

theorem State.queueSeen_prior {m : Nat} {p : Prior} (hp : Tab.find s.prior m = some p) (hcyc : p.cyc = s.cyc) (q : Nat) :
    s.queueSeen m q = p.queues[q]?.getD 0 := by
  rw [State.queueSeen, hp]; exact if_pos hcyc

theorem State.mstatSeen_now {m : Nat} (h : ∀ p, Tab.find s.prior m = some p → p.cyc ≠ s.cyc) :
    s.mstatSeen m = (s.core m).matrix.mstat s.cyc := by
  unfold State.mstatSeen
  split
  · next p hp => exact if_neg (h p hp)
  · rfl

theorem State.mstatSeen_prior {m : Nat} {p : Prior} (hp : Tab.find s.prior m = some p) (hcyc : p.cyc = s.cyc) :
    s.mstatSeen m = p.mstat := by
  rw [State.mstatSeen, hp]; exact if_pos hcyc

end

section
variable {s : State} {q : Nat} (hsvc : s.me.svc = false) (hq : q < 16)
include hsvc hq

theorem State.cword_capacity :
    s.cword (0x20 + q) = some (word (if (s.taskCore.queue q).decl then (s.taskCore.queue q).cap else 0)) := by
  rw [State.cword_task hsvc (s.commonWord_none (by omega)), s.taskWord_queue (by omega), show (0x20 + q) % 16 = q by omega]
  exact if_pos (by omega)

theorem State.cword_occupancy : s.cword (0x30 + q) = some (word (bits (s.queueSeen s.myTask.core q) 6 0)) := by
  rw [State.cword_task hsvc (s.commonWord_none (by omega)), s.taskWord_queue (by omega), show (0x30 + q) % 16 = q by omega]
  exact (if_neg (by omega)).trans (if_pos (by omega))

theorem State.cword_qempty :
    s.cword (0x40 + q) = some (if (s.taskCore.queue q).decl then Tab.get 0 s.myTask.qempty q else 0) := by
  rw [State.cword_task hsvc (s.commonWord_none (by omega)), s.taskWord_queue (by omega), show (0x40 + q) % 16 = q by omega]
  exact (if_neg (by omega)).trans ((if_neg (by omega)).trans (if_pos (by omega)))

end

/-! ## The words as they read -/

section
variable {s : State} {d : Reg} (hstruck : ∀ k, s.struck k = false)
include hstruck

theorem getcw_common_list :
    let one (b : Bool) (n : Nat) : Nat := if b then 2 ^ n else 0
    ∀ e ∈ [(0, word (one s.me.svc 6 + one s.me.intrap 5 + s.cur.t % 8 * 4 + one s.me.helper 1 + one s.me.svc 0)), (1, s.me.epc),
      (2, s.me.tcause), (3, s.me.tval), (6, s.me.prio), (0x13, word s.cyc)], Gives (.getcw d (BitVec.ofNat 12 e.1)) s d e.2 := by
  intro one
  refine getcw_gives_list hstruck (by simp) ?_
  simp only [List.forall_mem_cons, List.not_mem_nil, false_imp_iff, implies_true, and_true]
  exact ⟨State.cword_of_common rfl, State.cword_of_common rfl, State.cword_of_common rfl, State.cword_of_common rfl,
    State.cword_of_common rfl, State.cword_of_common rfl⟩

theorem getcw_task_list (hsvc : s.me.svc = false) :
    ∀ e ∈ [(4, s.myTask.trapvec), (5, s.myTask.trapen), (7, s.me.watchq), (8, s.me.lodcnt), (9, s.me.lodcyc), (0xA, s.me.qfullcnt),
        (0xB, word s.myTask.tflags.toNat), (0x10, word s.myTask.role), (0x11, word s.me.task),
        (0x12, word (s.launchOf s.myTask.lid).img.groupsz), (0x51, s.taskCore.matrix.misscnt), (0x52, word s.taskCore.matrix.dla),
        (0x53, word s.taskCore.matrix.dlb)], Gives (.getcw d (BitVec.ofNat 12 e.1)) s d e.2 := by
  refine getcw_gives_list hstruck (by simp) ?_
  have task {n : Nat} {v : Word} (hcommon : s.commonWord n = none) (h : s.taskWord n = some v) : s.cword n = some v :=
    (State.cword_task hsvc hcommon).trans h
  simp only [List.forall_mem_cons, List.not_mem_nil, false_imp_iff, implies_true, and_true]
  exact ⟨task rfl rfl, task rfl rfl, task rfl rfl, task rfl rfl, task rfl rfl, task rfl rfl,
    task rfl (congrArg some (zext64_eq_word s.myTask.tflags)), task rfl rfl, task rfl rfl, task rfl rfl, task rfl rfl, task rfl rfl,
    task rfl rfl⟩

theorem getcw_service_list (hsvc : s.me.svc = true) :
    let one (b : Bool) (n : Nat) : Nat := if b then 2 ^ n else 0
    ∀ e ∈ [(0x800, word (s.sup.jobtab * 2 ^ 22)), (0x801, word (one s.me.phys 63 + s.me.sctxJob)), (0x802, word (s.sup.lwmtab * 2 ^ 22)),
        (0x810, s.sup.fqbase), (0x811, word s.sup.fqhead), (0x812, word s.sup.fqtail), (0x813, s.sup.cqbase),
        (0x814, word s.sup.cqhead), (0x815, word s.sup.cqtail), (0x816, s.me.svec), (0x818, word (s.sup.savepool * 16))],
      Gives (.getcw d (BitVec.ofNat 12 e.1)) s d e.2 := by
  intro one
  refine getcw_gives_list hstruck (by simp [hsvc]) ?_
  have service {n : Nat} {v : Word} (hcommon : s.commonWord n = none) (h : s.svcWord n = some v) : s.cword n = some v :=
    (State.cword_service hsvc hcommon).trans h
  simp only [List.forall_mem_cons, List.not_mem_nil, false_imp_iff, implies_true, and_true]
  exact ⟨service rfl rfl, service rfl rfl, service rfl rfl, service rfl rfl, service rfl rfl, service rfl rfl, service rfl rfl,
    service rfl rfl, service rfl rfl, service rfl rfl, service rfl rfl⟩

theorem getcw_one {n : Nat} {v : Word} (hn : n < 0x800) (h : s.cword n = some v) :
    ∀ e ∈ [(n, v)], Gives (.getcw d (BitVec.ofNat 12 e.1)) s d e.2 :=
  List.forall_mem_singleton.mpr (getcw_gives hstruck (by omega) (.inl hn) h)

theorem getcw_mstat (hsvc : s.me.svc = false) :
    ∀ e ∈ [(0x50, s.mstatSeen s.myTask.core)], Gives (.getcw d (BitVec.ofNat 12 e.1)) s d e.2 :=
  getcw_one hstruck (by omega) ((State.cword_task hsvc rfl).trans rfl)

theorem getcw_occupancy (hsvc : s.me.svc = false) {q : Nat} (hq : q < 16) :
    ∀ e ∈ [(0x30 + q, word (bits (s.queueSeen s.myTask.core q) 6 0))], Gives (.getcw d (BitVec.ofNat 12 e.1)) s d e.2 :=
  getcw_one hstruck (by omega) (State.cword_occupancy hsvc hq)

end

end Sys2Proof.Machine
end

section
/-! PROOF. Control words: what `setcw` changes (04 R118, 13 R429), and the turn events (11 R360, R361). -/

namespace Sys2Proof.Machine

/-! ## What a write changes -/

/-- The words that a thread keeps itself. -/
def Thread.ownWord (th : Thread) : Nat → Option Word
  | 0x001 => some th.epc
  | 0x002 => some th.tcause
  | 0x003 => some th.tval
  | 0x006 => some th.prio
  | 0x007 => some th.watchq
  | 0x008 => some th.lodcnt
  | 0x009 => some th.lodcyc
  | 0x00A => some th.qfullcnt
  | 0x801 => some (word ((if th.phys then 2 ^ 63 else 0) + th.sctxJob))
  | 0x816 => some th.svec
  | _ => none

/-- The words that a task keeps. -/
def Task.ownWord (x : Task) : Nat → Option Word
  | 0x004 => some x.trapvec
  | 0x005 => some x.trapen
  | 0x00B => some (zext64 x.tflags)
  | n => if n / 16 = 4 then some (Tab.get 0 x.qempty (n % 16)) else none

/-- The words that the package keeps once. -/
def Sup.ownWord (p : Sup) : Nat → Option Word
  | 0x800 => some (word (p.jobtab * 2 ^ 22))
  | 0x802 => some (word (p.lwmtab * 2 ^ 22))
  | 0x810 => some p.fqbase
  | 0x811 => some (word p.fqhead)
  | 0x812 => some (word p.fqtail)
  | 0x813 => some p.cqbase
  | 0x814 => some (word p.cqhead)
  | 0x815 => some (word p.cqtail)
  | 0x817 => some (word (p.fwstate.code * 2 ^ 60 + p.fwimage * 2 ^ 12))
  | 0x818 => some (word (p.savepool * 2 ^ 4))
  | _ => none

/-- `x` is `y` but for the words a thread keeps, and which of them are struck. -/
def Thread.SameButWords (x y : Thread) : Prop :=
  x = { y with epc := x.epc, tcause := x.tcause, tval := x.tval, prio := x.prio, watchq := x.watchq, lodcnt := x.lodcnt
               lodcyc := x.lodcyc, qfullcnt := x.qfullcnt, phys := x.phys, sctxJob := x.sctxJob, svec := x.svec
               badWords := x.badWords }

/-- `x` is `y` but for the words a task keeps. -/
def Task.SameButWords (x y : Task) : Prop :=
  x = { y with trapvec := x.trapvec, trapen := x.trapen, trapenOld := x.trapenOld, tflags := x.tflags, qempty := x.qempty
               badWords := x.badWords }

theorem Task.ownWord_queue (x : Task) {n : Nat} (h4 : n ≠ 4) (h5 : n ≠ 5) (hB : n ≠ 0xB) :
    x.ownWord n = if n / 16 = 4 then some (Tab.get 0 x.qempty (n % 16)) else none := by
  unfold Task.ownWord
  split
  case h_4 => rfl
  all_goals contradiction

section
variable {s : State} {k : Nat}

theorem State.cword_congr {t : State} (hsvc : t.me.svc = s.me.svc) (hcommon : t.commonWord k = s.commonWord k)
    (hservice : t.svcWord k = s.svcWord k) (htask : t.taskWord k = s.taskWord k) : t.cword k = s.cword k := by
  unfold State.cword
  rw [hsvc, hcommon, hservice, htask]

/-- A word stands as it was where the acting thread's identity and its own value for it do. -/
theorem State.cword_setThr {th : Thread} (hsvc : th.svc = s.me.svc) (hintrap : th.intrap = s.me.intrap)
    (hhelper : th.helper = s.me.helper) (htask : th.task = s.me.task) (hk : th.ownWord k = s.me.ownWord k) :
    (s.setThr s.curKey th).cword k = s.cword k := by
  have hme : (s.setThr s.curKey th).me = th := s.setThr_me th
  have hstatus : th.status s.cur.t = s.me.status s.cur.t := by
    rw [Thread.status, Thread.status, hsvc, hintrap, hhelper]
  have hmyTask : (s.setThr s.curKey th).myTask = s.myTask := by
    rw [State.myTask, hme, htask]; rfl
  refine State.cword_congr (by rw [hme, hsvc]) ?_ ?_ ?_
  · unfold State.commonWord
    rw [hme]
    split
    exacts [congrArg (fun n => some (word n)) hstatus, hk, hk, hk, hk, rfl, rfl]
  · unfold State.svcWord
    rw [hme]
    dsimp only
    split
    exacts [rfl, hk, rfl, rfl, rfl, rfl, rfl, rfl, rfl, hk, rfl, rfl, rfl]
  · unfold State.taskWord State.taskCore
    rw [hme, hmyTask]
    dsimp only
    split
    exacts [rfl, rfl, hk, hk, hk, hk, rfl, rfl, congrArg (fun n => some (word n)) htask, rfl, rfl, rfl, rfl, rfl, rfl]

theorem State.setTask_myTask (x : Task) : (s.setTask s.me.task x).myTask = x := State.setTask_taskOf_same _ _ _

theorem State.cword_setTask {x : Task} (hlid : x.lid = s.myTask.lid) (hrole : x.role = s.myTask.role)
    (hcore : x.core = s.myTask.core) (hk : x.ownWord k = s.myTask.ownWord k) : (s.setTask s.me.task x).cword k = s.cword k := by
  refine State.cword_congr rfl rfl rfl ?_
  unfold State.taskWord State.taskCore
  rw [State.setTask_myTask]
  dsimp only
  rw [hlid, hrole, hcore]
  split
  case h_15 h4 h5 _ _ _ _ hB _ _ _ _ _ _ _ =>
    refine if_congr Iff.rfl rfl (if_congr Iff.rfl rfl (ite_congr rfl (fun hq => ?_) fun _ => rfl))
    rw [Task.ownWord_queue _ h4 h5 hB, Task.ownWord_queue _ h4 h5 hB, if_pos hq, if_pos hq] at hk
    rw [Option.some_inj.mp hk]
    rfl
  exacts [hk, hk, rfl, rfl, rfl, rfl, hk, rfl, rfl, rfl, rfl, rfl, rfl, rfl]

theorem State.cword_withSup {p : Sup} (hk : p.ownWord k = s.sup.ownWord k) : State.cword { s with sup := p } k = s.cword k := by
  refine State.cword_congr rfl rfl ?_ rfl
  unfold State.svcWord
  dsimp only
  split
  exacts [hk, rfl, hk, hk, hk, hk, hk, hk, hk, rfl, hk, hk, rfl]

theorem State.cword_misscnt {v : Word} (hk : k ≠ 0x51) :
    (s.modCore s.myTask.core (fun c => { c with matrix := { c.matrix with misscnt := v } })).cword k = s.cword k := by
  have hcore : (s.modCore s.myTask.core (fun c => { c with matrix := { c.matrix with misscnt := v } })).core s.myTask.core =
      { s.taskCore with matrix := { s.taskCore.matrix with misscnt := v } } := State.setCore_core_same _ _ _
  refine State.cword_congr rfl rfl rfl ?_
  unfold State.taskWord State.taskCore State.mstatSeen State.queueSeen
  dsimp only
  rw [show (s.modCore s.myTask.core (fun c => { c with matrix := { c.matrix with misscnt := v } })).myTask = s.myTask from rfl, hcore]
  split
  case h_12 => exact absurd rfl hk
  all_goals rfl

end

/-- What a write of word `n` can make of the state: one word of the thread, of its task or of the package changes, or the array's count. -/
inductive State.WordWrite (s : State) (n : Nat) : State → Prop
  | thread (th : Thread) (same : th.SameButWords s.me) (others : ∀ k, k ≠ n → th.ownWord k = s.me.ownWord k) :
      WordWrite s n (s.setThr s.curKey th)
  | task (x : Task) (same : x.SameButWords s.myTask) (others : ∀ k, k ≠ n → x.ownWord k = s.myTask.ownWord k) :
      WordWrite s n (s.setTask s.me.task x)
  | package (p : Sup) (others : ∀ k, k ≠ n → p.ownWord k = s.sup.ownWord k) : WordWrite s n { s with sup := p }
  | misscnt (v : Word) (hn : n = 0x51) :
      WordWrite s n (s.modCore s.myTask.core (fun c => { c with matrix := { c.matrix with misscnt := v } }))

theorem State.modMyTask_eq (s : State) (f : Task → Task) : s.modMyTask f = s.setTask s.me.task (f s.myTask) := rfl

section
variable {s t : State} {n k : Nat} {v : Word}

theorem Task.ownWord_putQempty (x : Task) (hn : n / 16 = 4) (hk : k ≠ n) :
    Task.ownWord { x with qempty := Tab.put x.qempty (n % 16) v } k = x.ownWord k := by
  unfold Task.ownWord
  split
  case h_4 =>
    refine ite_congr rfl (fun hq => ?_) fun _ => rfl
    rw [Tab.get_put_other _ _ _ _ _ (by omega)]
  all_goals rfl

theorem State.wordWrite_of_writeSvc (h : s.writeSvc n v = some t) (hn : n ≠ 0x817) : s.WordWrite n t := by
  unfold State.writeSvc at h
  simp only [State.modMe_eq] at h
  split at h
  case h_9 => exact absurd rfl hn
  case h_11 => cases h
  case h_2 | h_8 => cases h; exact .thread _ rfl fun k hk => by unfold Thread.ownWord; split <;> simp_all
  all_goals cases h; exact .package _ fun k hk => by unfold Sup.ownWord; split <;> simp_all

theorem State.wordWrite_of_writeTask (h : s.writeTask n v = some t) : s.WordWrite n t := by
  unfold State.writeTask at h
  simp only [State.modMe_eq, State.modMyTask_eq] at h
  split at h
  case h_1 | h_2 | h_7 => cases h; exact .task _ rfl fun k hk => by unfold Task.ownWord; split <;> simp_all
  case h_8 => cases h; exact .misscnt v rfl
  case h_9 =>
    split at h
    case isTrue hq => cases h; exact .task _ rfl fun k hk => Task.ownWord_putQempty _ hq.1 hk
    case isFalse => cases h
  all_goals cases h; exact .thread _ rfl fun k hk => by unfold Thread.ownWord; split <;> simp_all

theorem State.wordWrite_of_writeCword (h : s.writeCword n v = some t) (hn : n ≠ 0x817) : s.WordWrite n t := by
  unfold State.writeCword at h
  simp only [State.modMe_eq] at h
  split at h
  case h_5 =>
    split at h
    · exact State.wordWrite_of_writeSvc h hn
    · exact State.wordWrite_of_writeTask h
  all_goals cases h; exact .thread _ rfl fun k hk => by unfold Thread.ownWord; split <;> simp_all

namespace State.WordWrite

/-- Every other word of the thread stays (R118). -/
theorem cword_other (h : s.WordWrite n t) (hk : k ≠ n) : t.cword k = s.cword k := by
  cases h with
  | thread th same others =>
    rw [Thread.SameButWords] at same
    exact State.cword_setThr (by rw [same]) (by rw [same]) (by rw [same]) (by rw [same]) (others k hk)
  | task x same others =>
    rw [Task.SameButWords] at same
    exact State.cword_setTask (by rw [same]) (by rw [same]) (by rw [same]) (others k hk)
  | package p others => exact State.cword_withSup (others k hk)
  | misscnt v hn => exact State.cword_misscnt (hn ▸ hk)

theorem me (h : s.WordWrite n t) : t.me.SameButWords s.me := by
  cases h with
  | thread th same _ => rw [State.setThr_me]; exact same
  | task | package | misscnt => rfl

theorem mem (h : s.WordWrite n t) : t.mem = s.mem := by cases h <;> rfl

end State.WordWrite

/-! ## A written word holds good data again (13 R429) -/

/-- The thread without a struck word. -/
def Thread.mended (th : Thread) (n : Nat) : Thread := { th with badWords := th.badWords.filter (· != n) }

/-- The task without a struck word. -/
def Task.mended (x : Task) (n : Nat) : Task := { x with badWords := x.badWords.filter (· != n) }

theorem State.mend_cases (s : State) (n : Nat) : ∃ u, u = s.setThr s.curKey (s.me.mended n) ∧
    (s.mend n = u ∨ s.mend n = u.setTask u.me.task (u.myTask.mended n)) := by
  refine ⟨_, rfl, ?_⟩
  unfold State.mend
  dsimp only
  split
  · exact .inl rfl
  · exact .inr rfl

theorem State.mend_me (s : State) (n : Nat) : (s.mend n).me = s.me.mended n := by
  obtain ⟨u, rfl, h | h⟩ := s.mend_cases n <;> rw [h] <;> exact State.setThr_me ..

theorem State.mend_mem (s : State) (n : Nat) : (s.mend n).mem = s.mem := by
  obtain ⟨u, rfl, h | h⟩ := s.mend_cases n <;> rw [h] <;> rfl

theorem State.mend_cword (s : State) (n k : Nat) : (s.mend n).cword k = s.cword k := by
  obtain ⟨u, hu, h⟩ := s.mend_cases n
  have hthr : u.cword k = s.cword k := by
    rw [hu]
    exact State.cword_setThr rfl rfl rfl rfl rfl
  rcases h with h | h
  · rw [h, hthr]
  · rw [h]
    exact (State.cword_setTask (x := u.myTask.mended n) rfl rfl rfl rfl).trans hthr

theorem State.next_cword (s : State) (k : Nat) : s.next.cword k = s.cword k := State.cword_setThr rfl rfl rfl rfl rfl

end

/-- What a `setcw` that passes leaves (R118). -/
def SetsWord (s : State) (a : Reg) (n : Nat) (w : Word) : Prop :=
  ∃ t, exec (.setcw (BitVec.ofNat 12 n) a) s = .next t ∧ t.cword n = some w ∧ (∀ k, k ≠ n → t.cword k = s.cword k) ∧
    t.me.pc = s.me.pc + 8 ∧ t.me.regs = s.me.regs ∧ t.mem = s.mem ∧ t.me.held = none

section
variable {s t : State} {a : Reg} {n : Nat} {w : Word}

theorem setsWord_of_writeCword (hread : s.readable [a]) (hn : n < 2 ^ 12) (hname : n < 0x800 ∨ s.me.svc = true) (hfw : n ≠ 0x817)
    (hwrite : s.next.writeCword n (s.rx a) = some t) (hvalue : t.cword n = some w) : SetsWord s a n w := by
  have hk : (BitVec.ofNat 12 n).toNat = n := Nat.mod_eq_of_lt hn
  have hexec : exec (.setcw (BitVec.ofNat 12 n) a) s = .next (t.mend n) := by
    refine congrArg _ ((State.naming_of (by rwa [hk]) _).trans ?_)
    rw [hk, hwrite]
    exact State.reading_of_readable hread _
  have hwritten := State.wordWrite_of_writeCword hwrite hfw
  have hme := hwritten.me
  rw [Thread.SameButWords, State.next_me] at hme
  refine ⟨_, hexec, (t.mend_cword n n).trans hvalue, fun k hk => ?_, ?_, ?_, ?_, ?_⟩
  · exact (t.mend_cword n k).trans ((hwritten.cword_other hk).trans (s.next_cword k))
  · rw [State.mend_me, Thread.mended, hme]
  · rw [State.mend_me, Thread.mended, hme]
  · exact (t.mend_mem n).trans hwritten.mem
  · rw [State.mend_me, Thread.mended, hme]

end

/-! ## The words written field by field -/

theorem State.modMe_me (s : State) (f : Thread → Thread) : (s.modMe f).me = f s.me := State.setThr_me _ _

theorem State.modMyTask_myTask (s : State) (f : Task → Task) : (s.modMyTask f).myTask = f s.myTask := State.setTask_myTask _

theorem State.modMe_word (g : Thread → Word) (s : State) {f : Thread → Thread} {w : Word} (h : g (f s.me) = w) :
    some (g (s.modMe f).me) = some w := by rw [State.modMe_me, h]

theorem State.modMyTask_word (g : Task → Word) (s : State) {f : Task → Task} {w : Word} (h : g (f s.myTask) = w) :
    some (g (s.modMyTask f).myTask) = some w := by rw [State.modMyTask_myTask, h]

theorem State.next_myTask (s : State) : s.next.myTask = s.myTask := by
  rw [State.myTask, State.next_me]; rfl

theorem word_bits_mul (v : Word) (hi lo : Nat) :
    word (bits v hi lo * 2 ^ lo) = word (v.toNat / 2 ^ lo % 2 ^ (hi + 1 - lo) * 2 ^ lo) := by rw [bits_eq_div_mod]

theorem word_bits_low (v : Word) (hi : Nat) :
    word (bits v hi 0) = word (v.toNat / 2 ^ 0 % 2 ^ (hi + 1 - 0) * 2 ^ 0) := by rw [← word_bits_mul, pow_zero, mul_one]

/-- A word of two fields, the lower one at bit 0. -/
theorem word_two_fields (v : Word) (hi lo top : Nat) : word (bits v hi lo * 2 ^ lo + bits v top 0) =
    word (v.toNat / 2 ^ lo % 2 ^ (hi + 1 - lo) * 2 ^ lo) + word (v.toNat / 2 ^ 0 % 2 ^ (top + 1 - 0) * 2 ^ 0) := by
  rw [word_add, word_bits_mul, word_bits_low]

theorem ite_bit_eq (v : Word) (n : Nat) : (if bit v n then 2 ^ n else 0) = bits v n n * 2 ^ n := by
  rw [bit, bits_eq_div_mod, Nat.add_sub_cancel_left, pow_one, Nat.testBit_eq_decide_div_mod_eq]
  rcases Nat.mod_two_eq_zero_or_one (v.toNat / 2 ^ n) with h | h <;> simp [h]

section
variable {s t : State} {a : Reg} {n : Nat} {w : Word}

theorem State.WordWrite.svc (h : s.next.WordWrite n t) : t.me.svc = s.me.svc := by
  have hme := h.me
  rw [Thread.SameButWords, State.next_me] at hme
  rw [hme]

theorem setsWord_common (hread : s.readable [a]) (hn : n < 0x800) (hwrite : s.next.writeCword n (s.rx a) = some t)
    (hvalue : t.commonWord n = some w) : SetsWord s a n w :=
  setsWord_of_writeCword hread (by omega) (.inl hn) (by omega) hwrite (State.cword_of_common hvalue)

theorem setsWord_task (hread : s.readable [a]) (hsvc : s.me.svc = false) (hn : 4 ≤ n ∧ n < 0x800 ∧ n ≠ 6 ∧ n ≠ 0x13)
    (hwrite : s.next.writeTask n (s.rx a) = some t) (hvalue : t.taskWord n = some w) : SetsWord s a n w := by
  have hcword := (State.writeCword_task (s.next_svc.trans hsvc) (by omega)).trans hwrite
  have hwritten := State.wordWrite_of_writeCword hcword (by omega)
  exact setsWord_of_writeCword hread (by omega) (.inl (by omega)) (by omega) hcword
    ((State.cword_task (hwritten.svc.trans hsvc) (t.commonWord_none (by omega))).trans hvalue)

theorem setsWord_service (hread : s.readable [a]) (hsvc : s.me.svc = true) (hn : 0x800 ≤ n ∧ n ≤ 0x818 ∧ n ≠ 0x817)
    (hwrite : s.next.writeSvc n (s.rx a) = some t) (hvalue : t.svcWord n = some w) : SetsWord s a n w := by
  have hcword := (State.writeCword_service (s.next_svc.trans hsvc) (by omega)).trans hwrite
  have hwritten := State.wordWrite_of_writeCword hcword (by omega)
  exact setsWord_of_writeCword hread (by omega) (.inr hsvc) (by omega) hcword
    ((State.cword_service (hwritten.svc.trans hsvc) (t.commonWord_none (by omega))).trans hvalue)

theorem setsWord_qempty {q : Nat} (hread : s.readable [a]) (hsvc : s.me.svc = false) (hhome : s.me.helper = false) (hq : q < 16)
    (hdecl : (s.taskCore.queue q).decl = true) : SetsWord s a (0x40 + q) (s.rx a) := by
  have hmod : (0x40 + q) % 16 = q := by omega
  have hcore : (s.next.core s.next.myTask.core).queue q = s.taskCore.queue q := by rw [State.next_myTask]; rfl
  have hwrite : s.next.writeTask (0x40 + q) (s.rx a) =
      some (s.next.modMyTask (fun x => { x with qempty := Tab.put x.qempty q (s.rx a) })) := by
    rw [State.writeTask_queue _ _ (by omega), hmod, hcore, State.next_me]
    exact if_pos ⟨by omega, by simp [hhome], hdecl⟩
  refine setsWord_task hread hsvc (by omega) hwrite ?_
  rw [State.taskWord_queue _ (by omega), hmod, State.taskCore, State.modMyTask_myTask]
  refine (if_neg (by omega)).trans ((if_neg (by omega)).trans ((if_pos (by omega)).trans (congrArg some ?_)))
  rw [Tab.get_put_same]
  exact if_pos (hcore ▸ hdecl)

theorem setsWord_common_list (hread : s.readable [a]) :
    let v := s.rx a
    let field (hi lo : Nat) : Word := word (v.toNat / 2 ^ lo % 2 ^ (hi + 1 - lo) * 2 ^ lo)
    ∀ e ∈ [(1, v), (2, field 15 12 + field 7 0), (3, v), (6, field 1 0)], SetsWord s a e.1 e.2 := by
  intro v field
  simp only [List.forall_mem_cons, List.not_mem_nil, false_imp_iff, implies_true, and_true]
  exact ⟨setsWord_common hread (by omega) rfl (State.modMe_word (·.epc) _ rfl),
    setsWord_common hread (by omega) rfl (State.modMe_word (·.tcause) _ (word_two_fields v 15 12 7)),
    setsWord_common hread (by omega) rfl (State.modMe_word (·.tval) _ rfl),
    setsWord_common hread (by omega) rfl (State.modMe_word (·.prio) _ (word_bits_low v 1))⟩

theorem setsWord_task_list (hread : s.readable [a]) (hsvc : s.me.svc = false) :
    let v := s.rx a
    let field (hi lo : Nat) : Word := word (v.toNat / 2 ^ lo % 2 ^ (hi + 1 - lo) * 2 ^ lo)
    ∀ e ∈ [(4, field 63 3), (5, field 63 16 + field 2 0), (7, field 4 0), (8, v), (9, v), (0xA, v),
        (0xB, word (s.myTask.tflags &&& ~~~(BitVec.ofNat 6 v.toNat)).toNat), (0x51, v)], SetsWord s a e.1 e.2 := by
  intro v field
  simp only [List.forall_mem_cons, List.not_mem_nil, false_imp_iff, implies_true, and_true]
  refine ⟨setsWord_task hread hsvc (by omega) rfl (State.modMyTask_word (·.trapvec) _ (word_bits_mul v 63 3)),
    setsWord_task hread hsvc (by omega) rfl (State.modMyTask_word (·.trapen) _ (word_two_fields v 63 16 2)),
    setsWord_task hread hsvc (by omega) rfl (State.modMe_word (·.watchq) _ (word_bits_low v 4)),
    setsWord_task hread hsvc (by omega) rfl (State.modMe_word (·.lodcnt) _ rfl),
    setsWord_task hread hsvc (by omega) rfl (State.modMe_word (·.lodcyc) _ rfl),
    setsWord_task hread hsvc (by omega) rfl (State.modMe_word (·.qfullcnt) _ rfl),
    setsWord_task hread hsvc (by omega) rfl (State.modMyTask_word (fun x => zext64 x.tflags) _ ?_),
    setsWord_task hread hsvc (by omega) rfl (congrArg (fun c : Core => some c.matrix.misscnt) (State.setCore_core_same _ _ _))⟩
  rw [zext64_eq_word, State.next_myTask]
  rfl

theorem setsWord_service_list (hread : s.readable [a]) (hsvc : s.me.svc = true) :
    let v := s.rx a
    let field (hi lo : Nat) : Word := word (v.toNat / 2 ^ lo % 2 ^ (hi + 1 - lo) * 2 ^ lo)
    ∀ e ∈ [(0x800, field 43 22), (0x801, field 63 63 + field 15 0), (0x802, field 43 22), (0x810, field 43 12 + field 4 0),
        (0x811, field 31 0), (0x813, field 43 12 + field 4 0), (0x814, field 31 0), (0x816, field 63 3), (0x818, field 43 4)],
      SetsWord s a e.1 e.2 := by
  intro v field
  have hsctx : word ((if bit v 63 then 2 ^ 63 else 0) + bits v 15 0) = field 63 63 + field 15 0 := by
    rw [ite_bit_eq]; exact word_two_fields v 63 63 15
  simp only [List.forall_mem_cons, List.not_mem_nil, false_imp_iff, implies_true, and_true]
  exact ⟨setsWord_service hread hsvc (by omega) rfl (congrArg some (word_bits_mul v 43 22)),
    setsWord_service hread hsvc (by omega) rfl
      (State.modMe_word (fun th => word ((if th.phys then 2 ^ 63 else 0) + th.sctxJob)) _ hsctx),
    setsWord_service hread hsvc (by omega) rfl (congrArg some (word_bits_mul v 43 22)),
    setsWord_service hread hsvc (by omega) rfl (congrArg some (word_two_fields v 43 12 4)),
    setsWord_service hread hsvc (by omega) rfl (congrArg some (word_bits_low v 31)),
    setsWord_service hread hsvc (by omega) rfl (congrArg some (word_two_fields v 43 12 4)),
    setsWord_service hread hsvc (by omega) rfl (congrArg some (word_bits_low v 31)),
    setsWord_service hread hsvc (by omega) rfl (State.modMe_word (·.svec) _ (word_bits_mul v 63 3)),
    setsWord_service hread hsvc (by omega) rfl (congrArg some (word_bits_mul v 43 4))⟩

end

/-- Settles O46: reads by the word each number names, writes by what `writeCword` changes, and the traps by the words there are not. -/
theorem controlWords : Obligations.ControlWords := by
  unfold Obligations.ControlWords
  refine ⟨fun s d a n => ?_, fun s d hstruck => ?_, fun s a hread => ?_, fun s d => ?_⟩
  · intro k bothTrap
    refine ⟨fun hsvc hk => ⟨?_, ?_⟩, fun hsvc hk => cword_traps_service hsvc (by omega), fun hsvc hk => ?_, fun hk => ?_, fun hk => ?_,
      fun hsvc hlo hhi h => setcw_traps_qempty hsvc hlo hhi h⟩
    · exact congrArg _ (State.naming_traps hsvc hk _)
    · exact congrArg _ (State.naming_traps hsvc hk _)
    · simp only [List.mem_cons, List.not_mem_nil, or_false] at hk
      exact cword_traps_service hsvc (by omega)
    · cases hsvc : s.me.svc with
      | true => exact cword_traps_service hsvc (by omega)
      | false => exact ⟨getcw_traps_task hsvc (by omega), setcw_traps_task hsvc (by omega)⟩
    · simp only [List.mem_cons, List.not_mem_nil, or_false] at hk
      cases hsvc : s.me.svc with
      | true =>
        simp only [hsvc, reduceCtorEq, true_and, false_and, or_false] at hk
        exact setcw_traps_service hsvc (by omega)
      | false =>
        simp only [hsvc, reduceCtorEq, true_and, false_and, false_or] at hk
        exact setcw_traps_task hsvc (by omega)
  · intro reads x c one
    refine ⟨getcw_common_list hstruck, fun hsvc => ⟨getcw_task_list hstruck hsvc, fun q hq => ?_, fun hnow => ?_, fun p hp hcyc => ?_⟩,
      getcw_service_list hstruck⟩
    · exact List.forall_mem_cons.mpr ⟨getcw_gives hstruck (by omega) (.inl (by omega)) (State.cword_capacity hsvc hq),
        getcw_one hstruck (by omega) (State.cword_qempty hsvc hq)⟩
    · refine ⟨State.mstatSeen_now hnow ▸ getcw_mstat hstruck hsvc, fun q hq => ?_⟩
      rw [← Queue.status_occ, ← State.queueSeen_now hnow]
      exact getcw_occupancy hstruck hsvc hq
    · refine ⟨State.mstatSeen_prior hp hcyc ▸ getcw_mstat hstruck hsvc, fun q hq v hv => ?_⟩
      have hseen : bits (s.queueSeen x.core q) 6 0 = v.toNat % 128 := by
        rw [State.queueSeen_prior hp hcyc, hv, bits_eq_div_mod, pow_zero, Nat.div_one]; rfl
      rw [← hseen]
      exact getcw_occupancy hstruck hsvc hq
  · exact ⟨setsWord_common_list hread, fun hsvc => ⟨setsWord_task_list hread hsvc, fun q hq hhome hdecl =>
      List.forall_mem_singleton.mpr (setsWord_qempty hread hsvc hhome hq hdecl)⟩, setsWord_service_list hread⟩
  · refine ⟨fun h => gives_of_result (congrArg _ (if_neg (by simp [h]))), fun h => congrArg _ (if_pos h),
      congrArg _ (State.setThr_next _ _), fun hopen hdue => congrArg _ (if_pos ⟨hopen, hdue⟩), fun h => congrArg _ (if_neg (by omega)),
      fun h => congrArg _ (if_pos h), fun h => congrArg _ (if_neg (by omega))⟩

end Sys2Proof.Machine
end

section
/-! PROOF. The package right after reset (17 R468). -/

namespace Sys2Proof.Machine

/-- The acting thread of a service core as it starts, in the package right after reset. -/
def serviceAtReset (pc : Word) : State :=
  { State.reset with cur := { m := 0x1000 } }.setThr (thrKey 0x1000 0) { life := .running, svc := true, pc }

theorem serviceAtReset_struck (pc : Word) (n : Nat) : (serviceAtReset pc).struck n = false := by rfl

theorem getcw_serviceAtReset (pc : Word) (d : Reg) {n : BitVec 12} {v : Word} (h : (serviceAtReset pc).cword n.toNat = some v) :
    Gives (.getcw d n) (serviceAtReset pc) d v := by
  have hgives := getcw_gives (d := d) (serviceAtReset_struck pc) n.isLt (.inr rfl) h
  rwa [BitVec.ofNat_toNat, BitVec.setWidth_eq] at hgives

/-- The supervisor words but SCTX (13 R410, 12 R371). -/
theorem cword_serviceAtReset_zero (pc : Word) : ∀ n ∈ ([0x800, 0x802, 0x810, 0x811, 0x812, 0x813, 0x814, 0x815, 0x816, 0x817, 0x818] :
    List (BitVec 12)), (serviceAtReset pc).cword n.toNat = some 0 := by
  have shifted (k : Nat) : some (word (0 * 2 ^ k)) = some 0 := by rw [Nat.zero_mul]; rfl
  have fwctl : some (word (0 * 2 ^ 60 + 0 * 2 ^ 12)) = some 0 := by rw [Nat.zero_mul, Nat.zero_mul]; rfl
  simp only [List.forall_mem_cons, List.not_mem_nil, false_imp_iff, implies_true, and_true]
  exact ⟨shifted 22, shifted 22, rfl, rfl, rfl, rfl, rfl, rfl, rfl, fwctl, shifted 4⟩

/-- Of the entries of a target after reset, entry 0 alone is valid (12 R387). -/
theorem accAllows_reset (target master : Nat) {unit : Nat} (rd wr : Bool) (h : unit < 2 ^ 32) :
    accAllows State.reset target master unit rd wr = true ↔ 0x1000 ≤ master ∧ master ≤ 0x101F := by
  have entry (i : Nat) : State.reset.accBefore target i = accReset i := rfl
  unfold accAllows
  simp only [List.any_eq_true, List.mem_range, entry]
  constructor
  · rintro ⟨i, -, hi⟩
    by_cases h0 : i = 0
    · simpa [accReset, h0, and_assoc, and_comm, show unit ≤ 0xFFFFFFFF by omega] using hi
    · simp [accReset, h0] at hi
  · rintro ⟨hlo, hhi⟩
    exact ⟨0, by norm_num, by simp [accReset, hlo, hhi, show unit ≤ 0xFFFFFFFF by omega]⟩

/-- PKGSTAT, POWER, ECCCNT and the temperature registers (17 R471). -/
theorem hubDword_reset_zero :
    ∀ off ∈ [0, 0x10, 0x300] ++ (List.range 9).map (fun n => 0x200 + 8 * n), State.reset.hubDword off = 0 := by
  intro off hoff
  rcases List.mem_append.mp hoff with h | h
  · simp only [List.mem_cons, List.not_mem_nil, or_false] at h
    rcases h with rfl | rfl | rfl
    · rw [State.hubDword_status]; rfl
    · rw [State.hubDword_power]; rfl
    · rw [State.hubDword_errors]; rfl
  · obtain ⟨n, hn, rfl⟩ := List.mem_map.mp h
    rw [State.hubDword_temp _ (List.mem_range.mp hn)]; rfl

/-- Settles O60: the words by what `getcw` finds on a service thread, the registers by their layout, the tables by their default. -/
theorem resetState : Obligations.ResetState := by
  unfold Obligations.ResetState
  refine ⟨⟨rfl, List.Pairwise.nil⟩, rfl, rfl, rfl, rfl, rfl, rfl, rfl, rfl, rfl, fun pc d => ⟨getcw_serviceAtReset pc d rfl, ?_⟩,
    State.hubDword_pwrcap _, hubDword_reset_zero, fun target i => rfl, fun target master unit rd wr => accAllows_reset target master rd wr⟩
  exact fun n hn => getcw_serviceAtReset pc d (cword_serviceAtReset_zero pc n hn)

end Sys2Proof.Machine
end

section
/-! PROOF. Row controls and what a row meets at the end of its bundle (05 R138, R141, R146, R164 to R167). -/

namespace Sys2Proof.Machine

/-! ## The acting row -/

@[simp] theorem Core.setRow_row_same (c : Core) (r : Nat) (x : Row) : (c.setRow r x).row r = x := Tab.get_put_same _ _ _ _
theorem Core.setRow_row_other {k r : Nat} (h : k ≠ r) (c : Core) (x : Row) : (c.setRow r x).row k = c.row k :=
  Tab.get_put_other _ _ _ _ _ (Ne.symm h)
@[simp] theorem Core.setRow_setRow (c : Core) (r : Nat) (x y : Row) : (c.setRow r x).setRow r y = c.setRow r y := by simp [Core.setRow]

/-- `s` with the acting row as `y`. -/
def State.withRow (s : State) (y : Row) : State := s.setCore s.cur.m (s.myCore.setRow s.cur.row y)

theorem State.modMyRow_eq (s : State) (f : Row → Row) : s.modMyRow f = s.withRow (f s.myRow) := rfl
@[simp] theorem State.withRow_myCore (s : State) (y : Row) : (s.withRow y).myCore = s.myCore.setRow s.cur.row y :=
  State.setCore_core_same _ _ _
@[simp] theorem State.withRow_myRow (s : State) (y : Row) : (s.withRow y).myRow = y := by
  rw [State.myRow, State.withRow_myCore]
  exact Core.setRow_row_same _ _ _
@[simp] theorem State.withRow_withRow (s : State) (y z : Row) : (s.withRow y).withRow z = s.withRow z := by
  rw [State.withRow, State.withRow_myCore]
  exact (State.setCore_setCore _ _ _ _).trans (congrArg _ (Core.setRow_setRow _ _ _ _))

/-- The acting row as it begins bundle `pc` with the loop registers `loops` (R141, R164). -/
def State.rowAt (s : State) (loops : Tab Word32) (pc : Nat) : Row :=
  { s.myRow with
    loops, pc, issue := 0, tkfin := 0, counted := [], handed := false, taken := false, done := false, bqv := none
    run := if isEnd (s.myCore.bundle s.cur.row pc) then .atEnd else .running }

theorem State.jumpRow_eq (s : State) (pc : Nat) : s.jumpRow pc = s.withRow (s.rowAt s.myRow.loops pc) := rfl

theorem State.jumpRow_setLoop (s : State) (pc : Nat) (l : BitVec 2) (v : Word32) :
    (s.jumpRow pc).setLoop l v = s.withRow (s.rowAt (Tab.put s.myRow.loops l.toNat v) pc) := by
  rw [State.setLoop, State.modMyRow_eq, State.jumpRow_eq, State.withRow_withRow, State.withRow_myRow]
  rfl

theorem State.setLoop_jumpRow (s : State) (l : BitVec 2) (v : Word32) (pc : Nat) :
    (s.setLoop l v).jumpRow pc = s.withRow (s.rowAt (Tab.put s.myRow.loops l.toNat v) pc) := by
  rw [State.setLoop, State.modMyRow_eq, State.jumpRow_eq, State.withRow_withRow, State.rowAt, State.withRow_myRow, State.withRow_myCore]
  rfl

theorem State.nextBundle_of_ne {s : State} (h : s.myRow.pc ≠ 511) (k : State → State) :
    s.nextBundle k = k (s.jumpRow (s.myRow.pc + 1)) := if_neg h

/-- Bundle 511 has no successor (R138, R167). -/
theorem State.nextBundle_last {s : State} (h : s.myRow.pc = 511) (hfault : s.myCore.xfault = none) (k : State → State) :
    s.nextBundle k = s.setCore s.cur.m { s.myCore with xfault := some ⟨s.cur.row, 0x13, 4, 511⟩ } := by
  refine (if_pos h).trans ?_
  rw [State.modMyCore_eq, Core.fault, hfault]

/-! ## Moves of a row -/

/-- The row control leaves the acting row as `y`, and every other row, queue and PE as it was. -/
def RowMoves (i : Instr) (s : State) (y : Row) : Prop :=
  ∃ t, exec i s = .next t ∧ t.myRow = y ∧ (∀ k, k ≠ s.cur.row → t.myCore.row k = s.myCore.row k) ∧ t.mem = s.mem ∧
    t.threads = s.threads ∧ t.myCore.pes = s.myCore.pes ∧ t.myCore.queues = s.myCore.queues

/-- The row control goes on with `loops`, or raises XILLOP at bundle 511. -/
def RowAdvances (i : Instr) (s : State) (loops : Tab Word32) : Prop :=
  (s.myRow.pc ≠ 511 → RowMoves i s (s.rowAt loops (s.myRow.pc + 1))) ∧
  (s.myRow.pc = 511 → s.myCore.xfault = none →
    ∃ t, exec i s = .next t ∧ t.myRow = s.myRow ∧ t.myCore.xfault = some ⟨s.cur.row, 0x13, 4, 511⟩ ∧ t.mem = s.mem)

theorem rowMoves_of_withRow {i : Instr} {s : State} {y : Row} (h : exec i s = .next (s.withRow y)) : RowMoves i s y := by
  refine ⟨_, h, State.withRow_myRow s y, fun k hk => ?_, rfl, rfl, ?_, ?_⟩ <;> rw [State.withRow_myCore]
  · exact Core.setRow_row_other hk _ _
  · rfl
  · rfl

theorem rowAdvances_of_nextBundle {i : Instr} {s : State} {loops : Tab Word32} {k : State → State}
    (h : exec i s = .next (s.nextBundle k))
    (hk : k (s.jumpRow (s.myRow.pc + 1)) = s.withRow (s.rowAt loops (s.myRow.pc + 1))) : RowAdvances i s loops := by
  constructor
  · intro hpc
    exact rowMoves_of_withRow (h.trans (congrArg _ ((State.nextBundle_of_ne hpc k).trans hk)))
  · intro hpc hfault
    refine ⟨_, h.trans (congrArg _ (State.nextBundle_last hpc hfault k)), ?_, ?_, rfl⟩
    · rw [State.myRow, State.myCore, State.setCore_cur, State.setCore_core_same]
      rfl
    · rw [State.myCore, State.setCore_cur, State.setCore_core_same]

section
variable (s : State) (l : BitVec 2) (target : BitVec 9)

theorem exec_jmp_moves : RowMoves (.jmp target) s (s.rowAt s.myRow.loops target.toNat) := rowMoves_of_withRow rfl

theorem exec_loopRow_advances (count : Word32) : RowAdvances (.loopRow l count) s (Tab.put s.myRow.loops l.toNat count) :=
  rowAdvances_of_nextBundle rfl (s.jumpRow_setLoop _ l count)

theorem exec_endloop_back (h : 1 < (s.loopReg l).toNat) :
    RowMoves (.endloop l target) s (s.rowAt (Tab.put s.myRow.loops l.toNat (s.loopReg l - 1)) target.toNat) :=
  rowMoves_of_withRow (congrArg _ ((if_pos h).trans (s.setLoop_jumpRow l _ _)))

theorem exec_endloop_on (h : (s.loopReg l).toNat ≤ 1) : RowAdvances (.endloop l target) s (Tab.put s.myRow.loops l.toNat 0) :=
  rowAdvances_of_nextBundle (congrArg _ (if_neg (Nat.not_lt.mpr h))) (s.jumpRow_setLoop _ l 0)

end

/-! ## A branch on a queue's head (R165) -/

section
variable {s : State} {q : BitVec 4} {e : QEntry} (kind : BitVec 4) (target : BitVec 9)

theorem exec_brTok_head (h : (s.myCore.queue q.toNat).head s.cyc = some e) :
    exec (.brTok q kind target) s = .next (if e.tok.kind = kind then s.jumpRow target.toNat else s.nextBundle id) := by
  show execBrTok q kind target s = _
  rw [execBrTok, h]

theorem exec_brTok_empty (h : (s.myCore.queue q.toNat).head s.cyc = none) :
    exec (.brTok q kind target) s = .next (waitEmpty s s.cur.m s.cur.row q.toNat 4) := by
  show execBrTok q kind target s = _
  rw [execBrTok, h]

variable {kind}

theorem exec_brTok_taken (h : (s.myCore.queue q.toNat).head s.cyc = some e) (hkind : e.tok.kind = kind) :
    RowMoves (.brTok q kind target) s (s.rowAt s.myRow.loops target.toNat) :=
  rowMoves_of_withRow ((exec_brTok_head kind target h).trans (congrArg _ (if_pos hkind)))

theorem exec_brTok_on (h : (s.myCore.queue q.toNat).head s.cyc = some e) (hkind : e.tok.kind ≠ kind) :
    RowAdvances (.brTok q kind target) s s.myRow.loops :=
  rowAdvances_of_nextBundle ((exec_brTok_head kind target h).trans (congrArg _ (if_neg hkind))) rfl

end

/-! ## A wait for a queue (R146) -/

/-- A task with one more QEMPTY event on `q`, which enters QEMPTYCNT at the end of the cycle (04 R122). -/
def Task.countEmpty (x : Task) (q : Nat) : Task := { x with qemptyAdd := Tab.put x.qemptyAdd q (Tab.get 0 x.qemptyAdd q + 1) }

/-- Beside its count, a QEMPTY event reaches the anchor's thread alone. -/
theorem qemptyEvent_cases (s : State) (core q r slot : Nat) : ∃ threads, qemptyEvent s core q r slot =
    { s.setTask (s.core core).home ((s.taskOf (s.core core).home).countEmpty q) with threads } := by
  simp only [qemptyEvent]
  split
  · exact ⟨_, rfl⟩
  · exact ⟨_, rfl⟩

theorem waitEmpty_counted {s : State} {q : Nat} (h : q ∈ s.myRow.counted) (slot : Nat) : waitEmpty s s.cur.m s.cur.row q slot = s :=
  if_pos (List.contains_iff_mem.mpr h)

/-- The first held cycle of a wait counts. -/
theorem waitEmpty_counts {s : State} {q : Nat} (h : q ∉ s.myRow.counted) (slot : Nat) :
    (waitEmpty s s.cur.m s.cur.row q slot).myRow = { s.myRow with counted := q :: s.myRow.counted } ∧
    (waitEmpty s s.cur.m s.cur.row q slot).taskOf s.myCore.home = (s.taskOf s.myCore.home).countEmpty q := by
  have hwait : waitEmpty s s.cur.m s.cur.row q slot =
      qemptyEvent (s.withRow { s.myRow with counted := q :: s.myRow.counted }) s.cur.m q s.cur.row slot :=
    if_neg (mt List.contains_iff_mem.mp h)
  have hhome (y : Row) : ((s.withRow y).core s.cur.m).home = s.myCore.home := (congrArg Core.home (s.withRow_myCore y)).trans rfl
  obtain ⟨threads, hevent⟩ := qemptyEvent_cases (s.withRow { s.myRow with counted := q :: s.myRow.counted }) s.cur.m q s.cur.row slot
  rw [hwait, hevent, hhome]
  exact ⟨State.withRow_myRow s _, State.setTask_taskOf_same (s.withRow _) _ _⟩

/-! ## `bqpush` (R166) -/

/-- What a `bqpush` sends where no result of the PE is in flight, or its value is fixed already. -/
def State.bqSends (s : State) (pe : BitVec 2) (r : BitVec 3) : BitVec 16 :=
  s.myRow.bqv.getD ((Tab.get 0 (s.myCore.pe (peIndex s.cur.row pe.toNat)).s r.toNat).setWidth 16)

/-- `u` is `s` with the value `v` of the acting row's `bqpush` fixed. -/
structure State.Latched (s u : State) (v : BitVec 16) : Prop where
  row : u.myRow = { s.myRow with bqv := some v }
  core : u.myCore = { s.myCore with rows := u.myCore.rows }
  cur : u.cur = s.cur
  cyc : u.cyc = s.cyc
  mem : u.mem = s.mem

theorem bqValue_of_landed {s : State} {pe : BitVec 2} (h : (s.myCore.pe (peIndex s.cur.row pe.toNat)).flight = []) (r : BitVec 3) :
    bqValue s pe r = (Tab.get 0 (s.myCore.pe (peIndex s.cur.row pe.toNat)).s r.toNat).setWidth 16 := by
  simp only [bqValue, Pe.readS, Pe.open_, Pe.land, h, List.filter_nil, List.foldl_nil, List.any_nil]
  rfl

theorem latchBq_latched {s : State} {pe : BitVec 2} (h : s.myRow.bqv ≠ none ∨ (s.myCore.pe (peIndex s.cur.row pe.toNat)).flight = [])
    (r : BitVec 3) : s.Latched (latchBq s pe r) (s.bqSends pe r) := by
  unfold latchBq State.bqSends
  cases hv : s.myRow.bqv with
  | some v =>
    refine ⟨?_, rfl, rfl, rfl, rfl⟩
    show s.myRow = { s.myRow with bqv := some v }
    rw [← hv]
  | none =>
    rw [bqValue_of_landed (h.resolve_left (not_not_intro hv)) r]
    exact ⟨s.withRow_myRow _, by rw [State.modMyRow_eq, State.withRow_myCore]; rfl, rfl, rfl, rfl⟩

/-- A value enters `bq`, to be popped from cycle `ready` on (03 R102). -/
def State.sendBq (ready : Nat) (v : BitVec 16) (s : State) : State := s.modMyCore (fun c => { c with bq := c.bq ++ [(ready, v)] })

@[simp] theorem State.sendBq_myCore (ready : Nat) (v : BitVec 16) (s : State) :
    (s.sendBq ready v).myCore = { s.myCore with bq := s.myCore.bq ++ [(ready, v)] } := State.setCore_core_same _ _ _

namespace State.Latched

variable {s u : State} {v : BitVec 16}

theorem bq (h : s.Latched u v) : u.myCore.bq = s.myCore.bq := by rw [h.core]
theorem rowAt (h : s.Latched u v) : u.rowAt u.myRow.loops (u.myRow.pc + 1) = s.rowAt s.myRow.loops (s.myRow.pc + 1) := by
  rw [State.rowAt, h.core, h.row, h.cur]
  rfl
theorem gatheredBy (h : s.Latched u v) :
    u.myCore.gatheredBy (u.myRow.startOf u.cyc) = s.myCore.gatheredBy (s.myRow.startOf s.cyc) := by
  rw [h.core, h.row, h.cyc]
  rfl

end State.Latched

section
variable {s : State} {pe : BitVec 2} {r : BitVec 3} {v : BitVec 16}

theorem exec_bqpush_waits (hu : s.Latched (latchBq s pe r) v) (h : 8 ≤ s.myCore.bq.length) :
    exec (.bqpush pe r) s = .next (latchBq s pe r) := congrArg _ (if_pos (hu.bq ▸ h))

theorem exec_bqpush_goes (hu : s.Latched (latchBq s pe r) v) (h : s.myCore.bq.length < 8) :
    exec (.bqpush pe r) s =
      .next ((latchBq s pe r).nextBundle (State.sendBq (s.myCore.gatheredBy (s.myRow.startOf s.cyc)) v)) := by
  rw [← hu.gatheredBy, ← show (latchBq s pe r).myRow.bqv.getD 0 = v by rw [hu.row]; rfl]
  exact congrArg _ (if_neg (Nat.not_le.mpr (hu.bq ▸ h)))

theorem exec_bqpush_sends (hu : s.Latched (latchBq s pe r) v) (h : s.myCore.bq.length < 8) (hpc : s.myRow.pc ≠ 511) :
    ∃ t, exec (.bqpush pe r) s = .next t ∧
      t.myCore.bq = s.myCore.bq ++ [(s.myCore.gatheredBy (s.myRow.startOf s.cyc), v)] ∧
      t.myRow = s.rowAt s.myRow.loops (s.myRow.pc + 1) ∧ t.myCore.queues = s.myCore.queues ∧ t.myCore.pes = s.myCore.pes ∧
      t.mem = s.mem := by
  have hgo := exec_bqpush_goes hu h
  rw [State.nextBundle_of_ne (by rwa [hu.row]), State.jumpRow_eq, hu.rowAt] at hgo
  refine ⟨_, hgo, ?_, ?_, ?_, ?_, hu.mem⟩
  · rw [State.sendBq_myCore, State.withRow_myCore]
    exact congrArg (· ++ _) hu.bq
  · rw [State.myRow, State.sendBq_myCore, State.withRow_myCore]
    exact Core.setRow_row_same _ _ _
  · rw [State.sendBq_myCore, State.withRow_myCore, hu.core]
    rfl
  · rw [State.sendBq_myCore, State.withRow_myCore, hu.core]
    rfl

theorem exec_bqpush_last (hu : s.Latched (latchBq s pe r) v) (h : s.myCore.bq.length < 8) (hpc : s.myRow.pc = 511)
    (hfault : s.myCore.xfault = none) :
    ∃ t, exec (.bqpush pe r) s = .next t ∧ t.myCore.bq = s.myCore.bq ∧
      t.myCore.xfault = some ⟨s.cur.row, 0x13, 4, 511⟩ ∧ t.mem = s.mem := by
  have hgo := exec_bqpush_goes hu h
  rw [State.nextBundle_last (by rwa [hu.row]) (by rwa [hu.core])] at hgo
  refine ⟨_, hgo, ?_, ?_, hu.mem⟩
  · rw [State.myCore, State.setCore_cur, State.setCore_core_same]
    exact hu.bq
  · rw [State.myCore, State.setCore_cur, State.setCore_core_same, hu.cur]

end

end Sys2Proof.Machine
end

section
/-! PROOF. Results of PE operations that land (05 R144, R145, R157; 03 R102). -/

namespace Sys2Proof.Machine

/-! ## One landing result -/

theorem getElem_groupMask (g : Nat) {k : Nat} (hk : k < 512) :
    (BitVec.ofNat 512 ((2 ^ 128 - 1) * 2 ^ (128 * g)))[k] = decide (128 * g ≤ k ∧ k - 128 * g < 128) := by
  rw [← BitVec.getLsbD_eq_getElem, BitVec.getLsbD_ofNat, Nat.testBit_mul_two_pow, Nat.testBit_two_pow_sub_one]
  simp [hk]

/-- `pk8` writes the lanes of its group, and keeps the others (R157). -/
theorem Flight.merged_lane {f : Flight} {g i : Nat} (hg : f.lanes = some g) (old : Vec) (hi : i < 16) :
    (f.merged old).extractLsb' (32 * i) 32 = (if i / 4 = g then f.value else old).extractLsb' (32 * i) 32 := by
  ext j hj
  have hk : 32 * i + j < 512 := by omega
  have hgroup : (128 * g ≤ 32 * i + j ∧ 32 * i + j - 128 * g < 128) ↔ i / 4 = g := by omega
  simp only [Flight.merged, hg, BitVec.getElem_extractLsb', BitVec.getLsbD_eq_getElem hk, BitVec.getElem_or, BitVec.getElem_and,
    BitVec.getElem_not, getElem_groupMask g hk, hgroup]
  by_cases h : i / 4 = g <;> simp [h]

theorem Flight.merged_whole {f : Flight} (h : f.lanes = none) (old : Vec) : f.merged old = f.value := by rw [Flight.merged, h]

namespace Pe

variable (p : Pe) {f : Flight} {d : Nat}

@[simp] theorem landOne_flight (f : Flight) : (p.landOne f).flight = p.flight := by
  simp only [landOne]
  repeat' split
  all_goals rfl

theorem landOne_xflags (f : Flight) : (p.landOne f).xflags = if f.claimed then p.xflags else p.xflags ||| f.flags := by
  simp only [landOne]
  repeat' split
  all_goals rfl

theorem landOne_v (hd : f.dst = some d) (hs : f.isS = false) : (p.landOne f).v = Tab.put p.v d (f.merged (Tab.get 0 p.v d)) := by
  simp only [landOne, hd, hs]
  split <;> rfl

theorem landOne_s (hd : f.dst = some d) (hs : f.isS = true) : (p.landOne f).s = Tab.put p.s d (f.value.setWidth 64) := by
  simp only [landOne, hd, hs]
  split <;> rfl

theorem landOne_nb (hnb : f.nb = true) : (p.landOne f).nb = f.merged (Tab.get 0 p.v (f.dst.getD 0)) := by
  simp only [landOne, hnb, if_true]

/-- A register that no result names keeps its value. -/
theorem landOne_other (h : f.dst ≠ some d) :
    Tab.get 0 (p.landOne f).v d = Tab.get 0 p.v d ∧ Tab.get 0 (p.landOne f).s d = Tab.get 0 p.s d := by
  cases hd : f.dst with
  | none =>
    simp only [landOne, hd]
    split <;> exact ⟨rfl, rfl⟩
  | some e =>
    have he : e ≠ d := fun he => h (hd.trans (congrArg some he))
    cases hs : f.isS with
    | false =>
      rw [p.landOne_v hd hs]
      refine ⟨Tab.get_put_other _ _ _ _ _ he, ?_⟩
      simp only [landOne, hd, hs]
      split <;> rfl
    | true =>
      rw [p.landOne_s hd hs]
      refine ⟨?_, Tab.get_put_other _ _ _ _ _ he⟩
      simp only [landOne, hd, hs]
      split <;> rfl

/-- A register that a whole result writes holds good data again, and so does NB (13 R429). -/
theorem landOne_bad (hlanes : f.lanes = none) :
    (f.dst = some d → f.isS = false → d ∉ (p.landOne f).bad) ∧ (f.dst = some d → f.isS = true → 0x10 + d ∉ (p.landOne f).bad) ∧
    (f.nb = true → 0x18 ∉ (p.landOne f).bad) := by
  refine ⟨fun hd hs => ?_, fun hd hs => ?_, fun hnb => ?_⟩
  · cases hnb : f.nb <;> simp [landOne, hlanes, hd, hs, hnb]
  · cases hnb : f.nb <;> simp [landOne, hlanes, hd, hs, hnb]
  · simp only [landOne, hlanes, hnb, if_true, Option.isSome_none, Bool.false_and, if_neg Bool.false_ne_true, List.nil_append]
    exact fun h => by simpa using (List.mem_filter.mp h).2

end Pe

/-! ## The results of a cycle -/

/-- The union of the flags of results. -/
def flagsOf (l : List Flight) : Flags := l.foldl (fun x f => x ||| f.flags) 0

theorem foldl_flags (l : List Flight) (x : Flags) : l.foldl (fun x f => x ||| f.flags) x = x ||| flagsOf l := by
  induction l generalizing x with
  | nil => exact BitVec.or_zero.symm
  | cons f l ih =>
    have hcons : flagsOf (f :: l) = f.flags ||| flagsOf l := (ih _).trans (congrArg (· ||| _) BitVec.zero_or)
    rw [hcons, List.foldl_cons, ih, BitVec.or_assoc]

theorem claimedFlags_eq (l : List Flight) : claimedFlags l = flagsOf (l.filter (·.claimed)) := List.foldl_filter.symm

namespace Pe

variable (p : Pe) (l : List Flight)

theorem landAll_flight : (l.foldl landOne p).flight = p.flight := by
  induction l generalizing p with
  | nil => rfl
  | cons f l ih => rw [List.foldl_cons, ih, landOne_flight]

theorem landAll_xflags : (l.foldl landOne p).xflags = p.xflags ||| flagsOf (l.filter (fun f => !f.claimed)) := by
  rw [← foldl_flags, List.foldl_filter]
  induction l generalizing p with
  | nil => rfl
  | cons f l ih =>
    rw [List.foldl_cons, List.foldl_cons, ih, landOne_xflags]
    cases f.claimed <;> rfl

variable {l} {d : Nat}

theorem landAll_other (h : ∀ f ∈ l, f.dst ≠ some d) :
    Tab.get 0 (l.foldl landOne p).v d = Tab.get 0 p.v d ∧ Tab.get 0 (l.foldl landOne p).s d = Tab.get 0 p.s d := by
  induction l generalizing p with
  | nil => exact ⟨rfl, rfl⟩
  | cons f l ih =>
    obtain ⟨hf, hl⟩ := List.forall_mem_cons.mp h
    obtain ⟨hv, hs⟩ := ih (p.landOne f) hl
    exact ⟨hv.trans (p.landOne_other hf).1, hs.trans (p.landOne_other hf).2⟩

/-- The results due by cycle `cyc`, in the order in which they land. -/
def due (cyc : Nat) : List Flight := p.flight.filter (fun f => f.land ≤ cyc)

/-- The PE with only the later results in flight. -/
def later (cyc : Nat) : Pe := { p with flight := p.flight.filter (fun f => cyc < f.land) }

theorem land_eq (cyc : Nat) : p.land cyc = (p.due cyc).foldl landOne (p.later cyc) := rfl

theorem land_last {cyc : Nat} {e : Flight} (h : p.due cyc = l ++ [e]) :
    p.land cyc = (l.foldl landOne (p.later cyc)).landOne e := by
  rw [land_eq, h, List.foldl_append, List.foldl_cons, List.foldl_nil]

theorem land_of_due_nil {cyc : Nat} (h : p.due cyc = []) : p.land cyc = p := by
  have hlater : p.flight.filter (fun f => cyc < f.land) = p.flight := by
    refine List.filter_eq_self.mpr fun f hf => decide_eq_true (Nat.lt_of_not_le fun hle => ?_)
    exact List.filter_eq_nil_iff.mp h f hf (decide_eq_true hle)
  rw [land_eq, h, later, hlater, List.foldl_nil]

/-- The last result is a group of lanes (R157). -/
theorem land_lanes {cyc g : Nat} {e : Flight} (h : p.due cyc = l ++ [e]) (hg : e.lanes = some g) (hd : e.dst = some d)
    (hs : e.isS = false) :
    (∀ i < 16, i / 4 = g → (Tab.get 0 (p.land cyc).v d).extractLsb' (32 * i) 32 = e.value.extractLsb' (32 * i) 32) ∧
    ((∀ f ∈ l, f.dst ≠ some d) → ∀ i < 16, i / 4 ≠ g →
      (Tab.get 0 (p.land cyc).v d).extractLsb' (32 * i) 32 = (Tab.get 0 p.v d).extractLsb' (32 * i) 32) ∧
    (e.nb = true → (p.land cyc).nb = Tab.get 0 (p.land cyc).v d) := by
  rw [p.land_last h, landOne_v _ hd hs, Tab.get_put_same]
  refine ⟨fun i hi hgroup => ?_, fun hl i hi hgroup => ?_, fun hnb => ?_⟩
  · rw [Flight.merged_lane hg _ hi, if_pos hgroup]
  · rw [Flight.merged_lane hg _ hi, if_neg hgroup, (landAll_other (p.later cyc) hl).1]
    rfl
  · rw [landOne_nb _ hnb, hd, Option.getD_some]

/-- The last result is whole (R144, R145). -/
theorem land_whole {cyc : Nat} {e : Flight} (h : p.due cyc = l ++ [e]) (hlanes : e.lanes = none) :
    (∀ d, e.dst = some d → e.isS = false → Tab.get 0 (p.land cyc).v d = e.value ∧ d ∉ (p.land cyc).bad) ∧
    (∀ d, e.dst = some d → e.isS = true → Tab.get 0 (p.land cyc).s d = e.value.setWidth 64 ∧ 0x10 + d ∉ (p.land cyc).bad) ∧
    (e.nb = true → (p.land cyc).nb = e.value ∧ 0x18 ∉ (p.land cyc).bad) := by
  rw [p.land_last h]
  refine ⟨fun d hd hs => ⟨?_, (landOne_bad _ hlanes).1 hd hs⟩, fun d hd hs => ⟨?_, (landOne_bad _ hlanes).2.1 hd hs⟩,
    fun hnb => ⟨?_, (landOne_bad (d := 0) _ hlanes).2.2 hnb⟩⟩
  · rw [landOne_v _ hd hs, Tab.get_put_same, Flight.merged_whole hlanes]
  · rw [landOne_s _ hd hs, Tab.get_put_same]
  · rw [landOne_nb _ hnb, Flight.merged_whole hlanes]

end Pe

/-! ## PE_RESULT_LANDS -/

theorem State.gathered_cases (s : State) (id : Nat) (f : Flags) : s.gathered id f = s ∧ f = 0 ∨
    s.gathered id f = s.setTask id { s.taskOf id with tflagsAdd := (s.taskOf id).tflagsAdd ||| f } := by
  by_cases h : f = 0
  · exact .inl ⟨if_pos h, h⟩
  · exact .inr (if_neg h)

theorem State.gathered_cores (s : State) (id : Nat) (f : Flags) : (s.gathered id f).cores = s.cores := by
  obtain ⟨h, -⟩ | h := s.gathered_cases id f <;> rw [h]
  rfl

theorem State.gathered_threads_mem (s : State) (id : Nat) (f : Flags) :
    (s.gathered id f).threads = s.threads ∧ (s.gathered id f).mem = s.mem := by
  obtain ⟨h, -⟩ | h := s.gathered_cases id f <;> rw [h] <;> exact ⟨rfl, rfl⟩

theorem State.gathered_tflagsAdd (s : State) (id : Nat) (f : Flags) :
    ((s.gathered id f).taskOf id).tflagsAdd = (s.taskOf id).tflagsAdd ||| f := by
  obtain ⟨h, h0⟩ | h := s.gathered_cases id f <;> rw [h]
  · rw [h0]
    exact BitVec.or_zero.symm
  · rw [State.setTask_taskOf_same]

@[simp] theorem Core.setPe_pe_same (c : Core) (k : Nat) (x : Pe) : (c.setPe k x).pe k = x := Tab.get_put_same _ _ _ _
theorem Core.setPe_pe_other {k j : Nat} (h : j ≠ k) (c : Core) (x : Pe) : (c.setPe k x).pe j = c.pe j :=
  Tab.get_put_other _ _ _ _ _ (Ne.symm h)

/-- The PE's results land, and the task takes the flags that a gather has claimed; nothing else changes. -/
theorem exec_peResultLands (s : State) (core pe : Nat) :
    ∃ t, exec (.peResultLands core pe) s = .next t ∧ (t.core core).pe pe = ((s.core core).pe pe).land s.cyc ∧
      (t.taskOf (s.core core).home).tflagsAdd =
        (s.taskOf (s.core core).home).tflagsAdd ||| flagsOf ((((s.core core).pe pe).due s.cyc).filter (·.claimed)) ∧
      (∀ q, q ≠ pe → (t.core core).pe q = (s.core core).pe q) ∧ t.threads = s.threads ∧ t.mem = s.mem := by
  have hcore (u : State) (id : Nat) (f : Flags) : (u.gathered id f).core core = u.core core :=
    State.core_of_cores (u.gathered_cores id f) core
  refine ⟨_, rfl, ?_, ?_, fun q hq => ?_, (State.gathered_threads_mem _ _ _).1, (State.gathered_threads_mem _ _ _).2⟩
  · rw [hcore, State.setCore_core_same, Core.setPe_pe_same]
  · rw [State.gathered_tflagsAdd, claimedFlags_eq]
    rfl
  · rw [hcore, State.setCore_core_same, Core.setPe_pe_other hq]

end Sys2Proof.Machine
end

section
/-! PROOF. What row controls, landing results and the mutual wait do (05 R138 to R167; 11 R364, R365). -/

namespace Sys2Proof.Machine

/-! ## The mutual wait (11 R364, R365) -/

section
variable {s : State}

theorem exec_decoupleDeadlock_quiet (h : mutualWait s s.cur.m = false) :
    exec .decoupleDeadlock s = .next (s.setCore s.cur.m { s.core s.cur.m with mutualSince := 0 }) :=
  congrArg _ (if_pos (by rw [h]; rfl))

variable (h : mutualWait s s.cur.m = true)
include h

theorem exec_decoupleDeadlock_begins (hsince : (s.core s.cur.m).mutualSince = 0) :
    exec .decoupleDeadlock s = .next (s.setCore s.cur.m { s.core s.cur.m with mutualSince := s.cyc + 1 }) :=
  congrArg _ ((if_neg (by simp [h])).trans (if_pos hsince))

theorem exec_decoupleDeadlock_counts (hsince : (s.core s.cur.m).mutualSince ≠ 0)
    (hcyc : (s.core s.cur.m).mutualSince + 4095 ≠ s.cyc + 1) : exec .decoupleDeadlock s = .next s :=
  congrArg _ ((if_neg (by simp [h])).trans ((if_neg hsince).trans (if_neg hcyc)))

theorem exec_decoupleDeadlock_faults (hsince : (s.core s.cur.m).mutualSince ≠ 0)
    (hcyc : (s.core s.cur.m).mutualSince + 4095 = s.cyc + 1) :
    exec .decoupleDeadlock s = .next (s.raise (anchorKey s.cur.m)
      (mkFault s (anchorKey s.cur.m) 0x0C 8 (mutualWord s s.cur.m) (mutualWord s s.cur.m) (.monitor s.cur.m))) :=
  congrArg _ ((if_neg (by simp [h])).trans ((if_neg hsince).trans (if_pos hcyc)))

end

/-! ## Row controls, results and the wait -/

/-- Settles O55: each row control by where its row goes, the results by the last one that lands, the wait by its count. -/
theorem rowResults : Obligations.RowResults := by
  unfold Obligations.RowResults
  refine ⟨fun s target q kind l count pe r => ?_, fun s core pe => ?_, fun s => ?_⟩
  · refine ⟨exec_jmp_moves s target, exec_loopRow_advances s l count, exec_endloop_back s l target, exec_endloop_on s l target,
      fun e he => ⟨exec_brTok_taken target he, exec_brTok_on target he⟩,
      fun hempty => ⟨fun hcounted => ?_, fun hcounted => ?_⟩, fun hfixed => ⟨fun hfull => ?_, ?_, ?_⟩, rfl, rfl⟩
    · exact (exec_brTok_empty kind target hempty).trans (congrArg _ (waitEmpty_counted hcounted 4))
    · obtain ⟨hrow, htask⟩ := waitEmpty_counts hcounted 4
      refine ⟨_, exec_brTok_empty kind target hempty, hrow, ?_, fun k hk => ?_, ?_⟩ <;> rw [htask]
      · exact Tab.get_put_same _ _ _ _
      · exact Tab.get_put_other _ _ _ _ _ (Ne.symm hk)
      · rfl
    · have hu := latchBq_latched hfixed r
      exact ⟨_, exec_bqpush_waits hu hfull, hu.bq, hu.row, hu.mem⟩
    · exact exec_bqpush_sends (latchBq_latched hfixed r)
    · exact exec_bqpush_last (latchBq_latched hfixed r)
  · obtain ⟨t, ht, hpe, hflags, hothers, hthreads, hmem⟩ := exec_peResultLands s core pe
    exact ⟨t, _, ht, hpe, Pe.landAll_flight _ _, Pe.land_of_due_nil _, Pe.landAll_xflags _ _, hflags,
      fun l e g d => Pe.land_lanes _, fun l e => Pe.land_whole _,
      fun d hd => Pe.landAll_other _ hd, hothers, hthreads, hmem⟩
  · refine ⟨exec_decoupleDeadlock_quiet, exec_decoupleDeadlock_begins, fun hwait hsince =>
      ⟨exec_decoupleDeadlock_counts hwait hsince, fun hcyc =>
        ⟨_, mkFault s (anchorKey s.cur.m) 0x0C 8 (mutualWord s s.cur.m) (mutualWord s s.cur.m) (.monitor s.cur.m),
          exec_decoupleDeadlock_faults hwait hsince hcyc, rfl, rfl, congrArg Thread.waiting (State.setThr_thr_same _ _ _),
          rfl, rfl, rfl, rfl, rfl⟩⟩⟩

end Sys2Proof.Machine
end

section
/-! PROOF. A push of the execute array into a queue whose last place a stream unit has at work (05 R147, 08 R256). -/

namespace Sys2Proof.Machine

/-- Without a place for its push an operation changes nothing (R139, R147). -/
theorem State.issue_of_full {s : State} {f : PeF} (h : pushRoom s f 1 = false) (codes : List (Nat × BitVec 6)) (keeps : Bool)
    (k : List Src → Res) : s.issue f codes keeps k = s := if_pos (by rw [h]; rfl)

theorem peBinary_of_full {s : State} {f : PeF} (h : pushRoom s f 1 = false) (n w : Nat) (g : Nat → Mode → Nat → Nat → Nat × Flags) :
    peBinary f n w g s = s := State.issue_of_full h _ _ _

/-- `fadd.f32 q1.val, v0, v0`. -/
def pushingFadd : PeF := ⟨1, 0, 0, 0, 0, 0, false, false, 0, 0, 1⟩

/-- Queue 1 of core 0 has one place and no entry: stream unit 0 has popped the entry, and its write travels over Pertor. -/
def lentPlace : State :=
  { cores := [(0, { queues := [(1, { decl := true, xa := true, cap := 1, lent := [(0, { tok := {}, ready := 0 })] })] })] }

theorem exec_fadd_lentPlace : exec (.fadd pushingFadd) lentPlace = .next lentPlace :=
  congrArg Host.Outcome.next (peBinary_of_full (f := pushingFadd) (s := lentPlace) (by decide) 4 6 laneFadd)

/-- Refutes O54: its room counts the entries of a queue alone, but an entry lent to a stream unit keeps its place until it is written
(08 R256), so an `fadd` whose queue has no free place issues nothing where the statement has its result in flight. -/
theorem not_peResults : ¬ Obligations.PeResults := by
  unfold Obligations.PeResults
  intro h
  obtain ⟨-, hops, -⟩ := h
  obtain ⟨⟨hfadd, -⟩, -⟩ := hops lentPlace pushingFadd
  obtain ⟨-, -, hissues⟩ := hfadd
  have hroom : ¬(pushingFadd.push ≠ 0 ∧ (lentPlace.myCore.queue 1).cap < (lentPlace.myCore.queue 1).entries.length + 1) := by decide
  obtain ⟨-, -, hsends⟩ := hissues _ lentPlace hroom rfl
  obtain ⟨t, ht, hpe, -⟩ := hsends rfl (.inl rfl)
  have hsame : t = lentPlace := (Host.Outcome.next.inj (exec_fadd_lentPlace.symm.trans ht)).symm
  rw [hsame] at hpe
  exact absurd (congrArg (fun p => p.flight.length) hpe).symm (Nat.succ_ne_zero 0)

end Sys2Proof.Machine
end

section
/-! PROOF. The state of the matrix array: what its moves leave alone, and what the operations on its accumulators read as (06 R170, R171,
R182 to R187, R195; 03 R111). -/

namespace Sys2Proof

theorem Tab.get_put {α : Type} (d : α) (t : Tab α) (k j : Nat) (v : α) :
    Tab.get d (Tab.put t k v) j = if j = k then v else Tab.get d t j := by
  split
  · next h => rw [h, Tab.get_put_same]
  · next h => exact Tab.get_put_other _ _ _ _ _ (Ne.symm h)

theorem Tab.get_put_put {α : Type} (d : α) (t : Tab α) (k k' j : Nat) (v : α) :
    Tab.get d (Tab.put (Tab.put t k v) k' v) j = if j = k ∨ j = k' then v else Tab.get d t j := by
  rw [Tab.get_put, Tab.get_put]
  by_cases h : j = k' <;> by_cases h' : j = k <;> simp [h, h']

end Sys2Proof

namespace Sys2Proof.Machine

/-! ## The array of the acting core -/

/-- `s` with the array of the acting core as `m`. -/
def State.withMx (s : State) (m : Matrix) : State := s.setCore s.cur.m { s.myCore with matrix := m }

theorem State.modMx_eq (s : State) (f : Matrix → Matrix) : s.modMx f = s.withMx (f s.mx) := rfl

@[simp] theorem State.withMx_myCore (s : State) (m : Matrix) : (s.withMx m).myCore = { s.myCore with matrix := m } :=
  State.setCore_core_same _ _ _
@[simp] theorem State.withMx_mx (s : State) (m : Matrix) : (s.withMx m).mx = m := congrArg Core.matrix (s.withMx_myCore m)
@[simp] theorem State.withMx_withMx (s : State) (m m' : Matrix) : (s.withMx m).withMx m' = s.withMx m' := by
  rw [State.withMx, State.withMx_myCore]
  exact State.setCore_setCore _ _ _ _
@[simp] theorem State.withMx_cyc (s : State) (m : Matrix) : (s.withMx m).cyc = s.cyc := rfl

/-- The live thread of a record depends on the threads alone. -/
theorem State.keyOf_of_threads {s t : State} (h : t.threads = s.threads) : t.keyOf = s.keyOf := by
  funext task slot
  have hlive : t.isLive = s.isLive := by
    funext k
    rw [State.isLive, State.thr, h]
    rfl
  rw [State.keyOf, h, hlive]
  rfl

/-- `t` is `s` but for the array of the acting core and the events on their way. -/
structure MovesArray (s t : State) : Prop where
  mem : t.mem = s.mem
  threads : t.threads = s.threads
  tasks : t.tasks = s.tasks
  cur : t.cur = s.cur
  cyc : t.cyc = s.cyc
  tick : t.tick = s.tick
  core : t.myCore = { s.myCore with matrix := t.mx }

namespace MovesArray

variable {s t u : State}

theorem refl (s : State) : MovesArray s s := ⟨rfl, rfl, rfl, rfl, rfl, rfl, rfl⟩

theorem trans (h : MovesArray s t) (h' : MovesArray t u) : MovesArray s u :=
  ⟨h'.mem.trans h.mem, h'.threads.trans h.threads, h'.tasks.trans h.tasks, h'.cur.trans h.cur, h'.cyc.trans h.cyc, h'.tick.trans h.tick,
    h'.core.trans (congrArg (fun c : Core => { c with matrix := u.mx }) h.core)⟩

theorem withMx (s : State) (m : Matrix) : MovesArray s (s.withMx m) :=
  ⟨rfl, rfl, rfl, rfl, rfl, rfl, by rw [State.withMx_mx, State.withMx_myCore]⟩

/-- The array as it was makes the core what it was. -/
theorem restored (h : MovesArray s t) : { t.myCore with matrix := s.mx } = s.myCore := by
  rw [h.core]
  rfl

theorem ring (h : MovesArray s t) (r : Nat) : t.myCore.ring r = s.myCore.ring r := by rw [h.core]; rfl
theorem home (h : MovesArray s t) : t.myCore.home = s.myCore.home := by rw [h.core]
theorem taskOf (h : MovesArray s t) (id : Nat) : t.taskOf id = s.taskOf id := by rw [State.taskOf, h.tasks]; rfl
theorem keyOf (h : MovesArray s t) : t.keyOf = s.keyOf := State.keyOf_of_threads h.threads

end MovesArray

/-! ## Accumulators that are read -/

/-- 4096 entries of a list that reads `d` past its end. -/
def padded {α : Type} (d : α) (l : List α) : List α := (List.range 4096).map (fun i => (l[i]?).getD d)

theorem padded_of_length {α : Type} (d : α) {l : List α} (h : l.length = 4096) : padded d l = l := by
  refine List.ext_getElem (by simp [padded, h]) fun i _ hi => ?_
  simp [padded, List.getElem?_eq_getElem hi]

theorem padded_nil {α : Type} (d : α) : padded d [] = List.replicate 4096 d := by
  simp only [padded, List.getElem?_nil, Option.getD_none, List.map_const', List.length_range]

theorem Matrix.words_eq (m : Matrix) (a : Nat) : m.words a = padded 0 (Tab.get [] m.acc a) := rfl
theorem Matrix.sums_eq (m : Matrix) (a : Nat) : m.sums a = padded 0 (Tab.get [] m.isum a) := rfl
@[simp] theorem Matrix.words_length (m : Matrix) (a : Nat) : (m.words a).length = 4096 := by
  rw [Matrix.words, List.length_map, List.length_range]
@[simp] theorem Matrix.sums_length (m : Matrix) (a : Nat) : (m.sums a).length = 4096 := by
  rw [Matrix.sums, List.length_map, List.length_range]

/-- What the accumulators of an array hold: their words, kinds, APSN and ISUM. -/
structure Matrix.SameAcc (m m' : Matrix) : Prop where
  acc : m'.acc = m.acc
  akind : m'.akind = m.akind
  apsn : m'.apsn = m.apsn
  isum : m'.isum = m.isum

theorem Matrix.SameAcc.words {m m' : Matrix} (h : m.SameAcc m') (a : Nat) : m'.words a = m.words a := by
  rw [Matrix.words, h.acc]; rfl
theorem Matrix.SameAcc.sums {m m' : Matrix} (h : m.SameAcc m') (a : Nat) : m'.sums a = m.sums a := by
  rw [Matrix.sums, h.isum]; rfl
theorem Matrix.SameAcc.kind {m m' : Matrix} (h : m.SameAcc m') (a : Nat) : m'.kind a = m.kind a := by
  rw [Matrix.kind, h.akind]; rfl
theorem Matrix.SameAcc.poisoned {m m' : Matrix} (h : m.SameAcc m') (a : Nat) : m'.poisoned a = m.poisoned a := by
  rw [Matrix.poisoned, h.apsn]; rfl

/-! ## The fold of the inner sums (03 R111) -/

/-- The words of accumulator `a` with the sums `S` added, each wrapped to 32 bits. -/
def Matrix.added (m : Matrix) (a : Nat) (S : List Int) : List Word32 :=
  ((m.words a).zip S).map (fun e => BitVec.ofInt 32 (e.1.toInt + e.2))

/-- SAT where one of those sums lies outside the signed words. -/
def Matrix.wrapped (m : Matrix) (a : Nat) (S : List Int) : Flags :=
  if ((m.words a).zip S).any (fun e => e.1.toInt + e.2 < -2 ^ 31 || 2 ^ 31 ≤ e.1.toInt + e.2) then fSAT else 0

theorem unionFlags_map_ite {α : Type} (p : α → Prop) [DecidablePred p] (x : Flags) (l : List α) :
    unionFlags (l.map (fun e => if p e then x else 0)) = if l.any (fun e => decide (p e)) then x else 0 := by
  have start (y : Flags) : (l.map (fun e => if p e then x else 0)).foldl (· ||| ·) y =
      y ||| (if l.any (fun e => decide (p e)) then x else 0) := by
    induction l generalizing y with
    | nil => simp
    | cons e l ih =>
      rw [List.map_cons, List.foldl_cons, ih, BitVec.or_assoc, List.any_cons]
      by_cases h : p e
      · by_cases h' : l.any (fun e => decide (p e)) <;> simp [h, h']
      · simp [h]
  exact (start 0).trans BitVec.zero_or

theorem signedOf_toNat (w : Word32) : signedOf 32 w.toNat = w.toInt := by
  rw [signedOf_eq_toInt, BitVec.ofNat_toNat, BitVec.setWidth_eq]

theorem ofNat_emod_toNat (v : Int) : BitVec.ofNat 32 (v % (2 ^ 32 : Int)).toNat = BitVec.ofInt 32 v := by
  apply BitVec.eq_of_toNat_eq
  rw [BitVec.toNat_ofNat, BitVec.toNat_ofInt]
  omega

theorem foldSums_words (ws : List Word32) (S : List Int) :
    (foldSums (ws.map (·.toNat)) S).1.map (BitVec.ofNat 32) = (ws.zip S).map (fun e => BitVec.ofInt 32 (e.1.toInt + e.2)) := by
  simp only [foldSums, List.zip_map_left, List.map_map]
  refine List.map_congr_left fun e _ => ?_
  simp only [Function.comp_apply, Prod.map_fst, Prod.map_snd, id_eq, signedOf_toNat]
  exact ofNat_emod_toNat _

theorem foldSums_flags (ws : List Word32) (S : List Int) : (foldSums (ws.map (·.toNat)) S).2 =
    if (ws.zip S).any (fun e => e.1.toInt + e.2 < -2 ^ 31 || 2 ^ 31 ≤ e.1.toInt + e.2) then fSAT else 0 := by
  have hflags : (foldSums (ws.map (·.toNat)) S).2 = unionFlags ((ws.zip S).map (fun e =>
      if e.1.toInt + e.2 < -2 ^ 31 ∨ 2 ^ 31 ≤ e.1.toInt + e.2 then fSAT else 0)) := by
    simp only [foldSums, List.zip_map_left, List.map_map]
    refine congrArg unionFlags (List.map_congr_left fun e _ => ?_)
    have hhi (v : Int) : intHi 32 true < v ↔ 2 ^ 31 ≤ v := by simp only [intHi, if_true]; omega
    simp only [Function.comp_apply, Prod.map_fst, Prod.map_snd, id_eq, signedOf_toNat, hhi]
    rfl
  rw [hflags, unionFlags_map_ite]
  simp only [Bool.decide_or]

/-- `m'` is `m` with the sums of accumulator `a` folded. -/
structure Matrix.Folded (m : Matrix) (a : Nat) (S : List Int) (m' : Matrix) : Prop where
  words : m'.words a = m.added a S
  sums : m'.sums a = List.replicate 4096 0
  flags : m'.flags = m.flags ||| m.wrapped a S
  others : ∀ b, b ≠ a → m'.words b = m.words b ∧ m'.sums b = m.sums b

theorem Matrix.added_length (m : Matrix) (a : Nat) {S : List Int} (h : S.length = 4096) : (m.added a S).length = 4096 := by
  rw [Matrix.added, List.length_map, List.length_zip, Matrix.words_length, h, Nat.min_self]

theorem Matrix.fold_eq (m : Matrix) (a : Nat) : m.fold a =
    { m with acc := Tab.put m.acc a (m.added a (m.sums a)), flags := m.flags ||| m.wrapped a (m.sums a), isum := Tab.put m.isum a [] } := by
  rw [Matrix.fold, foldSums_words, foldSums_flags]
  rfl

theorem Matrix.fold_folded (m : Matrix) (a : Nat) : m.Folded a (m.sums a) (m.fold a) := by
  rw [Matrix.fold_eq]
  refine ⟨?_, ?_, rfl, fun b hb => ⟨?_, ?_⟩⟩
  · rw [Matrix.words_eq, Tab.get_put_same]
    exact padded_of_length _ (m.added_length a (m.sums_length a))
  · rw [Matrix.sums_eq, Tab.get_put_same]
    exact padded_nil _
  · rw [Matrix.words_eq, Tab.get_put_other _ _ _ _ _ hb.symm]
    rfl
  · rw [Matrix.sums_eq, Tab.get_put_other _ _ _ _ _ hb.symm]
    rfl

theorem Matrix.foldIf_i32 {m : Matrix} {a : Nat} (h : m.kind a = .i32) : m.foldIf a = m.fold a := if_pos h
theorem Matrix.foldIf_of_ne {m : Matrix} {a : Nat} (h : m.kind a ≠ .i32) : m.foldIf a = m := if_neg h

/-- A fold changes one accumulator's words and ISUM, and the flags. -/
theorem Matrix.foldIf_frame (m : Matrix) (a : Nat) :
    m.foldIf a = { m with acc := (m.foldIf a).acc, flags := (m.foldIf a).flags, isum := (m.foldIf a).isum } := by
  unfold Matrix.foldIf
  split
  · rw [Matrix.fold_eq]
  · rfl

theorem Matrix.foldIf_others (m : Matrix) {a b : Nat} (hb : b ≠ a) : (m.foldIf a).words b = m.words b ∧ (m.foldIf a).sums b = m.sums b := by
  unfold Matrix.foldIf
  split
  · exact (m.fold_folded a).others b hb
  · exact ⟨rfl, rfl⟩

/-! ## Accumulators that are set (06 R171, R184, R195) -/

/-- The members of the pair that an f64 accumulator uses. -/
theorem pair_members {a b : Nat} : b / 2 = a / 2 ↔ b = evenOf a ∨ b = evenOf a + 1 := by unfold evenOf; omega

/-- `m'` is `m` with accumulator `a` as +0 in kind `k`. -/
def Matrix.ZeroedIn (m : Matrix) (a : Nat) (k : AKind) (m' : Matrix) : Prop :=
  m'.kind a = k ∧ m'.sums a = List.replicate 4096 0 ∧
  (∀ b, b = a ∨ (k = .f64 ∧ b / 2 = a / 2) → m'.words b = List.replicate 4096 0 ∧ m'.poisoned b = false) ∧
  (∀ b, b / 2 = a / 2 → b ≠ a → k ≠ .f64 → m'.poisoned b = m.poisoned b ∧ m'.sums b = m.sums b ∧
    (m.kind a = .f64 → m'.kind b = .f32) ∧ (m.kind a ≠ .f64 → m'.kind b = m.kind b ∧ m'.words b = m.words b)) ∧
  (∀ b, b / 2 ≠ a / 2 → m'.kind b = m.kind b ∧ m'.words b = m.words b ∧ m'.poisoned b = m.poisoned b ∧ m'.sums b = m.sums b)

/-- `m'` is `m` with the elements of accumulator `a`, and what is left of its sums, +0. -/
def Matrix.Blanked (m : Matrix) (a : Nat) (m' : Matrix) : Prop :=
  m'.akind = m.akind ∧ m'.words a = List.replicate 4096 0 ∧ m'.sums a = List.replicate 4096 0 ∧
  (m.kind a = .f64 → ∀ b, b / 2 = a / 2 → m'.words b = List.replicate 4096 0) ∧
  ∀ b, b ≠ a → ¬(m.kind a = .f64 ∧ b / 2 = a / 2) → m'.words b = m.words b ∧ m'.sums b = m.sums b ∧ m'.poisoned b = m.poisoned b

section
variable (m : Matrix) (a b : Nat)

theorem Matrix.blank_words (k : AKind) : (m.blank a k).words b =
    if b = a ∨ (k = .f64 ∧ b / 2 = a / 2) then List.replicate 4096 0 else m.words b := by
  have hacc : Tab.get [] (m.blank a k).acc b = if b = a ∨ (k = .f64 ∧ b / 2 = a / 2) then [] else Tab.get [] m.acc b := by
    cases k with
    | f64 =>
      have hpair : (b = a ∨ (AKind.f64 = .f64 ∧ b / 2 = a / 2)) ↔ (b = evenOf a ∨ b = evenOf a + 1) := by unfold evenOf; simp; omega
      rw [if_congr hpair rfl rfl]
      exact Tab.get_put_put _ _ _ _ _ _
    | f32 | i32 => simp [Matrix.blank, Tab.get_put]
  rw [Matrix.words_eq, hacc]
  split
  · exact padded_nil _
  · rfl

theorem Matrix.blank_sums (k : AKind) : (m.blank a k).sums b = if b = a then List.replicate 4096 0 else m.sums b := by
  have hisum : (m.blank a k).isum = Tab.put m.isum a [] := by cases k <;> rfl
  rw [Matrix.sums_eq, hisum, Tab.get_put]
  split
  · exact padded_nil _
  · rfl

/-- `blank` changes words and ISUM alone. -/
theorem Matrix.blank_frame (k : AKind) : m.blank a k = { m with acc := (m.blank a k).acc, isum := (m.blank a k).isum } := by
  cases k <;> rfl

/-- `zero` clears APSN too. -/
theorem Matrix.zero_frame (k : AKind) : m.zero a k = { m.blank a k with apsn := (m.zero a k).apsn } := by
  cases k <;> rfl

theorem Matrix.zero_poisoned (k : AKind) : (m.zero a k).poisoned b =
    if b = a ∨ (k = .f64 ∧ b / 2 = a / 2) then false else m.poisoned b := by
  cases k with
  | f64 =>
    have hpair : (b = a ∨ (AKind.f64 = .f64 ∧ b / 2 = a / 2)) ↔ (b = evenOf a ∨ b = evenOf a + 1) := by unfold evenOf; simp; omega
    rw [if_congr hpair rfl rfl]
    exact Tab.get_put_put _ _ _ _ _ _
  | f32 | i32 => simp [Matrix.poisoned, Matrix.zero, Matrix.blank, Tab.get_put]

theorem Matrix.zero_words (k : AKind) : (m.zero a k).words b = (m.blank a k).words b := by rw [Matrix.zero_frame]; rfl
theorem Matrix.zero_sums (k : AKind) : (m.zero a k).sums b = (m.blank a k).sums b := by rw [Matrix.zero_frame]; rfl
theorem Matrix.zero_kind (k : AKind) : (m.zero a k).kind b = m.kind b := by rw [Matrix.zero_frame, Matrix.blank_frame]; rfl

/-- A command that sets contents changes kinds, and the words of a pair that it breaks. -/
theorem Matrix.claim_frame (tick : Nat) (k : AKind) :
    m.claim tick a k = { m with akind := (m.claim tick a k).akind, acc := (m.claim tick a k).acc } := by
  unfold Matrix.claim
  split
  · rfl
  · dsimp only
    split <;> rfl

theorem Matrix.claim_kind_f64 (tick : Nat) : (m.claim tick a .f64).kind b = if b / 2 = a / 2 then .f64 else m.kind b := by
  rw [if_congr pair_members rfl rfl]
  exact Tab.get_put_put _ _ _ _ _ _

/-- The other member of the pair. -/
theorem other_member {a b : Nat} (h : b / 2 = a / 2) (hne : b ≠ a) : (if a % 2 = 0 then a + 1 else a - 1) = b := by split <;> omega

variable {m a b} {k : AKind}

/-- A kind of 32 bits takes the accumulator alone. -/
theorem Matrix.claim_kind_same (tick : Nat) (hk : k ≠ .f64) : (m.claim tick a k).kind a = k := by
  cases k with
  | f64 => exact absurd rfl hk
  | f32 | i32 => exact Tab.get_put_same _ _ _ _

/-- A pair that it breaks leaves its other member f32. -/
theorem Matrix.claim_breaks (tick : Nat) (hk : k ≠ .f64) (hpair : m.kind a = .f64) (hb : b / 2 = a / 2) (hne : b ≠ a) :
    (m.claim tick a k).kind b = .f32 := by
  have hother : (m.claim tick a k).akind = Tab.put (Tab.put m.akind b .f32) a k := by
    cases k with
    | f64 => exact absurd rfl hk
    | f32 | i32 => simp only [Matrix.claim, hpair, if_true, other_member hb hne]
  rw [Matrix.kind, hother, Tab.get_put_other _ _ _ _ _ hne.symm, Tab.get_put_same]

/-- Another accumulator that no broken pair holds keeps its kind and words. -/
theorem Matrix.claim_other (tick : Nat) (hk : k ≠ .f64) (hne : b ≠ a) (h : m.kind a ≠ .f64 ∨ b / 2 ≠ a / 2) :
    (m.claim tick a k).kind b = m.kind b ∧ (m.claim tick a k).words b = m.words b := by
  have hclaim : m.claim tick a k = (let o := if a % 2 = 0 then a + 1 else a - 1
      let m := if m.kind a = .f64 then { m with akind := Tab.put m.akind o .f32, acc := Tab.put m.acc o (freeWords tick o) } else m
      { m with akind := Tab.put m.akind a k }) := by
    cases k with
    | f64 => exact absurd rfl hk
    | f32 | i32 => rfl
  rw [hclaim]
  dsimp only
  rw [Matrix.kind, Tab.get_put_other _ _ _ _ _ hne.symm, Matrix.words_eq]
  split
  · next hpair =>
    have hapart : (if a % 2 = 0 then a + 1 else a - 1) ≠ b := by
      have := h.resolve_left (not_not_intro hpair)
      split <;> omega
    exact ⟨Tab.get_put_other _ _ _ _ _ hapart, congrArg (padded 0) (Tab.get_put_other _ _ _ _ _ hapart)⟩
  · exact ⟨rfl, rfl⟩

/-- `claim` and `zero` by a command that sets contents (R182, R185, R192). -/
theorem Matrix.claim_zero_zeroedIn (m : Matrix) (tick a : Nat) (k : AKind) : m.ZeroedIn a k ((m.claim tick a k).zero a k) := by
  have hsums (b : Nat) : (m.claim tick a k).sums b = m.sums b := by rw [Matrix.claim_frame]; rfl
  have hpoisoned (b : Nat) : (m.claim tick a k).poisoned b = m.poisoned b := by rw [Matrix.claim_frame]; rfl
  refine ⟨?_, ?_, fun b hb => ⟨?_, ?_⟩, fun b hb hne hk => ⟨?_, ?_, fun hpair => ?_, fun hpair => ⟨?_, ?_⟩⟩, fun b hb => ?_⟩
  · rw [Matrix.zero_kind]
    by_cases hk : k = .f64
    · rw [hk, Matrix.claim_kind_f64, if_pos rfl]
    · exact Matrix.claim_kind_same tick hk
  · rw [Matrix.zero_sums, Matrix.blank_sums, if_pos rfl]
  · rw [Matrix.zero_words, Matrix.blank_words, if_pos hb]
  · rw [Matrix.zero_poisoned, if_pos hb]
  · rw [Matrix.zero_poisoned, if_neg (by simp [hne, hk]), hpoisoned]
  · rw [Matrix.zero_sums, Matrix.blank_sums, if_neg hne, hsums]
  · rw [Matrix.zero_kind]
    exact Matrix.claim_breaks tick hk hpair hb hne
  · rw [Matrix.zero_kind]
    exact (Matrix.claim_other tick hk hne (.inl hpair)).1
  · rw [Matrix.zero_words, Matrix.blank_words, if_neg (by simp [hne, hk])]
    exact (Matrix.claim_other tick hk hne (.inl hpair)).2
  · have hne : b ≠ a := fun h => hb (by rw [h])
    have hapart : ¬(b = a ∨ (k = .f64 ∧ b / 2 = a / 2)) := by simp [hne, hb]
    rw [Matrix.zero_kind, Matrix.zero_words, Matrix.blank_words, if_neg hapart, Matrix.zero_poisoned, if_neg hapart, Matrix.zero_sums,
      Matrix.blank_sums, if_neg hne, hsums, hpoisoned]
    have hclaim : (m.claim tick a k).kind b = m.kind b ∧ (m.claim tick a k).words b = m.words b := by
      by_cases hk : k = .f64
      · subst hk
        exact ⟨by rw [Matrix.claim_kind_f64, if_neg hb], rfl⟩
      · exact Matrix.claim_other tick hk hne (.inr hb)
    exact ⟨hclaim.1, hclaim.2, rfl, rfl⟩

/-- `m'` is `m` but for what its accumulators hold. -/
def Matrix.SameButAcc (m m' : Matrix) : Prop := ∃ acc akind apsn isum, m' = { m with acc, akind, apsn, isum }

theorem Matrix.zero_sameButAcc (m : Matrix) (a : Nat) (k : AKind) : m.SameButAcc (m.zero a k) :=
  ⟨_, _, _, _, by rw [Matrix.zero_frame, Matrix.blank_frame]⟩

theorem Matrix.claim_zero_sameButAcc (m : Matrix) (tick a : Nat) (k : AKind) : m.SameButAcc ((m.claim tick a k).zero a k) :=
  ⟨_, _, _, _, by rw [Matrix.zero_frame, Matrix.blank_frame, Matrix.claim_frame]⟩

theorem Matrix.mzero_sameButAcc (m : Matrix) (tick a : Nat) : m.SameButAcc (m.mzero tick a) := by
  unfold Matrix.mzero
  split
  · split
    · exact m.claim_zero_sameButAcc tick a .f32
    · exact m.zero_sameButAcc a .f64
  · exact m.zero_sameButAcc a _

theorem Matrix.blank_blanked (m : Matrix) (a : Nat) : m.Blanked a (m.blank a (m.kind a)) := by
  refine ⟨?_, ?_, ?_, fun hk b hb => ?_, fun b hne hpair => ⟨?_, ?_, ?_⟩⟩
  · rw [Matrix.blank_frame]
  · rw [Matrix.blank_words, if_pos (.inl rfl)]
  · rw [Matrix.blank_sums, if_pos rfl]
  · rw [Matrix.blank_words, if_pos (.inr ⟨hk, hb⟩)]
  · rw [Matrix.blank_words, if_neg (by simp only [hne, hpair, or_self, not_false_eq_true])]
  · rw [Matrix.blank_sums, if_neg hne]
  · rw [Matrix.blank_frame]
    rfl

theorem Matrix.zero_blanked (m : Matrix) (a : Nat) : m.Blanked a (m.zero a (m.kind a)) ∧ (m.zero a (m.kind a)).poisoned a = false ∧
    (m.kind a = .f64 → ∀ b, b / 2 = a / 2 → (m.zero a (m.kind a)).poisoned b = false) := by
  obtain ⟨hkind, hwords, hsums, hpair, hothers⟩ := m.blank_blanked a
  refine ⟨⟨?_, ?_, ?_, fun hk b hb => ?_, fun b hne hb => ⟨?_, ?_, ?_⟩⟩, ?_, fun hk b hb => ?_⟩
  · rw [Matrix.zero_frame]
    exact hkind
  · rw [Matrix.zero_words, hwords]
  · rw [Matrix.zero_sums, hsums]
  · rw [Matrix.zero_words, hpair hk b hb]
  · rw [Matrix.zero_words, (hothers b hne hb).1]
  · rw [Matrix.zero_sums, (hothers b hne hb).2.1]
  · rw [Matrix.zero_poisoned, if_neg (by simp only [hne, hb, or_self, not_false_eq_true])]
  · rw [Matrix.zero_poisoned, if_pos (.inl rfl)]
  · rw [Matrix.zero_poisoned, if_pos (.inr ⟨hk, hb⟩)]

/-- An odd member of an f64 pair that an `mzero` names breaks the pair; every other accumulator keeps its kind (R184). -/
theorem Matrix.mzero_zeroedIn (m : Matrix) (tick a : Nat) :
    m.ZeroedIn a (if m.kind a = .f64 ∧ a % 2 = 1 then .f32 else m.kind a) (m.mzero tick a) := by
  by_cases hodd : m.kind a = .f64 ∧ a % 2 = 1
  · have hclaim : m.mzero tick a = (m.claim tick a .f32).zero a .f32 := by rw [Matrix.mzero, if_pos hodd.1, if_pos hodd.2]
    rw [if_pos hodd, hclaim]
    exact m.claim_zero_zeroedIn tick a .f32
  · have hzero : m.mzero tick a = m.zero a (m.kind a) := by
      unfold Matrix.mzero
      split
      · next hk => rw [if_neg (fun h => hodd ⟨hk, h⟩), hk]
      · rfl
    rw [if_neg hodd, hzero]
    obtain ⟨⟨-, hwords, hsums, hpair, hothers⟩, hpoisoned, hpairPoisoned⟩ := m.zero_blanked a
    have hself (b : Nat) (hb : b = a ∨ (m.kind a = .f64 ∧ b / 2 = a / 2)) :
        (m.zero a (m.kind a)).words b = List.replicate 4096 0 ∧ (m.zero a (m.kind a)).poisoned b = false := by
      obtain rfl | ⟨hk, hb⟩ := hb
      · exact ⟨hwords, hpoisoned⟩
      · exact ⟨hpair hk b hb, hpairPoisoned hk b hb⟩
    refine ⟨m.zero_kind a a _, hsums, hself, fun b hb hne hk => ?_, fun b hb => ?_⟩
    · obtain ⟨hw, hs, hp⟩ := hothers b hne (fun h => hk h.1)
      exact ⟨hp, hs, fun h => absurd h hk, fun _ => ⟨m.zero_kind a b _, hw⟩⟩
    · obtain ⟨hw, hs, hp⟩ := hothers b (fun h => hb (by rw [h])) (fun h => hb h.2)
      exact ⟨m.zero_kind a b _, hw, hp, hs⟩

end

end Sys2Proof.Machine
end

section
/-! PROOF. The events and the faults of the matrix array (06 R192, R196 to R198, R203). -/

namespace Sys2Proof.Machine

/-! ## Events posted -/

/-- Events numbered from `n` on. -/
def numbered (n : Nat) (l : List EvFlight) : List EvFlight :=
  (l.zip (List.range l.length)).map (fun e => { e.1 with id := n + e.2 })

theorem numbered_append (n : Nat) (l l' : List EvFlight) :
    numbered n (l ++ l') = numbered n l ++ numbered (n + l.length) l' := by
  rw [numbered, List.length_append, List.range_add, List.zip_append (List.length_range).symm, List.map_append]
  simp only [numbered, List.zip_map_right, List.map_map, Function.comp_def, Prod.map_fst, Prod.map_snd, id_eq, Nat.add_assoc]

/-- The live thread, if any, that command `f` of the acting core's array posts its events to (R192, R198). -/
def State.demandTarget (s : State) (f : MatF) : Option Nat :=
  s.keyOf s.myCore.home (targetSlot (s.taskOf s.myCore.home) f)

/-- The event that the array posts for command `f` (R197). -/
def State.arrayEvent (s : State) (f : MatF) (evk ring index : Nat) (cycle : Int) : EvFlight :=
  { id := 0, pkey := 0
    ev := { d0 := word (evk * 2 ^ 60 + ring * 2 ^ 57 + f.acc.toNat * 2 ^ 55 + index % 2 ^ 48)
            d1 := word ((s.taskOf s.myCore.home).role * 2 ^ 52 + (cycle % 2 ^ 48).toNat) }
    task := s.myCore.home, slot := targetSlot (s.taskOf s.myCore.home) f, ptask := s.myCore.home, pslot := 100 }

/-- `t` is past the posting of the events `l`, which are on their way, or lost when their target has ended (R198). -/
structure Posts (s : State) (f : MatF) (l : List EvFlight) (t : State) : Prop where
  target : t.demandTarget f = s.demandTarget f
  sent : s.demandTarget f ≠ none →
    t.mx.evlost = s.mx.evlost ∧ t.evFlight = s.evFlight ++ numbered s.nextId l ∧ t.nextId = s.nextId + l.length
  lost : s.demandTarget f = none → t.evFlight = s.evFlight ∧ t.mx.evlost = (s.mx.evlost || l != [])

theorem MovesArray.demandTarget {s t : State} (h : MovesArray s t) (f : MatF) : t.demandTarget f = s.demandTarget f := by
  rw [State.demandTarget, h.keyOf, h.taskOf, h.home]
  rfl

theorem MovesArray.arrayEvent {s t : State} (h : MovesArray s t) : t.arrayEvent = s.arrayEvent := by
  funext f evk ring index cycle
  simp only [State.arrayEvent, h.taskOf, h.home]

namespace Posts

variable {s t u : State} {f : MatF} {l l' : List EvFlight}

/-- Nothing is posted. -/
theorem none_of (target : t.demandTarget f = s.demandTarget f) (hlost : t.mx.evlost = s.mx.evlost) (hev : t.evFlight = s.evFlight)
    (hid : t.nextId = s.nextId) : Posts s f [] t :=
  ⟨target, fun _ => ⟨hlost, hev.trans (List.append_nil _).symm, hid⟩, fun _ => ⟨hev, hlost.trans (Bool.or_false _).symm⟩⟩

theorem withMx (s : State) {m : Matrix} (h : m.evlost = s.mx.evlost) : Posts s f [] (s.withMx m) :=
  none_of ((MovesArray.withMx s m).demandTarget f) (by rw [State.withMx_mx, h]) rfl rfl

theorem trans (h : Posts s f l t) (h' : Posts t f l' u) : Posts s f (l ++ l') u := by
  refine ⟨h'.target.trans h.target, fun live => ?_, fun ended => ?_⟩
  · obtain ⟨hlost, hev, hid⟩ := h.sent live
    obtain ⟨hlost', hev', hid'⟩ := h'.sent (h.target ▸ live)
    refine ⟨hlost'.trans hlost, ?_, ?_⟩
    · rw [hev', hev, hid, numbered_append, List.append_assoc]
    · rw [hid', hid, List.length_append, Nat.add_assoc]
  · obtain ⟨hev, hlost⟩ := h.lost ended
    obtain ⟨hev', hlost'⟩ := h'.lost (h.target.trans ended)
    refine ⟨hev'.trans hev, ?_⟩
    rw [hlost', hlost, Bool.or_assoc]
    cases l with
    | nil => rfl
    | cons _ _ => exact congrArg (s.mx.evlost || ·) (Bool.true_or _)

theorem then_withMx (h : Posts s f l t) {m : Matrix} (hm : m.evlost = t.mx.evlost) : Posts s f l (t.withMx m) :=
  List.append_nil l ▸ h.trans (.withMx t hm)

theorem of_withMx {m : Matrix} (hm : m.evlost = s.mx.evlost) (h : Posts (s.withMx m) f l t) : Posts s f l t :=
  (Posts.withMx s hm).trans h

end Posts

/-- `m'` is `m` but for EVLOST. -/
def Matrix.SameButLost (m m' : Matrix) : Prop := ∃ evlost, m' = { m with evlost }

theorem Matrix.SameButLost.trans {m m' m'' : Matrix} (h : m.SameButLost m') (h' : m'.SameButLost m'') : m.SameButLost m'' := by
  obtain ⟨_, rfl⟩ := h
  obtain ⟨x, rfl⟩ := h'
  exact ⟨x, rfl⟩

section
variable (s : State) (f : MatF)

/-- A posting moves EVLOST alone of the array. -/
theorem postMatrix_moves (evk ring index cyc : Nat) : MovesArray s (postMatrix s f evk ring index cyc) ∧
    s.mx.SameButLost (postMatrix s f evk ring index cyc).mx := by
  simp only [postMatrix]
  split
  · rw [State.modMx_eq, State.withMx_mx]
    exact ⟨.withMx s _, true, rfl⟩
  · exact ⟨⟨rfl, rfl, rfl, rfl, rfl, rfl, rfl⟩, s.mx.evlost, rfl⟩

theorem postMatrix_posts (evk ring index cyc : Nat) :
    Posts s f [s.arrayEvent f evk ring index cyc] (postMatrix s f evk ring index cyc) := by
  refine ⟨(postMatrix_moves s f evk ring index cyc).1.demandTarget f, fun live => ?_, fun ended => ?_⟩
  · have hcyc : ((cyc : Int) % 2 ^ 48).toNat = cyc % 2 ^ 48 := by omega
    have hpost : postMatrix s f evk ring index cyc = { s with
        nextId := s.nextId + 1
        evFlight := s.evFlight ++ [{ s.arrayEvent f evk ring index cyc with id := s.nextId }] } := by
      rw [postMatrix, if_neg (by rwa [Option.isNone_iff_eq_none]), State.arrayEvent, hcyc]
    rw [hpost]
    exact ⟨rfl, rfl, rfl⟩
  · have hpost : postMatrix s f evk ring index cyc = s.withMx { s.mx with evlost := true } :=
      if_pos (Option.isNone_iff_eq_none.mpr ended)
    rw [hpost, State.withMx_mx]
    exact ⟨rfl, (Bool.or_true _).symm⟩

theorem State.arrayEvent_emod (evk ring index : Nat) (cycle : Int) :
    s.arrayEvent f evk ring index ((cycle % 2 ^ 48).toNat : Nat) = s.arrayEvent f evk ring index cycle := by
  have h : (((cycle % 2 ^ 48).toNat : Nat) : Int) % 2 ^ 48 = cycle % 2 ^ 48 := by omega
  rw [State.arrayEvent, h]
  rfl

/-! ## Demand (R196) -/

/-- The demand for the `n` beats from `lo` on of a ring whose head slot is that of beat `b`: those whose slots it does not hold. -/
def State.demands (evk ring b lo n : Nat) : List EvFlight :=
  ((List.range' lo n).filter (fun j => decide ((s.myCore.ring ring).count ≤ j - b))).map
    (fun j => s.arrayEvent f evk ring j (s.mx.s0 + ((j + s.mx.slipk) * beatLen f.mfmt.toNat : Nat)))

/-- An array that starts and slips as before posts the same demand. -/
theorem MovesArray.demands {s t : State} (h : MovesArray s t) (hs0 : t.mx.s0 = s.mx.s0) (hslip : t.mx.slipk = s.mx.slipk) :
    t.demands f = s.demands f := by
  funext evk ring b lo n
  rw [State.demands, h.ring, hs0, hslip, h.arrayEvent]
  rfl

theorem demandRing_moves (evk ring b lo n : Nat) : MovesArray s (demandRing s f evk ring b lo n) ∧
    s.mx.SameButLost (demandRing s f evk ring b lo n).mx := by
  induction n with
  | zero => exact ⟨.refl s, s.mx.evlost, rfl⟩
  | succ n ih =>
    obtain ⟨hmoves, hmx⟩ := ih
    simp only [demandRing]
    split
    · obtain ⟨hmoves', hmx'⟩ := postMatrix_moves (demandRing s f evk ring b lo n) f evk ring (lo + n) _
      exact ⟨hmoves.trans hmoves', hmx.trans hmx'⟩
    · exact ⟨hmoves, hmx⟩

theorem demandRing_posts (evk ring b lo n : Nat) : Posts s f (s.demands f evk ring b lo n) (demandRing s f evk ring b lo n) := by
  induction n with
  | zero => exact .none_of rfl rfl rfl rfl
  | succ n ih =>
    obtain ⟨hmoves, _, hmx⟩ := demandRing_moves s f evk ring b lo n
    have hs0 : (demandRing s f evk ring b lo n).mx.s0 = s.mx.s0 := by rw [hmx]
    have hslip : (demandRing s f evk ring b lo n).mx.slipk = s.mx.slipk := by rw [hmx]
    have hsplit : s.demands f evk ring b lo (n + 1) = s.demands f evk ring b lo n ++ s.demands f evk ring b (lo + n) 1 := by
      simp only [State.demands, List.range'_1_concat, List.filter_append, List.map_append]
      rfl
    rw [hsplit, demandRing, hmoves.ring]
    refine ih.trans ?_
    rw [← hmoves.demands f hs0 hslip]
    by_cases hpresent : (s.myCore.ring ring).count ≤ lo + n - b
    · rw [if_pos hpresent]
      have hone : (demandRing s f evk ring b lo n).demands f evk ring b (lo + n) 1 = [(demandRing s f evk ring b lo n).arrayEvent f evk ring
          (lo + n) ((demandRing s f evk ring b lo n).mx.s0 +
            ((lo + n + (demandRing s f evk ring b lo n).mx.slipk) * beatLen f.mfmt.toNat : Nat))] := by
        simp [State.demands, hmoves.ring, hpresent]
      rw [hone, ← State.arrayEvent_emod]
      exact postMatrix_posts _ f _ _ _ _
    · rw [if_neg hpresent]
      have hone : (demandRing s f evk ring b lo n).demands f evk ring b (lo + n) 1 = [] := by
        simp [State.demands, hmoves.ring, hpresent]
      rw [hone]
      exact .none_of rfl rfl rfl rfl

/-- The beats below `h`, and below N, that a lookahead reaches. -/
def lookLimit (f : MatF) (h : Nat) : Nat := if f.count = 0 then h else min h f.count.toNat

/-- The demand of both rings for beats that were never looked at, from beat `b` on. -/
def State.bothDemands (b hiA hiB : Nat) : List EvFlight :=
  s.demands f 1 f.ra.toNat b (max s.mx.seenA b) (lookLimit f hiA - max s.mx.seenA b) ++
    s.demands f 2 f.rb.toNat b (max s.mx.seenB b) (lookLimit f hiB - max s.mx.seenB b)

theorem demand_moves (b hiA hiB : Nat) : MovesArray s (demand s f b hiA hiB) ∧ ∃ evlost, (demand s f b hiA hiB).mx =
    { s.mx with evlost, seenA := max s.mx.seenA (lookLimit f hiA), seenB := max s.mx.seenB (lookLimit f hiB) } := by
  obtain ⟨hA, hmxA⟩ := demandRing_moves s f 1 f.ra.toNat b (max s.mx.seenA b) (lookLimit f hiA - max s.mx.seenA b)
  obtain ⟨hB, hmxB⟩ := demandRing_moves (demandRing s f 1 f.ra.toNat b (max s.mx.seenA b) (lookLimit f hiA - max s.mx.seenA b)) f 2
    f.rb.toNat b (max s.mx.seenB b) (lookLimit f hiB - max s.mx.seenB b)
  obtain ⟨x, hmx⟩ := hmxA.trans hmxB
  exact ⟨(hA.trans hB).trans (.withMx _ _), x, (State.withMx_mx _ _).trans (congrArg (fun m : Matrix =>
    { m with seenA := max m.seenA (lookLimit f hiA), seenB := max m.seenB (lookLimit f hiB) }) hmx)⟩

theorem demand_posts (b hiA hiB : Nat) : Posts s f (s.bothDemands f b hiA hiB) (demand s f b hiA hiB) := by
  obtain ⟨hA, _, hmxA⟩ := demandRing_moves s f 1 f.ra.toNat b (max s.mx.seenA b) (lookLimit f hiA - max s.mx.seenA b)
  have hB := demandRing_posts (demandRing s f 1 f.ra.toNat b (max s.mx.seenA b) (lookLimit f hiA - max s.mx.seenA b)) f 2
    f.rb.toNat b (max s.mx.seenB b) (lookLimit f hiB - max s.mx.seenB b)
  rw [hA.demands f (by rw [hmxA]) (by rw [hmxA])] at hB
  exact ((demandRing_posts s f 1 f.ra.toNat b _ _).trans hB).then_withMx rfl

end

/-! ## Faults (R203) -/

/-- A fault of the acting core's array reaches the anchor, with the record `w`, and no other thread. -/
def Reaches (s : State) (cause : Nat) (w : Word) (t : State) : Prop :=
  ∃ x : FaultRec, x.cause = cause ∧ x.source = 5 ∧ x.retry = .array s.cur.m ∧ x.detail = w ∧
    (t.thr (thrKey s.cur.m 0)).waiting = (s.thr (thrKey s.cur.m 0)).waiting ++ [x] ∧ ∀ q, q ≠ thrKey s.cur.m 0 → t.thr q = s.thr q

theorem raise_reaches (s : State) {cause : Nat} {w : Word} {x : FaultRec} (hcause : x.cause = cause) (hsource : x.source = 5)
    (hretry : x.retry = .array s.cur.m) (hdetail : x.detail = w) : Reaches s cause w (s.raise (anchorKey s.cur.m) x) :=
  ⟨x, hcause, hsource, hretry, hdetail, congrArg Thread.waiting (State.setThr_thr_same _ _ _),
    fun _ hq => State.setThr_thr_other _ _ _ _ (Ne.symm hq)⟩

theorem raiseMatrix_none {s : State} (h : s.mx.pend = none) : raiseMatrix s = s := by rw [raiseMatrix, h]

/-- A fault waits for the drains in progress. -/
theorem raiseMatrix_waits {s : State} (h : s.mx.drains ≠ []) : raiseMatrix s = s := by
  unfold raiseMatrix
  split
  · exact if_neg h
  · rfl

/-- `t` is `s` past the raising of the array's fault. -/
structure Raised (s : State) (cause : Nat) (w : Word) (t : State) : Prop where
  core : t.myCore = { s.myCore with matrix := { s.mx with pend := none } }
  mem : t.mem = s.mem
  tasks : t.tasks = s.tasks
  evFlight : t.evFlight = s.evFlight
  reaches : Reaches s cause w t

theorem raiseMatrix_raised {s : State} {cause : Nat} {w : Word} (h : s.mx.pend = some (cause, w)) (hdrains : s.mx.drains = []) :
    Raised s cause w (raiseMatrix s) := by
  have hraise : raiseMatrix s = (s.withMx { s.mx with pend := none }).raise (anchorKey s.cur.m)
      (mkFault s (anchorKey s.cur.m) cause 5 w w (.array s.cur.m)) := by
    rw [raiseMatrix, h]
    exact if_pos hdrains
  rw [hraise]
  exact ⟨State.withMx_myCore s _, rfl, rfl, rfl, raise_reaches (s.withMx _) rfl rfl rfl rfl⟩

/-- `t` is `s` with its array stopped by a fault: it reaches the anchor, or waits for the drains in progress. -/
structure Faulted (s : State) (cause : Nat) (w : Word) (t : State) : Prop where
  mx : ∃ pend, t.mx = { s.mx with state := 3, pend }
  core : t.myCore = { s.myCore with matrix := t.mx, arrayFrozen := true }
  mem : t.mem = s.mem
  tasks : t.tasks = s.tasks
  raised : s.mx.drains = [] → t.mx.pend = none ∧ Reaches s cause w t
  waits : s.mx.drains ≠ [] → t.mx.pend = some (cause, w) ∧ t.threads = s.threads

theorem matrixFault_faulted {s : State} {f : MatF} (h : s.mx.cmd = some f) (cause ring index : Nat) :
    Faulted s cause (word (s.mx.mop * 2 ^ 61 + ring * 2 ^ 58 + f.acc.toNat * 2 ^ 56 + index % 2 ^ 48))
      (matrixFault s cause ring index) := by
  generalize hw : word (s.mx.mop * 2 ^ 61 + ring * 2 ^ 58 + f.acc.toNat * 2 ^ 56 + index % 2 ^ 48) = w
  let u := s.setCore s.cur.m { s.myCore with arrayFrozen := true, matrix := { s.mx with state := 3, pend := some (cause, w) } }
  have hfault : matrixFault s cause ring index = raiseMatrix u := by
    simp only [matrixFault, h, hw]
    rfl
  have hcore : u.myCore = { s.myCore with arrayFrozen := true, matrix := { s.mx with state := 3, pend := some (cause, w) } } :=
    State.setCore_core_same _ _ _
  have hmx : u.mx = { s.mx with state := 3, pend := some (cause, w) } := congrArg Core.matrix hcore
  rw [hfault]
  by_cases hdrains : s.mx.drains = []
  · obtain ⟨hcore', hmem, htasks, -, hreaches⟩ :=
      raiseMatrix_raised (s := u) (congrArg Matrix.pend hmx) ((congrArg Matrix.drains hmx).trans hdrains)
    rw [hmx, hcore] at hcore'
    have hmx' : (raiseMatrix u).mx = { s.mx with state := 3, pend := none } := congrArg Core.matrix hcore'
    exact ⟨⟨none, hmx'⟩, by rw [hmx', hcore'], hmem, htasks, fun _ => ⟨by rw [hmx'], hreaches⟩, fun hne => absurd hdrains hne⟩
  · rw [raiseMatrix_waits (s := u) (by rw [hmx]; exact hdrains)]
    exact ⟨⟨some (cause, w), hmx⟩, by rw [hmx, hcore], rfl, rfl, fun he => absurd he hdrains, fun _ => ⟨by rw [hmx], rfl⟩⟩

end Sys2Proof.Machine
end

section
/-! PROOF. The commands of the matrix array: how a row hands one over, and what the array does as it accepts it (06 R180 to R193). -/

namespace Sys2Proof.Machine

/-! ## Hand-over (R180) -/

/-- The command of row `r` waits for the array. -/
def Core.Waits (c : Core) (r : Nat) : Prop := (c.row r).handed = true ∧ (c.row r).taken = false

/-- The array takes an occupying command. -/
def Matrix.Free (m : Matrix) : Prop := m.cmd = none ∧ m.state ≠ 3 ∧ m.state ≠ 2

theorem Matrix.accepts_iff (m : Matrix) : m.accepts = true ↔ m.Free := by
  simp [Matrix.accepts, Matrix.Free, and_assoc]

/-- `s` with the command of row `r` taken. -/
def State.took (s : State) (r : Nat) : State :=
  s.setCore s.cur.m (s.myCore.setRow r { s.myCore.row r with taken := true, handed := false })

@[simp] theorem State.took_myCore (s : State) (r : Nat) :
    (s.took r).myCore = s.myCore.setRow r { s.myCore.row r with taken := true, handed := false } := State.setCore_core_same _ _ _
@[simp] theorem State.took_mx (s : State) (r : Nat) : (s.took r).mx = s.mx :=
  (congrArg Core.matrix (s.took_myCore r)).trans rfl
theorem State.took_demandTarget (s : State) (r : Nat) (f : MatF) : (s.took r).demandTarget f = s.demandTarget f := by
  rw [State.demandTarget, State.took_myCore]
  rfl
theorem State.took_arrayEvent (s : State) (r : Nat) : (s.took r).arrayEvent = s.arrayEvent := by
  funext f evk ring index cycle
  rw [State.arrayEvent, State.took_myCore]
  rfl

theorem Core.waits_iff (c : Core) (r : Nat) : ((c.row r).handed && !(c.row r).taken) = true ↔ c.Waits r := by
  simp [Core.Waits]

theorem Core.waitingRow_eq_none {c : Core} : c.waitingRow = none ↔ ∀ r < 4, ¬c.Waits r := by
  simp only [Core.waitingRow, List.find?_eq_none, List.mem_range, c.waits_iff]

theorem Core.waitingRow_eq_some {c : Core} {r : Nat} : c.waitingRow = some r ↔ r < 4 ∧ c.Waits r ∧ ∀ q < r, ¬c.Waits q := by
  simp only [Core.waitingRow, List.find?_range_eq_some, c.waits_iff, List.mem_range, Bool.not_eq_true', ← Bool.not_eq_true]
  tauto

/-- No row below `k` waits. -/
theorem Core.lowest_iff {c : Core} {k : Nat} :
    c.waitingRow.all (fun r => decide (k ≤ r)) = true ↔ ∀ q < 4, q < k → ¬c.Waits q := by
  cases h : c.waitingRow with
  | none => simpa using fun q hq _ => Core.waitingRow_eq_none.mp h q hq
  | some r =>
    obtain ⟨hr, hwaits, hbelow⟩ := Core.waitingRow_eq_some.mp h
    simp only [Option.all_some, decide_eq_true_eq]
    constructor
    · exact fun hk q _ hq => hbelow q (by omega)
    · exact fun hnone => Nat.le_of_not_lt fun hlt => hnone r hr hlt hwaits

section
variable {s : State} {i : Instr} {mop : Nat} {f : MatF} (hi : commandOf i = some (mop, f))
include hi

theorem exec_command : exec i s = .next (handOver mop f s) := by
  unfold commandOf at hi
  split at hi
  case h_6 => cases hi
  all_goals cases hi; rfl

theorem exec_command_taken (h : s.myRow.taken = true) : exec i s = .next s := by rw [exec_command hi, handOver, if_pos h]

/-- The array has another command, is stopped, or a lower row comes first. -/
theorem exec_command_waits (h : s.myRow.taken = false) (hbusy : ¬s.mx.Free ∨ ∃ q < 4, q < s.cur.row ∧ s.myCore.Waits q) :
    exec i s = .next (s.setCore s.cur.m (s.myCore.setRow s.cur.row { s.myRow with handed := true })) := by
  have hno : ¬(s.mx.accepts && s.myCore.waitingRow.all (fun r => decide (s.cur.row ≤ r))) = true := by
    rw [Bool.and_eq_true, Matrix.accepts_iff, Core.lowest_iff]
    rintro ⟨hfree, hlowest⟩
    obtain hbusy | ⟨q, hq, hlt, hwaits⟩ := hbusy
    · exact hbusy hfree
    · exact hlowest q hq hlt hwaits
  rw [exec_command hi, handOver, if_neg (by rw [h]; exact Bool.false_ne_true), if_neg hno]
  rfl

theorem exec_command_taken_now (hfree : s.mx.Free) (h : s.myRow.taken = false) (hlowest : ∀ q < 4, q < s.cur.row → ¬s.myCore.Waits q) :
    exec i s = .next (takeCommand (s.took s.cur.row) mop f) := by
  have hyes : (s.mx.accepts && s.myCore.waitingRow.all (fun r => decide (s.cur.row ≤ r))) = true := by
    rw [Bool.and_eq_true, Matrix.accepts_iff, Core.lowest_iff]
    exact ⟨hfree, hlowest⟩
  rw [exec_command hi, handOver, if_neg (by rw [h]; exact Bool.false_ne_true), if_pos hyes]
  rfl

theorem exec_accept_takes (hfree : s.mx.Free) {r : Nat} {sync : Bool} (hr : r < 4) (hwaits : s.myCore.Waits r)
    (hlowest : ∀ q < r, ¬s.myCore.Waits q)
    (hcode : decodeBundle (s.myCore.bundle r (s.myCore.row r).pc) = .ok (.matrix sync i)) :
    exec .matrixCommandAccept s = .next (takeCommand (s.took r) mop f) := by
  have haccepts : ¬(!s.mx.accepts) = true := by rw [(Matrix.accepts_iff _).mpr hfree]; exact Bool.false_ne_true
  have hcommand : s.myCore.rowCommand r = some (mop, f) := by rw [Core.rowCommand, hcode]; exact hi
  show Host.Outcome.next (acceptWaiting s) = _
  rw [acceptWaiting, if_neg haccepts, Core.waitingRow_eq_some.mpr ⟨hr, hwaits, hlowest⟩]
  dsimp only
  rw [hcommand]
  rfl

end

theorem exec_accept_quiet {s : State} (h : ¬s.mx.Free ∨ ∀ r < 4, ¬s.myCore.Waits r) : exec .matrixCommandAccept s = .next s := by
  show Host.Outcome.next (acceptWaiting s) = _
  by_cases hfree : s.mx.Free
  · rw [acceptWaiting, Core.waitingRow_eq_none.mpr (h.resolve_left (not_not_intro hfree)), ite_self]
  · rw [acceptWaiting, if_pos (by rw [Bool.eq_false_iff.mpr (mt (Matrix.accepts_iff _).mp hfree)]; rfl)]

/-- The two ways in which the array takes command `i`: as its row hands it over, or when it is the lowest that waits. -/
def Ways (s : State) (i : Instr) (P : Nat → Host.Outcome State Fault Refusal → Prop) : Prop :=
  s.mx.Free →
    (s.myRow.taken = false → (∀ q < 4, q < s.cur.row → ¬s.myCore.Waits q) → P s.cur.row (exec i s)) ∧
    (∀ r < 4, ∀ sync, s.myCore.Waits r → (∀ q < r, ¬s.myCore.Waits q) →
      decodeBundle (s.myCore.bundle r (s.myCore.row r).pc) = .ok (.matrix sync i) → P r (exec .matrixCommandAccept s))

theorem ways_of_take {s : State} {i : Instr} {mop : Nat} {f : MatF} (hi : commandOf i = some (mop, f))
    {P : Nat → Host.Outcome State Fault Refusal → Prop} (h : ∀ r, P r (.next (takeCommand (s.took r) mop f))) : Ways s i P := by
  intro hfree
  refine ⟨fun htaken hlowest => ?_, fun r hr sync hwaits hlowest hcode => ?_⟩
  · rw [exec_command_taken_now hi hfree htaken hlowest]
    exact h _
  · rw [exec_accept_takes hi hfree hr hwaits hlowest hcode]
    exact h r

/-! ## Acceptance (R182) -/

/-- The words of the array as it has taken command `f`, operation `op`. -/
structure Matrix.Accepted (m : Matrix) (op : Nat) (f : MatF) (m' : Matrix) : Prop where
  cmd : m'.cmd = some f
  stopreq : m'.stopreq = false
  misscnt : m'.misscnt = m.misscnt
  mflags : m'.mflags = m.mflags
  mcopies : m'.mcopies = m.mcopies
  mop : m'.mop = op
  lastop : m'.lastop = op
  state : m'.state = if op = 4 then 2 else 1

/-- What an acceptance leaves as it was, and what it sets in row `r` and the array's words. -/
def AcceptFrame (s : State) (f : MatF) (r : Nat) (t : State) : Prop :=
  t.myCore.row r = { s.myCore.row r with taken := true, handed := false } ∧ (∀ q, q ≠ r → t.myCore.row q = s.myCore.row q) ∧
  t.mem = s.mem ∧ t.tasks = s.tasks ∧ t.mx.cmd = some f ∧ t.mx.stopreq = false ∧ t.mx.misscnt = s.mx.misscnt ∧ t.mx.mflags = s.mx.mflags ∧
  t.mx.mcopies = s.mx.mcopies ∧
  { t.myCore with matrix := s.mx, rows := s.myCore.rows, arrayFrozen := s.myCore.arrayFrozen } = s.myCore

theorem acceptFrame_of {s t : State} {op : Nat} {f : MatF} {r : Nat} {M : Matrix} (hM : s.mx.Accepted op f M) (hmem : t.mem = s.mem)
    (htasks : t.tasks = s.tasks) (hmx : ∃ state pend, t.mx = { M with state, pend })
    (hcore : ∃ arrayFrozen, t.myCore = { (s.took r).myCore with matrix := t.mx, arrayFrozen }) : AcceptFrame s f r t := by
  obtain ⟨_, hcore⟩ := hcore
  obtain ⟨_, _, hmx⟩ := hmx
  rw [State.took_myCore] at hcore
  rw [AcceptFrame, hcore, hmx]
  exact ⟨Core.setRow_row_same _ _ _, fun q hq => Core.setRow_row_other hq _ _, hmem, htasks, hM.cmd, hM.stopreq, hM.misscnt, hM.mflags,
    hM.mcopies, rfl⟩

/-- Command `i` is accepted as operation `mop`, and `post` holds of the state it leaves. -/
def AcceptsWith (s : State) (f : MatF) (i : Instr) (mop : Nat) (post : State → Prop) : Prop :=
  Ways s i (fun r o => ∃ t, o = .next t ∧ AcceptFrame s f r t ∧ t.mx.mop = mop ∧ t.mx.lastop = mop ∧
    t.mx.state = (if mop = 4 then 2 else 1) ∧ t.threads = s.threads ∧ (mop ≠ 3 → t.mx.flags = s.mx.flags) ∧
    t.myCore.arrayFrozen = s.myCore.arrayFrozen ∧ (mop ≠ 4 → t.evFlight = s.evFlight) ∧ post t)

theorem acceptsWith_of {s : State} {i : Instr} {mop : Nat} {f : MatF} {post : State → Prop} (hi : commandOf i = some (mop, f))
    (hmoves : ∀ r, MovesArray (s.took r) (takeCommand (s.took r) mop f))
    (hmx : ∀ r, s.mx.Accepted mop f (takeCommand (s.took r) mop f).mx)
    (hflags : mop ≠ 3 → ∀ r, (takeCommand (s.took r) mop f).mx.flags = s.mx.flags)
    (hevents : mop ≠ 4 → ∀ r, (takeCommand (s.took r) mop f).evFlight = s.evFlight)
    (hpost : ∀ r, post (takeCommand (s.took r) mop f)) : AcceptsWith s f i mop post := by
  refine ways_of_take hi fun r => ⟨_, rfl, ?_, (hmx r).mop, (hmx r).lastop, (hmx r).state, (hmoves r).threads, fun h => hflags h r, ?_,
    fun h => hevents h r, hpost r⟩
  · exact acceptFrame_of (hmx r) (hmoves r).mem (hmoves r).tasks ⟨_, _, rfl⟩ ⟨_, (hmoves r).core⟩
  · rw [(hmoves r).core, State.took_myCore]
    rfl

/-- The array stops at the acceptance of command `i` with a fault of index 0. -/
def FaultsWith (s : State) (f : MatF) (i : Instr) (mop cause ring : Nat) : Prop :=
  s.mx.drains = [] → Ways s i (fun r o => ∃ t x, o = .next t ∧ AcceptFrame s f r t ∧ t.mx.lastop = mop ∧ t.mx.flags = s.mx.flags ∧
    t.mx.state = 3 ∧ t.myCore.arrayFrozen = true ∧ x.cause = cause ∧ x.source = 5 ∧
    x.detail = word (mop * 2 ^ 61 + ring * 2 ^ 58 + f.acc.toNat * 2 ^ 56) ∧ x.retry = .array s.cur.m ∧
    (t.thr (thrKey s.cur.m 0)).waiting = (s.thr (thrKey s.cur.m 0)).waiting ++ [x] ∧ ∀ q, q ≠ thrKey s.cur.m 0 → t.thr q = s.thr q)

/-- An acceptance that ends in a fault of the array `M` it has reached. -/
theorem faultsWith_of {s : State} {i : Instr} {mop cause ring : Nat} {f : MatF} (hi : commandOf i = some (mop, f)) {M : Matrix}
    (htake : ∀ r, takeCommand (s.took r) mop f = matrixFault ((s.took r).withMx M) cause ring 0)
    (hmx : s.mx.Accepted mop f M) (hflags : M.flags = s.mx.flags) (hdrains : M.drains = s.mx.drains) : FaultsWith s f i mop cause ring := by
  intro hempty
  refine ways_of_take hi fun r => ?_
  have fault := matrixFault_faulted (s := (s.took r).withMx M) (by rw [State.withMx_mx]; exact hmx.cmd) cause ring 0
  rw [← htake r] at fault
  generalize takeCommand (s.took r) mop f = t at fault
  obtain ⟨-, x, hcause, hsource, hretry, hdetail, hwaiting, hothers⟩ := fault.raised (by rw [State.withMx_mx, hdrains, hempty])
  obtain ⟨pend, hM⟩ := fault.mx
  have hcore := fault.core
  rw [State.withMx_mx] at hM hdetail
  rw [State.withMx_myCore] at hcore
  refine ⟨t, x, rfl, acceptFrame_of hmx fault.mem fault.tasks ⟨3, pend, hM⟩ ⟨true, hcore⟩, ?_, ?_, ?_, ?_, hcause, hsource, ?_, hretry,
    hwaiting, hothers⟩
  · rw [hM]
    exact hmx.lastop
  · rw [hM]
    exact hflags
  · rw [hM]
  · rw [hcore]
  · rw [hdetail, hmx.mop, Nat.zero_mod, Nat.add_zero]

/-- The array with command `f` taken and its counts of pairs, beats and slips cleared. -/
def Matrix.taking (m : Matrix) (mop : Nat) (f : MatF) : Matrix :=
  { m with mop, cmd := some f, lastop := mop, state := if mop = 4 then 2 else 1, untimed := false, stopreq := false
           idx := 0, slipk := 0, period := 0, ndrain := 0, fin := false, seenA := 0, seenB := 0, pairs := 0, phase := .accepting }

theorem Matrix.taking_accepted (m : Matrix) (mop : Nat) (f : MatF) : m.Accepted mop f (m.taking mop f) := ⟨rfl, rfl, rfl, rfl, rfl, rfl, rfl, rfl⟩

/-- What accumulators hold is no part of it. -/
theorem Matrix.Accepted.of_sameButAcc {m m' m'' : Matrix} {mop : Nat} {f : MatF} (h : m.Accepted mop f m') (h' : m'.SameButAcc m'') :
    m.Accepted mop f m'' := by
  obtain ⟨_, _, _, _, rfl⟩ := h'
  exact ⟨h.cmd, h.stopreq, h.misscnt, h.mflags, h.mcopies, h.mop, h.lastop, h.state⟩

/-- A command that starts by itself, or at its STAMP; a start that is past is missed (R183). -/
def startCommand (u : State) (f : MatF) (next : State → Nat → State) : State :=
  if f.timed ∧ !u.mx.untimed then
    if stampOffset f u.cyc < 0 then matrixFault u 0x10 f.ra.toNat 0 else next u (u.cyc + (stampOffset f u.cyc).toNat)
  else next (u.modMx (fun m => { m with untimed := true })) (u.cyc + 1)

/-- The array waits in phase `p` for its start at `t`. -/
def waitFor (p : MPhase) (u : State) (t : Nat) : State := u.withMx { u.mx with phase := p, due := t, s0 := t }

theorem waitFor_withMx (p : MPhase) (s : State) (M : Matrix) (t : Nat) :
    waitFor p (s.withMx M) t = s.withMx { M with phase := p, due := t, s0 := t } := by
  rw [waitFor, State.withMx_mx, State.withMx_withMx]

section
variable (s : State) (f : MatF)

/-- What the array does once it has taken command `f`, as operation `op`. -/
def acceptTaken (u : State) (op : Nat) (f : MatF) : State :=
  let a := f.acc.toNat
  let k := akindOf f.mfmt.toNat
  if op = 1 then u.withMx { u.mx.mzero u.tick a with phase := .zeroing, due := u.cyc + 16 }
  else if op = 2 then u.withMx { u.mx with phase := .loadWait, due := u.cyc + 1 }
  else if op = 3 then
    if u.mx.kind a = .f64 ∧ (a % 2 = 1 ∨ (u.myCore.ring f.rd.toNat).slot ≠ 2) then matrixFault u 0x12 f.rd.toNat 0
    else u.withMx { u.mx.foldIf a with phase := .drainWait, due := u.cyc + 1 }
  else if op = 0 then
    let u := u.withMx { u.mx with beats := 0 }
    if f.accum ∧ u.mx.kind a ≠ k then matrixFault u 0x12 f.ra.toNat 0
    else startCommand (if f.accum then u else u.withMx ((u.mx.claim u.tick a k).zero a k)) f (waitFor .pairWait)
  else startCommand (u.withMx { (u.mx.claim u.tick a k).zero a k with
      dla := f.la.toNat, dlb := f.lb.toNat, beats := 0, slips := 0, evlost := false }) f
    (fun u t => demand (waitFor .attempt u t) f 0 f.la.toNat f.lb.toNat)

theorem takeCommand_eq (op : Nat) : takeCommand s op f = acceptTaken (s.withMx (s.mx.taking op f)) op f := by
  have htaking : (s.withMx { s.mx with
        mop := op, cmd := some f, lastop := op, state := if op = 4 then 2 else 1, untimed := false, stopreq := false }).modMx
      (fun m => { m with idx := 0, slipk := 0, period := 0, ndrain := 0, fin := false, seenA := 0, seenB := 0, pairs := 0,
                         phase := .accepting }) = s.withMx (s.mx.taking op f) := by
    rw [State.modMx_eq, State.withMx_mx, State.withMx_withMx]
    rfl
  rw [← htaking]
  rfl

theorem takeCommand_mzero : takeCommand s 1 f =
    s.withMx { (s.mx.taking 1 f).mzero s.tick f.acc.toNat with phase := .zeroing, due := s.cyc + 16 } := by
  rw [takeCommand_eq, acceptTaken, if_pos rfl, State.withMx_mx, State.withMx_withMx]
  rfl

theorem takeCommand_mload : takeCommand s 2 f = s.withMx { s.mx.taking 2 f with phase := .loadWait, due := s.cyc + 1 } := by
  rw [takeCommand_eq, acceptTaken, if_neg (by decide), if_pos rfl, State.withMx_mx, State.withMx_withMx]
  rfl

/-- An f64 drain by an odd member, or into a ring of small slots, is refused (R186). -/
def BadDrain : Prop := s.mx.kind f.acc.toNat = .f64 ∧ (f.acc.toNat % 2 = 1 ∨ (s.myCore.ring f.rd.toNat).slot ≠ 2)

theorem takeCommand_mdrain (h : ¬BadDrain s f) : takeCommand s 3 f =
    s.withMx { (s.mx.taking 3 f).foldIf f.acc.toNat with phase := .drainWait, due := s.cyc + 1 } := by
  rw [takeCommand_eq, acceptTaken, if_neg (by decide), if_neg (by decide), if_pos rfl, State.withMx_mx, State.withMx_myCore]
  exact (if_neg h).trans (State.withMx_withMx _ _ _)

theorem takeCommand_mdrain_refused (h : BadDrain s f) :
    takeCommand s 3 f = matrixFault (s.withMx (s.mx.taking 3 f)) 0x12 f.rd.toNat 0 := by
  rw [takeCommand_eq, acceptTaken, if_neg (by decide), if_neg (by decide), if_pos rfl, State.withMx_mx, State.withMx_myCore]
  exact if_pos h

/-- The array of an `mma` before its start. -/
def Matrix.readyMma (m : Matrix) (tick : Nat) (f : MatF) : Matrix :=
  let m' : Matrix := { m.taking 0 f with beats := 0 }
  let k := akindOf f.mfmt.toNat
  if f.accum then m' else (m'.claim tick f.acc.toNat k).zero f.acc.toNat k

theorem takeCommand_mma_refused (haccum : f.accum = true) (hkind : s.mx.kind f.acc.toNat ≠ akindOf f.mfmt.toNat) :
    takeCommand s 0 f = matrixFault (s.withMx { s.mx.taking 0 f with beats := 0 }) 0x12 f.ra.toNat 0 := by
  rw [takeCommand_eq, acceptTaken, if_neg (by decide), if_neg (by decide), if_neg (by decide), if_pos rfl, State.withMx_mx,
    State.withMx_withMx]
  dsimp only
  rw [State.withMx_mx]
  exact if_pos (And.intro haccum hkind)

theorem takeCommand_mma (h : ¬(f.accum = true ∧ s.mx.kind f.acc.toNat ≠ akindOf f.mfmt.toNat)) :
    takeCommand s 0 f = startCommand (s.withMx (s.mx.readyMma s.tick f)) f (waitFor .pairWait) := by
  rw [takeCommand_eq, acceptTaken, if_neg (by decide), if_neg (by decide), if_neg (by decide), if_pos rfl, State.withMx_mx,
    State.withMx_withMx]
  dsimp only
  rw [State.withMx_mx, State.withMx_withMx]
  refine (if_neg h).trans ?_
  rw [Matrix.readyMma]
  split <;> rfl

/-- The array of a `simmer` before its start. -/
def Matrix.readySimmer (m : Matrix) (tick : Nat) (f : MatF) : Matrix :=
  let k := akindOf f.mfmt.toNat
  { ((m.taking 4 f).claim tick f.acc.toNat k).zero f.acc.toNat k with
    dla := f.la.toNat, dlb := f.lb.toNat, beats := 0, slips := 0, evlost := false }

theorem takeCommand_simmer : takeCommand s 4 f = startCommand (s.withMx (s.mx.readySimmer s.tick f)) f
    (fun u t => demand (waitFor .attempt u t) f 0 f.la.toNat f.lb.toNat) := by
  rw [takeCommand_eq, acceptTaken, if_neg (by decide), if_neg (by decide), if_neg (by decide), if_neg (by decide), State.withMx_mx,
    State.withMx_withMx]
  rfl

end

/-! ## Starts (R183) -/

/-- The start nearest to the cycle that STAMP names. -/
theorem stampOffset_eq {f : MatF} {n : Nat} {T : Int} (h : (T - f.stamp.toNat) % 2 ^ 48 = 0) (hlo : (n : Int) - 2 ^ 47 ≤ T)
    (hhi : T < n + 2 ^ 47) : stampOffset f n = T - n := by
  have := f.stamp.isLt
  unfold stampOffset signedOf
  split <;> omega

section
variable {s : State} {f : MatF}

theorem startCommand_untimed (h : f.timed = false) (next : State → Nat → State) (M : Matrix) :
    startCommand (s.withMx M) f next = next (s.withMx { M with untimed := true }) (s.cyc + 1) := by
  rw [startCommand, if_neg (by simp [h]), State.modMx_eq, State.withMx_mx, State.withMx_withMx]
  rfl

theorem startCommand_timed (h : f.timed = true) (next : State → Nat → State) {M : Matrix} (hM : M.untimed = false) {T : Int}
    (hT : stampOffset f s.cyc = T - s.cyc) (hfuture : (s.cyc : Int) ≤ T) :
    startCommand (s.withMx M) f next = next (s.withMx M) T.toNat := by
  have hsum : s.cyc + (T - s.cyc).toNat = T.toNat := by omega
  rw [startCommand, if_pos (by simp [h, hM]), State.withMx_cyc, hT, if_neg (by omega), hsum]

theorem startCommand_missed (h : f.timed = true) (next : State → Nat → State) {M : Matrix} (hM : M.untimed = false) {T : Int}
    (hT : stampOffset f s.cyc = T - s.cyc) (hpast : T < s.cyc) :
    startCommand (s.withMx M) f next = matrixFault (s.withMx M) 0x10 f.ra.toNat 0 := by
  rw [startCommand, if_pos (by simp [h, hM]), State.withMx_cyc, hT, if_pos (by omega)]

end

/-- The array waits in phase `p` for its start at `T`. -/
def StartsAt (p : MPhase) (T : Int) (t : State) : Prop := t.mx.phase = p ∧ (t.mx.due : Int) = T ∧ t.mx.s0 = T ∧ t.mx.idx = 0

/-- Command `i` starts in the next cycle, or at the cycle its STAMP names, which is not past. -/
def TimedWith (s : State) (f : MatF) (i : Instr) (mop : Nat) (p : MPhase) (post : Int → State → Prop) : Prop :=
  (f.timed = false → AcceptsWith s f i mop (fun t => StartsAt p (s.cyc + 1) t ∧ post (s.cyc + 1) t)) ∧
  (∀ T : Int, f.timed = true → (T - f.stamp.toNat) % 2 ^ 48 = 0 → (s.cyc : Int) - 2 ^ 47 ≤ T → T < s.cyc + 2 ^ 47 →
    ((s.cyc : Int) ≤ T → AcceptsWith s f i mop (fun t => StartsAt p T t ∧ post T t)) ∧
    (T < s.cyc → FaultsWith s f i mop 0x10 f.ra.toNat))

/-- A command that is taken with the array as `M` and then starts. -/
theorem timedWith_of {s : State} {f : MatF} {i : Instr} {mop : Nat} {p : MPhase} {post : Int → State → Prop}
    (hi : commandOf i = some (mop, f)) {M : Matrix} {next : State → Nat → State}
    (htake : ∀ r, takeCommand (s.took r) mop f = startCommand ((s.took r).withMx M) f next)
    (hM : s.mx.Accepted mop f M) (huntimed : M.untimed = false) (hflags : M.flags = s.mx.flags) (hdrains : M.drains = s.mx.drains)
    (hnext : ∀ r untimed, ∀ T : Nat, let t := next ((s.took r).withMx { M with untimed }) T
      MovesArray (s.took r) t ∧ s.mx.Accepted mop f t.mx ∧ t.mx.flags = s.mx.flags ∧ (mop ≠ 4 → t.evFlight = s.evFlight) ∧
        StartsAt p T t ∧ post T t) : TimedWith s f i mop p post := by
  have accepts (untimed : Bool) (T : Nat)
      (hstart : ∀ r, takeCommand (s.took r) mop f = next ((s.took r).withMx { M with untimed }) T) :
      AcceptsWith s f i mop (fun t => StartsAt p T t ∧ post T t) := by
    have all (r : Nat) := hnext r untimed T
    simp only [← hstart] at all
    exact acceptsWith_of hi (fun r => (all r).1) (fun r => (all r).2.1) (fun _ r => (all r).2.2.1) (fun h r => (all r).2.2.2.1 h)
      (fun r => (all r).2.2.2.2)
  refine ⟨fun huntimed' => ?_, fun T htimed hstamp hlo hhi => ⟨fun hfuture => ?_, fun hpast => ?_⟩⟩
  · exact accepts true (s.cyc + 1) fun r => (htake r).trans (startCommand_untimed huntimed' next M)
  · obtain ⟨n, rfl⟩ := Int.eq_ofNat_of_zero_le (Int.le_trans (Int.natCast_nonneg _) hfuture)
    refine accepts false n fun r => ?_
    rw [htake r, startCommand_timed (s := s.took r) htimed next huntimed (stampOffset_eq hstamp hlo hhi) hfuture, ← huntimed]
    rfl
  · exact faultsWith_of hi
      (fun r => (htake r).trans (startCommand_missed htimed next huntimed (stampOffset_eq hstamp hlo hhi) hpast)) hM hflags hdrains

end Sys2Proof.Machine
end

section
/-! PROOF. Each command of the matrix array as it is accepted (06 R182 to R193), and the commands that an array in use takes (R188, R189,
R199). -/

namespace Sys2Proof.Machine

section
variable (s : State) (f : MatF)

/-! ## Commands that start at once or wait for a slot (R184 to R186) -/

/-- A command after which the array is `M`. -/
theorem acceptsWith_withMx {s : State} {i : Instr} {op : Nat} {f : MatF} {M : Matrix} (Q : Matrix → Prop) (hi : commandOf i = some (op, f))
    (htake : ∀ r, takeCommand (s.took r) op f = (s.took r).withMx M) (hM : s.mx.Accepted op f M)
    (hflags : op ≠ 3 → M.flags = s.mx.flags) (hpost : Q M) : AcceptsWith s f i op (fun t => Q t.mx) := by
  have hmx (r : Nat) : (takeCommand (s.took r) op f).mx = M := by rw [htake, State.withMx_mx]
  refine acceptsWith_of hi (fun r => ?_) (fun r => ?_) (fun h r => ?_) (fun _ r => ?_) (fun r => ?_)
  · rw [htake]
    exact .withMx _ M
  · rw [hmx]
    exact hM
  · rw [hmx]
    exact hflags h
  · rw [htake]
    rfl
  · rw [hmx]
    exact hpost

theorem mzero_accepts : AcceptsWith s f (.mzero f) 1 (fun t => t.mx.phase = .zeroing ∧ t.mx.due = s.cyc + 16 ∧
    s.mx.ZeroedIn f.acc.toNat (if s.mx.kind f.acc.toNat = .f64 ∧ f.acc.toNat % 2 = 1 then .f32 else s.mx.kind f.acc.toNat) t.mx) := by
  have hacc := (s.mx.taking 1 f).mzero_sameButAcc s.tick f.acc.toNat
  have haccepted := (s.mx.taking_accepted 1 f).of_sameButAcc hacc
  obtain ⟨_, _, _, _, hframe⟩ := hacc
  refine acceptsWith_withMx (M := { (s.mx.taking 1 f).mzero s.tick f.acc.toNat with phase := .zeroing, due := s.cyc + 16 })
    (fun m => m.phase = .zeroing ∧ m.due = s.cyc + 16 ∧ s.mx.ZeroedIn f.acc.toNat _ m) rfl
    (fun r => ?_) ?_ (fun _ => ?_) ⟨rfl, rfl, (s.mx.taking 1 f).mzero_zeroedIn s.tick f.acc.toNat⟩
  · rw [takeCommand_mzero, State.took_mx]
    rfl
  · exact { haccepted with }
  · rw [hframe]
    rfl

theorem mload_accepts : AcceptsWith s f (.mload f) 2 (fun t => t.mx.phase = .loadWait ∧ t.mx.due = s.cyc + 1 ∧
    t.mx.acc = s.mx.acc ∧ t.mx.akind = s.mx.akind ∧ t.mx.apsn = s.mx.apsn ∧ t.mx.isum = s.mx.isum) := by
  refine acceptsWith_withMx (M := { s.mx.taking 2 f with phase := .loadWait, due := s.cyc + 1 })
    (fun m => m.phase = .loadWait ∧ m.due = s.cyc + 1 ∧ m.acc = s.mx.acc ∧ m.akind = s.mx.akind ∧ m.apsn = s.mx.apsn ∧ m.isum = s.mx.isum)
    rfl (fun r => ?_) ?_ (fun _ => rfl) ⟨rfl, rfl, rfl, rfl, rfl, rfl⟩
  · rw [takeCommand_mload, State.took_mx]
    rfl
  · exact { s.mx.taking_accepted 2 f with }

theorem State.took_badDrain (r : Nat) : BadDrain (s.took r) f ↔ BadDrain s f := by
  rw [BadDrain, State.took_mx, State.took_myCore]
  rfl

theorem mdrain_accepts (h : ¬BadDrain s f) : AcceptsWith s f (.mdrain f) 3 (fun t => t.mx.phase = .drainWait ∧ t.mx.due = s.cyc + 1 ∧
    (s.mx.kind f.acc.toNat ≠ .i32 → t.mx.acc = s.mx.acc ∧ t.mx.akind = s.mx.akind ∧ t.mx.apsn = s.mx.apsn ∧ t.mx.isum = s.mx.isum) ∧
    (s.mx.kind f.acc.toNat = .i32 → t.mx.words f.acc.toNat = s.mx.added f.acc.toNat (s.mx.sums f.acc.toNat) ∧
      t.mx.flags = s.mx.flags ||| s.mx.wrapped f.acc.toNat (s.mx.sums f.acc.toNat) ∧
      t.mx.sums f.acc.toNat = List.replicate 4096 0 ∧
      ∀ b, b ≠ f.acc.toNat → t.mx.words b = s.mx.words b ∧ t.mx.sums b = s.mx.sums b)) := by
  have hframe := (s.mx.taking 3 f).foldIf_frame f.acc.toNat
  refine acceptsWith_withMx (M := { (s.mx.taking 3 f).foldIf f.acc.toNat with phase := .drainWait, due := s.cyc + 1 })
    (fun m => m.phase = .drainWait ∧ m.due = s.cyc + 1 ∧
    (s.mx.kind f.acc.toNat ≠ .i32 → m.acc = s.mx.acc ∧ m.akind = s.mx.akind ∧ m.apsn = s.mx.apsn ∧ m.isum = s.mx.isum) ∧
    (s.mx.kind f.acc.toNat = .i32 → m.words f.acc.toNat = s.mx.added f.acc.toNat (s.mx.sums f.acc.toNat) ∧
      m.flags = s.mx.flags ||| s.mx.wrapped f.acc.toNat (s.mx.sums f.acc.toNat) ∧ m.sums f.acc.toNat = List.replicate 4096 0 ∧
      ∀ b, b ≠ f.acc.toNat → m.words b = s.mx.words b ∧ m.sums b = s.mx.sums b)) rfl (fun r => ?_) ?_
    (fun h => absurd rfl h) ⟨rfl, rfl, fun hkind => ?_, fun hkind => ?_⟩
  · rw [takeCommand_mdrain _ _ (mt (s.took_badDrain f r).mp h), State.took_mx]
    rfl
  · rw [hframe]
    exact ⟨rfl, rfl, rfl, rfl, rfl, rfl, rfl, rfl⟩
  · rw [Matrix.foldIf_of_ne (m := s.mx.taking 3 f) hkind]
    exact ⟨rfl, rfl, rfl, rfl⟩
  · rw [Matrix.foldIf_i32 (m := s.mx.taking 3 f) hkind]
    obtain ⟨hwords, hsums, hflags, hothers⟩ := (s.mx.taking 3 f).fold_folded f.acc.toNat
    exact ⟨hwords, hflags, hsums, hothers⟩

theorem mdrain_refused (h : BadDrain s f) : FaultsWith s f (.mdrain f) 3 0x12 f.rd.toNat := by
  refine faultsWith_of rfl (fun r => ?_) (s.mx.taking_accepted 3 f) rfl rfl
  rw [takeCommand_mdrain_refused _ _ ((s.took_badDrain f r).mpr h), State.took_mx]

/-! ## `mma` (R182, R183) -/

theorem mma_refused (haccum : f.accum = true) (hkind : s.mx.kind f.acc.toNat ≠ akindOf f.mfmt.toNat) :
    FaultsWith s f (.mma f) 0 0x12 f.ra.toNat := by
  refine faultsWith_of (M := { s.mx.taking 0 f with beats := 0 }) rfl (fun r => ?_) { s.mx.taking_accepted 0 f with } rfl rfl
  rw [takeCommand_mma_refused _ _ haccum (by rwa [State.took_mx]), State.took_mx]

theorem Matrix.readyMma_sameButAcc (m : Matrix) (tick : Nat) : Matrix.SameButAcc { m.taking 0 f with beats := 0 } (m.readyMma tick f) := by
  unfold Matrix.readyMma
  dsimp only
  split
  · exact ⟨_, _, _, _, rfl⟩
  · exact Matrix.claim_zero_sameButAcc _ _ _ _

/-- An `mma` that is not refused starts with its accumulator as `readyMma` leaves it. -/
theorem mma_timed {post : Int → State → Prop} (h : ¬(f.accum = true ∧ s.mx.kind f.acc.toNat ≠ akindOf f.mfmt.toNat))
    (hpost : ∀ T t, t.mx.beats = 0 → (s.mx.readyMma s.tick f).SameAcc t.mx → post T t) :
    TimedWith s f (.mma f) 0 .pairWait post := by
  have hacc := s.mx.readyMma_sameButAcc f s.tick
  have hbegun : s.mx.Accepted 0 f { s.mx.taking 0 f with beats := 0 } := { s.mx.taking_accepted 0 f with }
  have haccepted := hbegun.of_sameButAcc hacc
  have hsame : (s.mx.readyMma s.tick f).untimed = false ∧ (s.mx.readyMma s.tick f).flags = s.mx.flags ∧
      (s.mx.readyMma s.tick f).drains = s.mx.drains ∧ (s.mx.readyMma s.tick f).idx = 0 ∧ (s.mx.readyMma s.tick f).beats = 0 := by
    obtain ⟨_, _, _, _, hframe⟩ := hacc
    rw [hframe]
    exact ⟨rfl, rfl, rfl, rfl, rfl⟩
  obtain ⟨huntimed, hflags, hdrains, hidx, hbeats⟩ := hsame
  refine timedWith_of (next := waitFor .pairWait) rfl (fun r => ?_) haccepted huntimed hflags hdrains fun r untimed T => ?_
  · rw [takeCommand_mma _ _ (by rwa [State.took_mx]), State.took_mx]
    rfl
  · dsimp only
    rw [waitFor_withMx]
    refine ⟨.withMx _ _, ?_, ?_, fun _ => rfl, ?_, hpost _ _ ?_ ?_⟩
    · rw [State.withMx_mx]
      exact { haccepted with }
    · rw [State.withMx_mx]
      exact hflags
    · rw [StartsAt, State.withMx_mx]
      exact ⟨rfl, rfl, rfl, hidx⟩
    · rw [State.withMx_mx]
      exact hbeats
    · rw [State.withMx_mx]
      exact ⟨rfl, rfl, rfl, rfl⟩

/-- What an accumulator of a kind and zeroed holds is no matter of the other words. -/
theorem Matrix.ZeroedIn.of_sameAcc {m m' m'' : Matrix} {a : Nat} {k : AKind} (h : m.ZeroedIn a k m') (h' : m'.SameAcc m'') :
    m.ZeroedIn a k m'' := by
  simpa only [Matrix.ZeroedIn, h'.kind, h'.words, h'.sums, h'.poisoned] using h

theorem mma_accumulates (haccum : f.accum = true) (hkind : s.mx.kind f.acc.toNat = akindOf f.mfmt.toNat) :
    TimedWith s f (.mma f) 0 .pairWait (fun _ t => t.mx.beats = 0 ∧ t.mx.acc = s.mx.acc ∧ t.mx.akind = s.mx.akind ∧
      t.mx.apsn = s.mx.apsn ∧ t.mx.isum = s.mx.isum) := by
  refine mma_timed s f (fun h => h.2 hkind) fun _ t hbeats hacc => ?_
  rw [Matrix.readyMma, if_pos haccum] at hacc
  exact ⟨hbeats, hacc.acc, hacc.akind, hacc.apsn, hacc.isum⟩

theorem mma_zeroes (haccum : f.accum = false) : TimedWith s f (.mma f) 0 .pairWait
    (fun _ t => t.mx.beats = 0 ∧ s.mx.ZeroedIn f.acc.toNat (akindOf f.mfmt.toNat) t.mx) := by
  refine mma_timed s f (fun h => by rw [haccum] at h; exact Bool.false_ne_true h.1) fun _ t hbeats hacc => ?_
  rw [Matrix.readyMma, if_neg (by rw [haccum]; exact Bool.false_ne_true)] at hacc
  exact ⟨hbeats, Matrix.ZeroedIn.of_sameAcc (Matrix.claim_zero_zeroedIn { s.mx.taking 0 f with beats := 0 } s.tick _ _) hacc⟩

/-! ## `simmer` (R192, R193, R196) -/

/-- The beats from `n` on. -/
theorem filter_range'_le (n L : Nat) : (List.range' 0 L).filter (fun j => decide (n ≤ j)) = List.range' n (L - n) := by
  induction L with
  | zero => rw [Nat.zero_sub]; rfl
  | succ L ih =>
    rw [List.range'_1_concat, List.filter_append, ih, Nat.zero_add]
    by_cases h : n ≤ L
    · have hlen : L + 1 - n = (L - n) + 1 := by omega
      rw [hlen, List.range'_1_concat, Nat.add_sub_cancel' h, List.filter_cons_of_pos (by simpa using h), List.filter_nil]
    · have hlen : L + 1 - n = 0 := by omega
      have hlen' : L - n = 0 := by omega
      rw [hlen, hlen', List.filter_cons_of_neg (by simpa using h)]
      rfl

theorem numbered_bne_nil (n : Nat) (l : List EvFlight) : (numbered n l != []) = (l != []) := by
  cases l with
  | nil => rfl
  | cons e l =>
    rw [numbered, List.length_cons, List.range_succ_eq_map]
    rfl

/-- The demand that a run which starts at `T` posts for one ring: each beat below the lookahead that the ring does not hold. -/
def State.firstDemands (T : Int) (evk : Nat) (ring : BitVec 3) (l : BitVec 4) : List EvFlight :=
  let n := (s.myCore.ring ring.toNat).count
  (List.range' n (lookLimit f l.toNat - n)).map (fun j =>
    { id := 0, pkey := 0
      ev := { d0 := word (evk * 2 ^ 60 + ring.toNat * 2 ^ 57 + f.acc.toNat * 2 ^ 55 + j)
              d1 := word ((s.taskOf s.myCore.home).role * 2 ^ 52 + ((T + j * beatLen f.mfmt.toNat) % 2 ^ 48).toNat) }
      task := s.myCore.home, slot := targetSlot (s.taskOf s.myCore.home) f, ptask := s.myCore.home, pslot := 100 })

variable {s f} in
/-- Nothing was looked at before the start. -/
theorem demands_first {u : State} (hring : u.myCore.rings = s.myCore.rings) (hevent : u.arrayEvent = s.arrayEvent) {T : Int}
    (hs0 : u.mx.s0 = T) (hslip : u.mx.slipk = 0) (evk : Nat) (ring : BitVec 3) (l : BitVec 4) :
    u.demands f evk ring.toNat 0 0 (lookLimit f l.toNat) = s.firstDemands f T evk ring l := by
  rw [State.demands, Core.ring, hring, hevent, hs0, hslip]
  simp only [Nat.sub_zero, filter_range'_le, State.firstDemands]
  refine List.map_congr_left fun j hj => ?_
  have hlimit : lookLimit f l.toNat ≤ l.toNat := by unfold lookLimit; split <;> omega
  have hj : j % 2 ^ 48 = j := by
    have := l.isLt
    have := List.mem_range'_1.mp hj
    omega
  rw [State.arrayEvent, hj, Nat.add_zero, Int.natCast_mul]

variable {s f} in
/-- A run begins: the array waits for its first attempt, and the demand of its lookahead is posted. -/
theorem run_begins {u : State} {M : Matrix} (hu : u.mx = M) (hring : u.myCore.rings = s.myCore.rings)
    (hevent : u.arrayEvent = s.arrayEvent) (htarget : u.demandTarget f = s.demandTarget f) (hflight : u.evFlight = s.evFlight)
    (hid : u.nextId = s.nextId) (hslip : M.slipk = 0) (hseenA : M.seenA = 0) (hseenB : M.seenB = 0) (hlost : M.evlost = false) (T : Nat) :
    let t := demand (waitFor .attempt u T) f 0 f.la.toNat f.lb.toNat
    let posted := numbered s.nextId (s.firstDemands f T 1 f.ra f.la ++ s.firstDemands f T 2 f.rb f.lb)
    MovesArray u t ∧ (∃ evlost seenA seenB, t.mx = { M with phase := .attempt, due := T, s0 := T, evlost, seenA, seenB }) ∧
      (s.demandTarget f ≠ none → t.evFlight = s.evFlight ++ posted ∧ t.mx.evlost = false) ∧
      (s.demandTarget f = none → t.evFlight = s.evFlight ∧ t.mx.evlost = (posted != [])) := by
  have hwait : MovesArray u (waitFor .attempt u T) := .withMx _ _
  have hmx : (waitFor .attempt u T).mx = { M with phase := .attempt, due := T, s0 := T } := by rw [waitFor, State.withMx_mx, hu]
  obtain ⟨hmoves, evlost, hmx'⟩ := demand_moves (waitFor .attempt u T) f 0 f.la.toNat f.lb.toNat
  obtain ⟨htarget', hsent, hlost'⟩ := demand_posts (waitFor .attempt u T) f 0 f.la.toNat f.lb.toNat
  have hfirst (evk : Nat) (ring : BitVec 3) (l : BitVec 4) :
      (waitFor .attempt u T).demands f evk ring.toNat 0 0 (lookLimit f l.toNat) = s.firstDemands f T evk ring l :=
    demands_first ((congrArg Core.rings hwait.core).trans hring) (hwait.arrayEvent.trans hevent) (by rw [hmx]) (by rw [hmx, hslip]) evk ring l
  have hseenA' : (waitFor .attempt u T).mx.seenA = 0 := by rw [hmx, hseenA]
  have hseenB' : (waitFor .attempt u T).mx.seenB = 0 := by rw [hmx, hseenB]
  have hkept : (waitFor .attempt u T).mx.evlost = false := by rw [hmx, hlost]
  rw [State.bothDemands, hseenA', hseenB', Nat.max_self, Nat.sub_zero, Nat.sub_zero, hfirst, hfirst, hwait.demandTarget, htarget,
    hkept] at hsent hlost'
  refine ⟨hwait.trans hmoves, ⟨evlost, _, _, by rw [hmx', hmx]⟩, fun live => ?_, fun ended => ?_⟩
  · obtain ⟨hlost, hev, -⟩ := hsent live
    exact ⟨by rw [hev, ← hflight, ← hid]; rfl, hlost⟩
  · obtain ⟨hev, hlost⟩ := hlost' ended
    exact ⟨by rw [hev, ← hflight]; rfl, by rw [hlost, numbered_bne_nil, Bool.false_or]⟩

theorem simmer_timed : TimedWith s f (.simmer f) 4 .attempt (fun T t => t.mx.beats = 0 ∧ t.mx.slips = 0 ∧ t.mx.dla = f.la.toNat ∧
    t.mx.dlb = f.lb.toNat ∧ s.mx.ZeroedIn f.acc.toNat (akindOf f.mfmt.toNat) t.mx ∧
    (let posted := numbered s.nextId (s.firstDemands f T 1 f.ra f.la ++ s.firstDemands f T 2 f.rb f.lb)
     (s.demandTarget f ≠ none → t.evFlight = s.evFlight ++ posted ∧ t.mx.evlost = false) ∧
     (s.demandTarget f = none → t.evFlight = s.evFlight ∧ t.mx.evlost = (posted != [])))) := by
  have hzeroed : s.mx.ZeroedIn f.acc.toNat (akindOf f.mfmt.toNat) (s.mx.readySimmer s.tick f) :=
    (s.mx.taking 4 f).claim_zero_zeroedIn s.tick f.acc.toNat (akindOf f.mfmt.toNat)
  have hready : ∃ acc akind apsn isum, s.mx.readySimmer s.tick f = { s.mx.taking 4 f with
      acc, akind, apsn, isum, dla := f.la.toNat, dlb := f.lb.toNat, beats := 0, slips := 0, evlost := false } := by
    obtain ⟨_, _, _, _, hframe⟩ := (s.mx.taking 4 f).claim_zero_sameButAcc s.tick f.acc.toNat (akindOf f.mfmt.toNat)
    exact ⟨_, _, _, _, by rw [Matrix.readySimmer, hframe]⟩
  obtain ⟨acc, akind, apsn, isum, hready⟩ := hready
  refine timedWith_of (M := s.mx.readySimmer s.tick f) (next := fun u t => demand (waitFor .attempt u t) f 0 f.la.toNat f.lb.toNat) rfl
    (fun r => ?_) (by rw [hready]; exact ⟨rfl, rfl, rfl, rfl, rfl, rfl, rfl, rfl⟩) (by rw [hready]; rfl) (by rw [hready]; rfl)
    (by rw [hready]; rfl) fun r untimed T => ?_
  · rw [takeCommand_simmer, State.took_mx]
    rfl
  · have hu := MovesArray.withMx (s.took r) { s.mx.readySimmer s.tick f with untimed }
    obtain ⟨hmoves, ⟨_, _, _, hmx⟩, hposts⟩ := run_begins (s := s) (f := f)
      (State.withMx_mx (s.took r) { s.mx.readySimmer s.tick f with untimed })
      (by rw [hu.core, State.took_myCore]; rfl) (hu.arrayEvent.trans (s.took_arrayEvent r))
      ((hu.demandTarget f).trans (s.took_demandTarget r f)) rfl rfl (by rw [hready]; rfl) (by rw [hready]; rfl) (by rw [hready]; rfl)
      (by rw [hready]) T
    refine ⟨hu.trans hmoves, ?_, ?_, fun h => absurd rfl h, ?_, ?_, ?_, ?_, ?_, hzeroed.of_sameAcc ?_, hposts⟩
    · rw [hmx, hready]
      exact ⟨rfl, rfl, rfl, rfl, rfl, rfl, rfl, rfl⟩
    · rw [hmx, hready]
      rfl
    · rw [StartsAt, hmx, hready]
      exact ⟨rfl, rfl, rfl, rfl⟩
    · rw [hmx, hready]
    · rw [hmx, hready]
    · rw [hmx, hready]
    · rw [hmx, hready]
    · rw [hmx]
      exact ⟨rfl, rfl, rfl, rfl⟩
end

/-! ## Commands that an array in use takes (R188, R189, R199) -/

section
variable (s : State)

theorem State.taken_withMx (m : Matrix) : (s.withMx m).taken =
    s.setCore s.cur.m ({ s.myCore with matrix := m }.setRow s.cur.row { s.myRow with taken := true }) := by
  have hrow : (s.withMx m).myRow = s.myRow := by rw [State.myRow, State.withMx_myCore]; rfl
  rw [State.taken, State.modMyRow_eq, hrow, State.withRow, State.withMx_myCore]
  exact State.setCore_setCore _ _ _ _

/-- A `simmer` is in flight that has not reached its end. -/
def Matrix.InRun (m : Matrix) : Prop := m.cmd ≠ none ∧ m.mop = 4 ∧ m.phase ≠ .ending

theorem Matrix.inRun_iff (m : Matrix) : (m.cmd.isSome && m.mop == 4 && m.phase != .ending) = true ↔ m.InRun := by
  simp only [Matrix.InRun, Bool.and_eq_true, Option.isSome_iff_ne_none, beq_iff_eq, bne_iff_ne, and_assoc]

theorem exec_simstop_run (h : s.mx.InRun) : exec .simstop s = .next (s.withMx { s.mx with stopreq := true }).taken :=
  congrArg (fun u => Host.Outcome.next (State.taken u)) (if_pos ((Matrix.inRun_iff _).mpr h))

theorem exec_simstop_idle (h : ¬s.mx.InRun) : exec .simstop s = .next s.taken :=
  congrArg (fun u => Host.Outcome.next (State.taken u)) (if_neg (mt (Matrix.inRun_iff _).mp h))

/-- The array with the copy of its flags that `mstat` takes. -/
def Matrix.copied (m : Matrix) (cyc : Nat) : Matrix :=
  { m with mflags := m.seenFlags cyc, mcopies := m.mcopies.filter (fun e => cyc < e.1) ++ [(cyc + 2, m.before cyc)] }

theorem exec_mstat : exec .mstat s = .next (s.withMx (s.mx.copied s.cyc)).taken := rfl
theorem exec_mfence : exec .mfence s = .next s.taken := rfl

/-- From two cycles on, `getcw` sees what was copied. -/
theorem Matrix.copied_seen (m : Matrix) {cyc n : Nat} (h : cyc + 2 ≤ n) : (m.copied cyc).seenFlags n = m.before cyc := by
  rw [Matrix.seenFlags, Matrix.copied, List.foldl_append, List.foldl_cons, List.foldl_nil, if_pos h]

/-- In the cycle of the copy it sees what it saw before. -/
theorem Matrix.copied_seen_now (m : Matrix) (cyc : Nat) : (m.copied cyc).seenFlags cyc = m.seenFlags cyc := by
  have hlater (f : Flags) : (m.mcopies.filter (fun e => decide (cyc < e.1))).foldl (fun f e => if e.1 ≤ cyc then e.2 else f) f = f := by
    refine List.foldlRecOn _ _ (motive := (· = f)) rfl fun x hx e he => ?_
    rw [if_neg (Nat.not_le.mpr (of_decide_eq_true (List.mem_filter.mp he).2))]
    exact hx
  rw [Matrix.seenFlags, Matrix.copied, List.foldl_append, hlater, List.foldl_cons, List.foldl_nil, if_neg (by omega)]

/-- No command in flight, no drain unpublished, STATE 0. -/
theorem Matrix.idle_iff (m : Matrix) : m.idle = true ↔ m.cmd = none ∧ m.drains = [] ∧ m.state = 0 := by
  simp only [Matrix.idle, Bool.and_eq_true, Option.isNone_iff_eq_none, beq_iff_eq, and_assoc]

/-- A row at an `mfence` waits until the array is idle. -/
theorem controlWaits_mfence {c : Core} {r : Nat} {sync : Bool} (h : decodeBundle (c.bundle r (c.row r).pc) = .ok (.matrix sync .mfence)) :
    controlWaits s c r = true ↔ ¬(c.matrix.cmd = none ∧ c.matrix.drains = [] ∧ c.matrix.state = 0) := by
  have hform : c.form r = some (.matrix sync .mfence) := by rw [Core.form, Core.here, h]
  have hcontrol : c.control r = none := by rw [Core.control, hform]
  have hop : c.matrixOp r = some .mfence := by rw [Core.matrixOp, hform]
  rw [← Matrix.idle_iff, controlWaits, hcontrol]
  simp [Core.fenced, hop]

end

/-- Settles O56: each command by the array it leaves as it is taken, in either way of taking it; what an array in use takes by its row. -/
theorem matrixCommands : Obligations.MatrixCommands := by
  unfold Obligations.MatrixCommands
  refine ⟨?_, ?_⟩
  · intro s f c m a k free waits ways frame accepts faults keeps zeroed starts timed
    refine ⟨fun i hi => ?_, exec_accept_quiet, mzero_accepts s f, mload_accepts s f, mdrain_accepts s f, mdrain_refused s f,
      mma_refused s f, mma_accumulates s f, mma_zeroes s f, simmer_timed s f⟩
    obtain ⟨op, hop⟩ : ∃ op, commandOf i = some (op, f) := by
      simp only [List.mem_cons, List.not_mem_nil, or_false] at hi
      obtain rfl | rfl | rfl | rfl | rfl := hi <;> exact ⟨_, rfl⟩
    exact ⟨exec_command_taken hop, exec_command_waits hop⟩
  · intro s c m becomes inRun now copied
    refine ⟨fun h => ?_, fun h => ?_, ?_, fun n => m.copied_seen, m.copied_seen_now s.cyc, ?_, fun r sync => controlWaits_mfence s⟩
    · exact (exec_simstop_run s h).trans (congrArg _ (s.taken_withMx _))
    · exact exec_simstop_idle s h
    · exact (exec_mstat s).trans (congrArg _ (s.taken_withMx _))
    · exact exec_mfence s

end Sys2Proof.Machine
end

section
/-! PROOF. What pairs, loads, releases and drains leave in the array and its scratchpad (06 R176, R179, R182, R185 to R187, R191; 03 R106 to
R111). -/

namespace Sys2Proof.Machine

/-! ## Elements that are set -/

section
variable (m : Matrix) (a b : Nat) {l : List Nat}

/-- New elements change words alone. -/
theorem Matrix.setElems_frame (k : AKind) (l : List Nat) : m.setElems a k l = { m with acc := (m.setElems a k l).acc } := by
  cases k <;> rfl

theorem Matrix.setElems_same {k : AKind} (hk : k ≠ .f64) (hl : l.length = 4096) :
    (m.setElems a k l).words a = l.map (BitVec.ofNat 32) := by
  have hacc : (m.setElems a k l).acc = Tab.put m.acc a (l.map (BitVec.ofNat 32)) := by
    cases k with
    | f64 => exact absurd rfl hk
    | f32 | i32 => rfl
  rw [Matrix.words_eq, hacc, Tab.get_put_same, padded_of_length _ (by rw [List.length_map, hl])]

theorem Matrix.setElems_acc_f64 (l : List Nat) : (m.setElems a .f64 l).acc =
    Tab.put (Tab.put m.acc (a / 2 * 2) (l.map (BitVec.ofNat 32))) (a / 2 * 2 + 1) (l.map (fun v => BitVec.ofNat 32 (v / 2 ^ 32))) := rfl

/-- An f64 element has its low half in the even member (01 R28). -/
theorem Matrix.setElems_pair (hl : l.length = 4096) :
    (m.setElems a .f64 l).words (a / 2 * 2) = l.map (BitVec.ofNat 32) ∧
    (m.setElems a .f64 l).words (a / 2 * 2 + 1) = l.map (fun v => BitVec.ofNat 32 (v / 2 ^ 32)) := by
  rw [Matrix.words_eq, Matrix.words_eq, Matrix.setElems_acc_f64, Tab.get_put_other _ _ _ _ _ (Nat.succ_ne_self _), Tab.get_put_same,
    Tab.get_put_same, padded_of_length _ (by rw [List.length_map, hl]), padded_of_length _ (by rw [List.length_map, hl])]
  exact ⟨rfl, rfl⟩

variable {a b} in
theorem Matrix.setElems_other {k : AKind} (l : List Nat) (hne : b ≠ a) (hpair : ¬(k = .f64 ∧ b / 2 = a / 2)) :
    (m.setElems a k l).words b = m.words b := by
  rw [Matrix.words_eq]
  cases k with
  | f64 =>
    have hout := mt pair_members.mpr (fun h => hpair ⟨rfl, h⟩)
    rw [not_or, evenOf] at hout
    rw [Matrix.setElems_acc_f64, Tab.get_put_other _ _ _ _ _ (Ne.symm hout.2), Tab.get_put_other _ _ _ _ _ (Ne.symm hout.1)]
    rfl
  | f32 | i32 =>
    refine congrArg (padded 0) (Tab.get_put_other _ _ _ _ _ hne.symm)

theorem Matrix.elems_f64 : m.elems a .f64 =
    ((m.words (a / 2 * 2)).zip (m.words (a / 2 * 2 + 1))).map (fun e => e.1.toNat + 2 ^ 32 * e.2.toNat) := rfl

theorem Matrix.elems_length (k : AKind) : (m.elems a k).length = 4096 := by
  cases k with
  | f64 => rw [Matrix.elems_f64, List.length_map, List.length_zip, Matrix.words_length, Matrix.words_length, Nat.min_self]
  | f32 | i32 => exact (List.length_map _).trans (m.words_length a)

end

theorem pieces_length {α : Type} (n k : Nat) (l : List α) : (pieces n k l).length = k := by
  induction k generalizing l with
  | zero => rfl
  | succ k ih => rw [pieces, List.length_cons, ih]

theorem tileRows_length (d : Word) (scales : List Byte) (mfmt : Nat) (payload : List Byte) : (tileRows d scales mfmt payload).length = 64 := by
  rw [tileRows, List.length_map, List.length_zip, pieces_length, List.length_range, Nat.min_self]

theorem crossRows_length {A B : List (List FVal)} (hA : A.length = 64) (hB : B.length = 64) : (crossRows A B).length = 4096 := by
  simp only [crossRows, List.length_flatMap, List.length_map, hB, List.map_const', List.sum_replicate, hA, smul_eq_mul]

/-! ## A pair of tiles (03 R108 to R111) -/

/-- Poison read by the array sets PSN and APSN (R191). -/
def Matrix.notePoison (m : Matrix) (a : Nat) (psn : Bool) : Matrix :=
  if psn then { m.addFlags fPSN with apsn := Tab.put m.apsn a true } else m

theorem Matrix.notePoison_frame (m : Matrix) (a : Nat) (psn : Bool) : m.notePoison a psn =
    { m with flags := m.flags ||| (if psn then fPSN else 0), apsn := (m.notePoison a psn).apsn } := by
  cases psn with
  | false => exact congrArg (fun flags => { m with flags }) BitVec.or_zero.symm
  | true => rfl

theorem Matrix.notePoison_same (m : Matrix) (a : Nat) (psn : Bool) : (m.notePoison a psn).poisoned a = (m.poisoned a || psn) := by
  cases psn with
  | false => exact (Bool.or_false _).symm
  | true => exact (Tab.get_put_same _ _ _ _).trans (Bool.or_true _).symm

theorem Matrix.notePoison_other (m : Matrix) {a b : Nat} (psn : Bool) (hne : b ≠ a) :
    (m.notePoison a psn).poisoned b = m.poisoned b := by
  cases psn with
  | false => rfl
  | true => exact Tab.get_put_other _ _ _ _ _ hne.symm

/-- The products of a pair of tiles with rows `A` and `B` enter the accumulator, or its inner sums (R108 to R111). -/
def Matrix.addPair (m : Matrix) (mf a : Nat) (A B : List (List FVal)) : Matrix :=
  let k := akindOf mf
  if k = .i32 then
    let m : Matrix := { m with isum := Tab.put m.isum a (innerPair A B (m.sums a)), pairs := m.pairs + 1 }
    if m.pairs % 4 = 0 then m.fold a else m
  else
    let r := accPair mf A B (m.elems a k)
    (m.setElems a k r.1).addFlags r.2

/-- `m'` is `m` past that pair. -/
def Matrix.Summed (m : Matrix) (mf a : Nat) (A B : List (List FVal)) (psn : Bool) (m' : Matrix) : Prop :=
  let k := akindOf mf
  let flags := m.flags ||| (if psn then fPSN else 0)
  let S := innerPair A B (m.sums a)
  let r := accPair mf A B (m.elems a k)
  m'.idx = m.idx ∧ m'.beats = m.beats ∧ m'.akind = m.akind ∧ m'.poisoned a = (m.poisoned a || psn) ∧
  (∀ b, b ≠ a → m'.poisoned b = m.poisoned b ∧ m'.sums b = m.sums b ∧ (¬(k = .f64 ∧ b / 2 = a / 2) → m'.words b = m.words b)) ∧
  (k = .i32 → m'.pairs = m.pairs + 1 ∧
    ((m.pairs + 1) % 4 ≠ 0 → m'.words a = m.words a ∧ m'.sums a = S ∧ m'.flags = flags) ∧
    ((m.pairs + 1) % 4 = 0 → m'.words a = m.added a S ∧ m'.sums a = List.replicate 4096 0 ∧ m'.flags = flags ||| m.wrapped a S)) ∧
  (k ≠ .i32 → m'.flags = flags ||| r.2 ∧ m'.sums a = m.sums a) ∧
  (k = .f32 → m'.words a = r.1.map (BitVec.ofNat 32)) ∧
  (k = .f64 → m'.words (a / 2 * 2) = r.1.map (BitVec.ofNat 32) ∧
    m'.words (a / 2 * 2 + 1) = r.1.map (fun v => BitVec.ofNat 32 (v / 2 ^ 32)))

section
variable (m : Matrix) {mf a : Nat} {A B : List (List FVal)}

theorem innerPair_length (hA : A.length = 64) (hB : B.length = 64) (a : Nat) : (innerPair A B (m.sums a)).length = 4096 := by
  rw [innerPair, List.length_map, List.length_zip, crossRows_length hA hB, Matrix.sums_length, Nat.min_self]

theorem accPair_length (hA : A.length = 64) (hB : B.length = 64) (k : AKind) :
    (accPair mf A B (m.elems a k)).1.length = 4096 := by
  simp only [accPair, List.length_map, List.length_zip, crossRows_length hA hB, Matrix.elems_length, Nat.min_self]

/-- A pair of i8 tiles before its fold: ISUM holds its sums. -/
def Matrix.withSums (a : Nat) (S : List Int) : Matrix := { m with isum := Tab.put m.isum a S, pairs := m.pairs + 1 }

theorem Matrix.withSums_same {S : List Int} (hS : S.length = 4096) : (m.withSums a S).sums a = S := by
  rw [Matrix.sums_eq, Matrix.withSums, Tab.get_put_same, padded_of_length _ hS]
theorem Matrix.withSums_other {b : Nat} (S : List Int) (hne : b ≠ a) : (m.withSums a S).sums b = m.sums b := by
  rw [Matrix.sums_eq, Matrix.withSums, Tab.get_put_other _ _ _ _ _ hne.symm]
  rfl

/-- An i8 pair adds to the inner sums; after every fourth they are folded (R111). -/
theorem Matrix.addPair_i32 (hk : akindOf mf = .i32) : m.addPair mf a A B =
    if (m.pairs + 1) % 4 = 0 then (m.withSums a (innerPair A B (m.sums a))).fold a else m.withSums a (innerPair A B (m.sums a)) := if_pos hk

/-- A floating pair adds to the elements. -/
theorem Matrix.addPair_float (hk : akindOf mf ≠ .i32) : m.addPair mf a A B =
    { m with acc := (m.setElems a (akindOf mf) (accPair mf A B (m.elems a (akindOf mf))).1).acc
             flags := m.flags ||| (accPair mf A B (m.elems a (akindOf mf))).2 } := by
  refine (if_neg hk).trans ?_
  rw [Matrix.setElems_frame]
  rfl

theorem Matrix.addPair_summed (hA : A.length = 64) (hB : B.length = 64) : m.Summed mf a A B false (m.addPair mf a A B) := by
  have hflags : m.flags ||| (if false = true then fPSN else 0) = m.flags := BitVec.or_zero
  rw [Matrix.Summed, hflags, Bool.or_false]
  by_cases hk : akindOf mf = .i32
  · rw [m.addPair_i32 hk]
    have hS := innerPair_length m hA hB a
    generalize innerPair A B (m.sums a) = S at hS
    have hkinds : akindOf mf ≠ .f32 ∧ akindOf mf ≠ .f64 := by rw [hk]; exact ⟨by decide, by decide⟩
    split
    · next hfold =>
      obtain ⟨hwords, hsums, hflags, hothers⟩ := (m.withSums a S).fold_folded a
      rw [m.withSums_same hS] at hwords hflags
      have hframe := (m.withSums a S).fold_eq a
      refine ⟨by rw [hframe]; rfl, by rw [hframe]; rfl, by rw [hframe]; rfl, by rw [hframe]; rfl, fun b hb => ⟨by rw [hframe]; rfl, ?_, ?_⟩,
        fun _ => ⟨by rw [hframe]; rfl, fun h => absurd hfold h, fun _ => ⟨hwords, hsums, hflags⟩⟩, fun h => absurd hk h,
        fun h => absurd h hkinds.1, fun h => absurd h hkinds.2⟩
      · exact (hothers b hb).2.trans (m.withSums_other S hb)
      · exact fun _ => (hothers b hb).1
    · next hfold =>
      exact ⟨rfl, rfl, rfl, rfl, fun b hb => ⟨rfl, m.withSums_other S hb, fun _ => rfl⟩,
        fun _ => ⟨rfl, fun _ => ⟨rfl, m.withSums_same hS, rfl⟩, fun h => absurd h hfold⟩, fun h => absurd hk h,
        fun h => absurd h hkinds.1, fun h => absurd h hkinds.2⟩
  · have hl := accPair_length m hA hB (mf := mf) (a := a) (akindOf mf)
    rw [m.addPair_float hk]
    generalize accPair mf A B (m.elems a (akindOf mf)) = r at hl
    refine ⟨rfl, rfl, rfl, rfl, fun b hb => ⟨rfl, rfl, fun hpair => m.setElems_other r.1 hb hpair⟩, fun h => absurd h hk,
      fun _ => ⟨rfl, rfl⟩, fun h => m.setElems_same a (by rw [h]; decide) hl, fun h => ?_⟩
    have hpair := m.setElems_pair a hl
    rw [← h] at hpair
    exact hpair

/-- Poison of the pair is noted first. -/
theorem Matrix.notePoison_addPair_summed (hA : A.length = 64) (hB : B.length = 64) (psn : Bool) :
    m.Summed mf a A B psn ((m.notePoison a psn).addPair mf a A B) := by
  have hsame := m.notePoison_same a psn
  have hother (b : Nat) := m.notePoison_other (b := b) psn (a := a)
  have hframe := m.notePoison_frame a psn
  have hsummed := (m.notePoison a psn).addPair_summed (mf := mf) (a := a) hA hB
  generalize m.notePoison a psn = m' at hsame hother hframe hsummed
  generalize m'.apsn = apsn at hframe
  subst hframe
  have hflags : m.flags ||| (if psn then fPSN else 0) ||| (if false = true then fPSN else 0) = m.flags ||| (if psn then fPSN else 0) :=
    BitVec.or_zero
  rw [Matrix.Summed, hflags, Bool.or_false, hsame] at hsummed
  obtain ⟨hidx, hbeats, hakind, hpoisoned, hothers, hrest⟩ := hsummed
  exact ⟨hidx, hbeats, hakind, hpoisoned, fun b hb => ⟨(hothers b hb).1.trans (hother b hb), (hothers b hb).2⟩, hrest⟩

end

/-! ## A tile that is loaded (R185) -/

/-- The array past the read of a tile's payload into accumulator `a`. -/
def Matrix.loaded (m : Matrix) (tick a : Nat) (k : AKind) (payload : List Byte) (psn : Bool) : Matrix :=
  Matrix.notePoison (Matrix.setElems ((m.claim tick a k).zero a k) a k ((pieces (if k = .f64 then 8 else 4) 4096 payload).map ofBytes)) a psn

/-- `m'` is `m` with that payload as its accumulator `a`, of kind `k`. -/
def Matrix.Loaded (m : Matrix) (a : Nat) (k : AKind) (payload : List Byte) (psn : Bool) (m' : Matrix) : Prop :=
  m'.kind a = k ∧ m'.sums a = List.replicate 4096 0 ∧ m'.poisoned a = psn ∧ m'.flags = m.flags ||| (if psn then fPSN else 0) ∧
  (k ≠ .f64 → m'.words a = (pieces 4 4096 payload).map (fun p => BitVec.ofNat 32 (ofBytes p))) ∧
  (k = .f64 → m'.words (a / 2 * 2) = (pieces 8 4096 payload).map (fun p => BitVec.ofNat 32 (ofBytes p)) ∧
    m'.words (a / 2 * 2 + 1) = (pieces 8 4096 payload).map (fun p => BitVec.ofNat 32 (ofBytes p / 2 ^ 32))) ∧
  ∀ b, b / 2 ≠ a / 2 → m'.words b = m.words b ∧ m'.kind b = m.kind b ∧ m'.sums b = m.sums b

theorem Matrix.loaded_loaded (m : Matrix) (tick a : Nat) (k : AKind) (payload : List Byte) (psn : Bool) :
    m.Loaded a k payload psn (m.loaded tick a k payload psn) := by
  obtain ⟨hkind, hsums, hself, -, hothers⟩ := m.claim_zero_zeroedIn tick a k
  have hflags : ((m.claim tick a k).zero a k).flags = m.flags := by
    obtain ⟨_, _, _, _, hframe⟩ := m.claim_zero_sameButAcc tick a k
    rw [hframe]
  have hlength (n : Nat) : ((pieces n 4096 payload).map ofBytes).length = 4096 := by rw [List.length_map, pieces_length]
  unfold Matrix.loaded
  generalize (m.claim tick a k).zero a k = z at hkind hsums hself hothers hflags
  generalize hl : (pieces (if k = .f64 then 8 else 4) 4096 payload).map ofBytes = l
  have hset := z.setElems_frame a k l
  have hnoted := (z.setElems a k l).notePoison_frame a psn
  have hwords (b : Nat) : ((z.setElems a k l).notePoison a psn).words b = (z.setElems a k l).words b := by rw [hnoted]; rfl
  have hzkind (b : Nat) : ((z.setElems a k l).notePoison a psn).kind b = z.kind b := by rw [hnoted, hset]; rfl
  have hzsums (b : Nat) : ((z.setElems a k l).notePoison a psn).sums b = z.sums b := by rw [hnoted, hset]; rfl
  refine ⟨(hzkind a).trans hkind, (hzsums a).trans hsums, ?_, ?_, fun hk => ?_, fun hk => ?_, fun b hb => ⟨?_, ?_, ?_⟩⟩
  · have hz : (z.setElems a k l).poisoned a = z.poisoned a := by rw [hset]; rfl
    rw [Matrix.notePoison_same, hz, (hself a (.inl rfl)).2, Bool.false_or]
  · rw [hnoted, hset, ← hflags]
  · rw [if_neg hk] at hl
    rw [hwords, z.setElems_same a hk (by rw [← hl]; exact hlength 4), ← hl, List.map_map]
    rfl
  · rw [if_pos hk] at hl
    have hpair := z.setElems_pair a (l := l) (by rw [← hl]; exact hlength 8)
    rw [hwords, hwords, hk, hpair.1, hpair.2, ← hl, List.map_map, List.map_map]
    exact ⟨rfl, rfl⟩
  · rw [hwords, z.setElems_other l (fun h => hb (by rw [h])) (fun h => hb h.2), (hothers b hb).2.1]
  · rw [hzkind, (hothers b hb).1]
  · rw [hzsums, (hothers b hb).2.2.2]

/-! ## Bytes of the scratchpad -/

/-- A read of the scratchpad after a write. -/
theorem Core.scrWrite_scrByte {c : Core} (h : Memory.wf c.scratch = true) (tick off j : Nat) (bs : List Byte) :
    (c.scrWrite off bs).scrByte tick j = if off ≤ j ∧ j < off + bs.length then bs[j - off]?.getD 0 else c.scrByte tick j := by
  simp only [Core.scrByte, Core.scrWrite, inSpans_cutInterval, Memory.get_puts off j bs h]
  by_cases hj : off ≤ j ∧ j < off + bs.length
  · simp [hj]
  · have hout : (decide (off ≤ j) && decide (j < off + bs.length)) = false := by simpa using hj
    rw [hout, if_neg hj, if_neg hj, Bool.not_false, Bool.and_true]

/-! ## Heads that are released (R176) -/

@[simp] theorem Core.setRing_ring_same (c : Core) (r : Nat) (x : Ring) : (c.setRing r x).ring r = x := Tab.get_put_same _ _ _ _
theorem Core.setRing_ring_other {q r : Nat} (h : q ≠ r) (c : Core) (x : Ring) : (c.setRing r x).ring q = c.ring q :=
  Tab.get_put_other _ _ _ _ _ (Ne.symm h)

/-- Byte `j` is one of the descriptor in the head slot of ring `r`. -/
abbrev Core.HeadByte (c : Core) (r j : Nat) : Prop :=
  (c.ring r).slotAt (c.ring r).head ≤ j ∧ j < (c.ring r).slotAt (c.ring r).head + 8

/-- `t` is `s` with the head slots of the rings `rs` released: their descriptors are zero. -/
structure HeadsReleased (s : State) (rs : List Nat) (t : State) : Prop where
  mem : t.mem = s.mem
  threads : t.threads = s.threads
  tasks : t.tasks = s.tasks
  evFlight : t.evFlight = s.evFlight
  cyc : t.cyc = s.cyc
  cur : t.cur = s.cur
  core : ∃ rings scratch sundef, t.myCore = { s.myCore with rings, scratch, sundef }
  wf : Memory.wf t.myCore.scratch = true
  ring_other : ∀ r, r ∉ rs → t.myCore.ring r = s.myCore.ring r
  ring_head : ∀ r ∈ rs, t.myCore.ring r = (s.myCore.ring r).release
  byte_head : ∀ j, (∃ r ∈ rs, s.myCore.HeadByte r j) → t.myCore.scrByte s.tick j = 0
  byte_other : ∀ j, (¬∃ r ∈ rs, s.myCore.HeadByte r j) → t.myCore.scrByte s.tick j = s.myCore.scrByte s.tick j

theorem HeadsReleased.nil {s : State} (h : Memory.wf s.myCore.scratch = true) : HeadsReleased s [] s :=
  ⟨rfl, rfl, rfl, rfl, rfl, rfl, ⟨_, _, _, rfl⟩, h, fun _ _ => rfl, fun _ hr => absurd hr List.not_mem_nil,
    fun _ ⟨_, hr, _⟩ => absurd hr List.not_mem_nil, fun _ _ => rfl⟩

theorem releaseHead_myCore (s : State) (r : Nat) : (releaseHead s r).myCore =
    (s.myCore.scrWrite ((s.myCore.ring r).slotAt (s.myCore.ring r).head) (toBytes 8 0)).setRing r (s.myCore.ring r).release :=
  State.setCore_core_same _ _ _

theorem toBytes_zero (n k : Nat) : (toBytes n 0)[k]?.getD 0 = 0 := by
  by_cases h : k < n
  · rw [toBytes_get n 0 k h, Nat.zero_div]
    rfl
  · rw [List.getElem?_eq_none (by rw [toBytes_length]; omega)]
    rfl

/-- One more head. -/
theorem HeadsReleased.snoc {s t : State} {rs : List Nat} (h : HeadsReleased s rs t) {r : Nat} (hr : r ∉ rs) :
    HeadsReleased s (rs ++ [r]) (releaseHead t r) := by
  have hring := h.ring_other r hr
  have hbyte (j : Nat) : (releaseHead t r).myCore.scrByte s.tick j = if s.myCore.HeadByte r j then 0 else t.myCore.scrByte s.tick j := by
    rw [releaseHead_myCore, hring]
    refine (Core.scrWrite_scrByte h.wf s.tick _ j (toBytes 8 0)).trans ?_
    rw [toBytes_length, toBytes_zero]
  have hmem (j : Nat) : (∃ q ∈ rs ++ [r], s.myCore.HeadByte q j) ↔ (∃ q ∈ rs, s.myCore.HeadByte q j) ∨ s.myCore.HeadByte r j := by
    simp only [List.mem_append, List.mem_singleton, or_and_right, exists_or, exists_eq_left]
  refine ⟨h.mem, h.threads, h.tasks, h.evFlight, h.cyc, h.cur, ?_, ?_, fun q hq => ?_, fun q hq => ?_, fun j hj => ?_, fun j hj => ?_⟩
  · obtain ⟨_, _, _, hcore⟩ := h.core
    rw [releaseHead_myCore, hcore]
    exact ⟨_, _, _, rfl⟩
  · rw [releaseHead_myCore]
    exact Memory.wf_puts _ _ h.wf
  · rw [List.mem_append, List.mem_singleton, not_or] at hq
    rw [releaseHead_myCore, Core.setRing_ring_other hq.2]
    exact h.ring_other q hq.1
  · rw [releaseHead_myCore]
    by_cases hqr : q = r
    · rw [hqr, Core.setRing_ring_same, hring]
    · rw [Core.setRing_ring_other hqr]
      exact h.ring_head q ((List.mem_append.mp hq).resolve_right (fun h => hqr (List.mem_singleton.mp h)))
  · rw [hbyte]
    split
    · rfl
    · next hnot => exact h.byte_head j (((hmem j).mp hj).resolve_right hnot)
  · rw [hmem, not_or] at hj
    rw [hbyte, if_neg hj.2]
    exact h.byte_other j hj.1

/-! ## A drain that is published (R179, R186, R187, R191) -/

/-- The bytes of a drained tile: header, zeros, payload. -/
def Drain.bytes (d : Drain) : List Byte :=
  toBytes 8 (drainHeader d) ++ List.replicate 248 0 ++ d.words.flatMap (fun w => toBytes 4 w.toNat)

theorem flatMap_toBytes_length (n : Nat) (ws : List Word32) : (ws.flatMap (fun w => toBytes n w.toNat)).length = n * ws.length := by
  rw [List.length_flatMap, List.map_congr_left (fun w _ => toBytes_length n w.toNat), List.map_const', List.sum_replicate, smul_eq_mul,
    Nat.mul_comm]

theorem Drain.bytes_length (d : Drain) : d.bytes.length = 256 + 4 * d.words.length := by
  rw [Drain.bytes, List.length_append, List.length_append, toBytes_length, List.length_replicate, flatMap_toBytes_length]

theorem Drain.bytes_header (d : Drain) {i : Nat} (h : i < 8) : d.bytes[i]? = some (BitVec.ofNat 8 (drainHeader d / 256 ^ i)) := by
  rw [Drain.bytes, List.append_assoc, List.getElem?_append_left (by rwa [toBytes_length]), toBytes_get _ _ _ h]

theorem Drain.bytes_zeros (d : Drain) {i : Nat} (h : i < 248) : d.bytes[8 + i]? = some 0 := by
  rw [Drain.bytes, List.append_assoc, List.getElem?_append_right (by rw [toBytes_length]; omega), toBytes_length,
    List.getElem?_append_left (by rw [List.length_replicate]; omega), Nat.add_sub_cancel_left, List.getElem?_replicate, if_pos h]

theorem flatMap_toBytes_get (n : Nat) {ws : List Word32} {i : Nat} {w : Word32} (hw : ws[i]? = some w) {b : Nat} (hb : b < n) :
    (ws.flatMap (fun w => toBytes n w.toNat))[n * i + b]? = some (BitVec.ofNat 8 (w.toNat / 256 ^ b)) := by
  induction ws generalizing i with
  | nil => cases hw
  | cons v ws ih =>
    rw [List.flatMap_cons]
    cases i with
    | zero =>
      cases hw
      rw [Nat.mul_zero, Nat.zero_add, List.getElem?_append_left (by rwa [toBytes_length]), toBytes_get _ _ _ hb]
    | succ i =>
      have hnext : n * (i + 1) + b - n = n * i + b := by rw [Nat.mul_succ]; omega
      rw [List.getElem?_append_right (by rw [toBytes_length, Nat.mul_succ]; omega), toBytes_length, hnext]
      exact ih hw

theorem Drain.bytes_payload (d : Drain) {i : Nat} {w : Word32} (hw : d.words[i]? = some w) {b : Nat} (hb : b < 4) :
    d.bytes[256 + 4 * i + b]? = some (BitVec.ofNat 8 (w.toNat / 256 ^ b)) := by
  have hlength : (toBytes 8 (drainHeader d) ++ List.replicate 248 (0 : Byte)).length = 256 := by
    rw [List.length_append, toBytes_length, List.length_replicate]
  have hoff : 256 + 4 * i + b - 256 = 4 * i + b := by omega
  rw [Drain.bytes, List.getElem?_append_right (by rw [hlength]; omega), hlength, hoff]
  exact flatMap_toBytes_get 4 hw hb

/-- The slot at TAIL of the drain's ring, where it is written. -/
def Core.drainSlot (c : Core) (d : Drain) : Nat := (c.ring d.ring).slotAt (c.ring d.ring).tail

/-- The poisoned sectors past the write of a drain (R191). -/
def Core.drainPoison (c : Core) (d : Drain) : List Nat :=
  let clear := clearSectors c.spoison (c.drainSlot d) (256 + 4 * d.words.length)
  if d.poison then (List.range (4 * d.words.length / 32)).foldl (fun l i => addSector l ((c.drainSlot d + 256) / 32 + i)) clear else clear

/-- The core past the write and the publication of a drain. -/
def Core.drained (c : Core) (d : Drain) : Core :=
  Core.setRing { c.scrWrite (c.drainSlot d) d.bytes with spoison := c.drainPoison d } d.ring (c.ring d.ring).publish

/-- A drain is written, its flags go to the task, and the array is as it was but for its flags. -/
theorem writeDrain_eq (s : State) (d : Drain) : ∃ older was, writeDrain s s.cur.m d =
    State.gathered { s.setCore s.cur.m { s.myCore.drained d with matrix := { s.mx with flags := 0, was } } with older }
      s.myCore.home s.mx.flags := by
  let noted := s.note ((List.range (256 + 4 * d.words.length)).map (fun i => .scr s.cur.m (s.myCore.drainSlot d + i)))
  have hwrite : writeDrain s s.cur.m d = gatherMatrix (noted.setCore s.cur.m (s.myCore.drained d)) s.cur.m := by
    refine congrArg (fun c => gatherMatrix (noted.setCore s.cur.m c) s.cur.m) ?_
    unfold Core.drained Core.drainPoison Drain.bytes
    generalize toBytes 8 (drainHeader d) ++ List.replicate 248 0 ++ d.words.flatMap (fun w => toBytes 4 w.toNat) = bs
    split <;> rfl
  refine ⟨noted.older, some (s.cyc, s.mx.before s.cyc), ?_⟩
  rw [hwrite, gatherMatrix, State.modCore_eq, State.setCore_core_same, State.setCore_setCore]
  rfl

/-- `t` is `s` past the publication of the drain `d`. -/
structure DrainWritten (s : State) (d : Drain) (t : State) : Prop where
  core : ∃ matrix, t.myCore = { s.myCore.drained d with matrix }
  mx : ∃ was, t.mx = { s.mx with flags := 0, was }
  mem : t.mem = s.mem
  threads : t.threads = s.threads
  evFlight : t.evFlight = s.evFlight
  nextId : t.nextId = s.nextId
  cur : t.cur = s.cur
  cyc : t.cyc = s.cyc
  task : t.taskOf s.myCore.home =
    { s.taskOf s.myCore.home with tflagsAdd := (s.taskOf s.myCore.home).tflagsAdd ||| s.mx.flags }
  tasks : ∀ q, q ≠ s.myCore.home → t.taskOf q = s.taskOf q

theorem State.gathered_taskOf (s : State) (id : Nat) (f : Flags) :
    (s.gathered id f).taskOf id = { s.taskOf id with tflagsAdd := (s.taskOf id).tflagsAdd ||| f } ∧
    ∀ q, q ≠ id → (s.gathered id f).taskOf q = s.taskOf q := by
  obtain ⟨h, h0⟩ | h := s.gathered_cases id f
  · rw [h, h0]
    exact ⟨congrArg (fun tflagsAdd => { s.taskOf id with tflagsAdd }) BitVec.or_zero.symm, fun _ _ => rfl⟩
  · rw [h]
    exact ⟨State.setTask_taskOf_same _ _ _, fun q hq => State.setTask_taskOf_other _ _ _ _ (Ne.symm hq)⟩

theorem writeDrain_written (s : State) (d : Drain) : DrainWritten s d (writeDrain s s.cur.m d) := by
  obtain ⟨older, was, h⟩ := writeDrain_eq s d
  have hcore : ∀ id f, (State.gathered { s.setCore s.cur.m { s.myCore.drained d with matrix := { s.mx with flags := 0, was } } with older }
      id f).myCore = { s.myCore.drained d with matrix := { s.mx with flags := 0, was } } := by
    intro id f
    obtain ⟨hg, -⟩ | hg := State.gathered_cases _ id f <;> rw [hg] <;> exact State.setCore_core_same _ _ _
  rw [h]
  refine ⟨⟨_, hcore _ _⟩, ⟨was, congrArg Core.matrix (hcore _ _)⟩, ?_, ?_, ?_, ?_, ?_, ?_, (State.gathered_taskOf _ _ _).1,
    (State.gathered_taskOf _ _ _).2⟩
  all_goals obtain ⟨hg, -⟩ | hg := State.gathered_cases _ s.myCore.home s.mx.flags <;> rw [hg] <;> rfl

section
variable {c : Core} (d : Drain)

theorem Core.drained_ring_same : (c.drained d).ring d.ring = (c.ring d.ring).publish := Core.setRing_ring_same _ _ _
theorem Core.drained_ring_other {q : Nat} (h : q ≠ d.ring) : (c.drained d).ring q = c.ring q := Core.setRing_ring_other h _ _

theorem Core.drained_scrByte (h : Memory.wf c.scratch = true) (tick j : Nat) : (c.drained d).scrByte tick j =
    if c.drainSlot d ≤ j ∧ j < c.drainSlot d + d.bytes.length then d.bytes[j - c.drainSlot d]?.getD 0 else c.scrByte tick j := by
  unfold Core.drained
  generalize d.bytes = bs
  exact Core.scrWrite_scrByte h tick _ j bs

/-- A byte of the tile. -/
theorem Core.drained_byte (h : Memory.wf c.scratch = true) (tick : Nat) {i : Nat} {b : Byte} (hb : d.bytes[i]? = some b) :
    (c.drained d).scrByte tick (c.drainSlot d + i) = b := by
  have hi : i < d.bytes.length := (List.getElem?_eq_some_iff.mp hb).1
  rw [Core.drained_scrByte d h, if_pos (by omega), Nat.add_sub_cancel_left, hb]
  rfl

theorem mem_foldl_addSector (n base : Nat) (l : List Nat) (x : Nat) :
    x ∈ (List.range n).foldl (fun l i => addSector l (base + i)) l ↔ (base ≤ x ∧ x < base + n) ∨ x ∈ l := by
  induction n with
  | zero => exact ⟨.inr, fun h => h.elim (fun ⟨hlo, hhi⟩ => by omega) id⟩
  | succ n ih =>
    rw [List.range_succ, List.foldl_append, List.foldl_cons, List.foldl_nil, mem_addSector, ih, ← or_assoc]
    refine or_congr_left ?_
    omega

/-- Exactly the payload's sectors of a poisoned accumulator's tile are poisoned (R191). -/
theorem Core.mem_drainPoison (hoff : c.drainSlot d % 32 = 0) (hsize : (256 + 4 * d.words.length) % 32 = 0) (x : Nat) :
    x ∈ c.drainPoison d ↔
      (d.poison = true ∧ (c.drainSlot d + 256) / 32 ≤ x ∧ x < (c.drainSlot d + (256 + 4 * d.words.length)) / 32) ∨
      (x ∈ c.spoison ∧ ¬(c.drainSlot d / 32 ≤ x ∧ x < (c.drainSlot d + (256 + 4 * d.words.length)) / 32)) := by
  have hclear : x ∈ clearSectors c.spoison (c.drainSlot d) (256 + 4 * d.words.length) ↔
      x ∈ c.spoison ∧ ¬(c.drainSlot d / 32 ≤ x ∧ x < (c.drainSlot d + (256 + 4 * d.words.length)) / 32) := by
    have hrange : (c.drainSlot d ≤ x * 32 ∧ x * 32 + 32 ≤ c.drainSlot d + (256 + 4 * d.words.length)) ↔
        (c.drainSlot d / 32 ≤ x ∧ x < (c.drainSlot d + (256 + 4 * d.words.length)) / 32) := by omega
    rw [clearSectors, List.mem_filter, ← hrange, Bool.not_eq_true', ← Bool.not_eq_true, Bool.and_eq_true, decide_eq_true_eq,
      decide_eq_true_eq]
  unfold Core.drainPoison
  cases d.poison with
  | false =>
    rw [if_neg Bool.false_ne_true, hclear]
    simp
  | true =>
    have hend : (c.drainSlot d + 256) / 32 + 4 * d.words.length / 32 = (c.drainSlot d + (256 + 4 * d.words.length)) / 32 := by omega
    rw [if_pos rfl, mem_foldl_addSector, hclear, hend]
    simp

end

end Sys2Proof.Machine
end

section
/-! PROOF. The moves of the matrix array between an acceptance and its end (06 R182 to R200, R203). -/

namespace Sys2Proof.Machine

/-! ## What a move leaves -/

/-- Memory, threads and tasks are as they were. -/
def Stays (s t : State) : Prop := t.mem = s.mem ∧ t.threads = s.threads ∧ t.tasks = s.tasks

theorem MovesArray.stays {s t : State} (h : MovesArray s t) : Stays s t := ⟨h.mem, h.threads, h.tasks⟩

/-- The array of the acting core, whose command is `f`, stops with a fault (R203): MISSCNT is to take `miss`, the flags take `flags`. -/
def Fails (s : State) (f : MatF) (i : Instr) (cause ring index : Nat) (miss : Word) (flags : Flags) : Prop :=
  ∃ t, exec i s = .next t ∧
    { t.mx with state := s.mx.state, missAdd := s.mx.missAdd, pend := s.mx.pend, flags := s.mx.flags } = s.mx ∧
    t.mx.flags = s.mx.flags ||| flags ∧ t.mx.state = 3 ∧ t.mx.missAdd = s.mx.missAdd + miss ∧ t.myCore.arrayFrozen = true ∧
    { t.myCore with matrix := s.mx, arrayFrozen := s.myCore.arrayFrozen } = s.myCore ∧ t.mem = s.mem ∧ t.tasks = s.tasks ∧
    (let w := word (s.mx.mop * 2 ^ 61 + ring * 2 ^ 58 + f.acc.toNat * 2 ^ 56 + index % 2 ^ 48)
     (s.mx.drains = [] → t.mx.pend = none ∧ Reaches s cause w t) ∧
     (s.mx.drains ≠ [] → t.mx.pend = some (cause, w) ∧ t.threads = s.threads))

/-- The anchor and the other threads are those of a state with the same threads. -/
theorem Reaches.of_threads {s u t : State} {cause : Nat} {w : Word} (hcur : u.cur = s.cur) (hthreads : u.threads = s.threads)
    (h : Reaches u cause w t) : Reaches s cause w t := by
  have hthr (k : Nat) : u.thr k = s.thr k := by rw [State.thr, hthreads]; rfl
  simpa only [Reaches, hcur, hthr] using h

/-- An array that notes neither a miss nor a flag. -/
theorem Matrix.noted_zero (m : Matrix) : m = { m with missAdd := m.missAdd + 0, flags := m.flags ||| 0 } := by
  have hmiss : m.missAdd + 0 = m.missAdd := BitVec.add_zero _
  have hflags : m.flags ||| 0 = m.flags := BitVec.or_zero
  rw [hmiss, hflags]

/-- A fault raised once the array's miss and flags are noted. -/
theorem fails_of {s u : State} {f : MatF} {i : Instr} {cause ring index : Nat} {miss : Word} {flags : Flags} (hcmd : s.mx.cmd = some f)
    (hu : MovesArray s u) (hmx : u.mx = { s.mx with missAdd := s.mx.missAdd + miss, flags := s.mx.flags ||| flags })
    (hexec : exec i s = .next (matrixFault u cause ring index)) : Fails s f i cause ring index miss flags := by
  have fault := matrixFault_faulted (s := u) (by rw [hmx]; exact hcmd) cause ring index
  refine ⟨_, hexec, ?_⟩
  generalize matrixFault u cause ring index = t at fault
  have hraised := fault.raised
  have hwaits := fault.waits
  obtain ⟨pend, hmx'⟩ := fault.mx
  have hcore := fault.core
  have hmop : u.mx.mop = s.mx.mop := by rw [hmx]
  have hdrains : u.mx.drains = s.mx.drains := by rw [hmx]
  rw [hmop, hdrains] at hraised hwaits
  rw [hmx] at hmx'
  refine ⟨?_, ?_, ?_, ?_, ?_, ?_, fault.mem.trans hu.mem, fault.tasks.trans hu.tasks,
    fun h => ⟨(hraised h).1, (hraised h).2.of_threads hu.cur hu.threads⟩, fun h => ⟨(hwaits h).1, (hwaits h).2.trans hu.threads⟩⟩
  · rw [hmx']
  · rw [hmx']
  · rw [hmx']
  · rw [hmx']
  · rw [hcore]
  · rw [hcore, hu.core]
    rfl

/-- The cycle in which a move of the array is due has come. -/
theorem not_due_iff (s : State) : ¬s.mx.due ≤ s.cyc ↔ s.cyc < s.mx.due := Nat.not_le

theorem State.present_iff (s : State) (r : BitVec 3) : s.present r = true ↔ 0 < (s.myCore.ring r.toNat).count := decide_eq_true_iff

theorem State.both_present (s : State) (f : MatF) : (s.present f.ra && s.present f.rb) = true ↔
    0 < (s.myCore.ring f.ra.toNat).count ∧ 0 < (s.myCore.ring f.rb.toNat).count := by
  rw [Bool.and_eq_true, State.present_iff, State.present_iff]

/-- The ring whose head slot is missing. -/
theorem State.absent_eq (s : State) (f : MatF) : (if s.present f.ra then f.rb.toNat else f.ra.toNat) =
    if 0 < (s.myCore.ring f.ra.toNat).count then f.rb.toNat else f.ra.toNat := if_congr (s.present_iff f.ra) rfl rfl

/-! ## Pairs that start (R182, R194) -/

/-- The pair at the heads is summed, and `next` follows; a tile that is not admitted stops the array. -/
def pairStep (s : State) (f : MatF) (next : State → State) : State :=
  match accumulatePair s f with
  | .error r => refuseTile s r s.mx.idx
  | .ok u => next u

/-- A tile of ring `ring` is refused; poison in its descriptor's sector sets PSN. -/
def Refused (s : State) (f : MatF) (i : Instr) (ring index : Nat) : Prop :=
  Fails s f i 0x12 ring index 0
    (if s.myCore.scrPoisonedIn ((s.myCore.ring ring).slotAt (s.myCore.ring ring).head) 32 then fPSN else 0)

theorem refused_of {s : State} {f : MatF} {i : Instr} {ring index : Nat} (hcmd : s.mx.cmd = some f)
    (hexec : exec i s = .next (refuseTile s ring index)) : Refused s f i ring index := by
  unfold Refused
  by_cases hpoison : headPoisoned s.myCore ring = true
  · have hflag : s.myCore.scrPoisonedIn ((s.myCore.ring ring).slotAt (s.myCore.ring ring).head) 32 = true := hpoison
    rw [refuseTile, if_pos hpoison] at hexec
    rw [if_pos hflag]
    exact fails_of hcmd (.withMx s _) ((State.withMx_mx s _).trans
      (congrArg (fun m : Matrix => { m with flags := s.mx.flags ||| fPSN }) s.mx.noted_zero)) hexec
  · have hflag : ¬s.myCore.scrPoisonedIn ((s.myCore.ring ring).slotAt (s.myCore.ring ring).head) 32 = true := hpoison
    rw [refuseTile, if_neg hpoison] at hexec
    rw [if_neg hflag]
    exact fails_of hcmd (.refl s) s.mx.noted_zero hexec

/-- The tiles at the heads of RA and RB. -/
def State.tileA (s : State) (f : MatF) : Word × List Byte × List Byte × Bool := headTile s.myCore s.tick f.ra.toNat 4096
def State.tileB (s : State) (f : MatF) : Word × List Byte × List Byte × Bool := headTile s.myCore s.tick f.rb.toNat 4096
/-- Its rows of elements. -/
def rowsOf (f : MatF) (t : Word × List Byte × List Byte × Bool) : List (List FVal) := tileRows t.1 t.2.1 f.mfmt.toNat t.2.2.1

theorem rowsOf_length (f : MatF) (t : Word × List Byte × List Byte × Bool) : (rowsOf f t).length = 64 := tileRows_length _ _ _ _

/-- The array past the pair at the heads. -/
def State.summedMx (s : State) (f : MatF) : Matrix :=
  (s.mx.notePoison f.acc.toNat ((s.tileA f).2.2.2 || (s.tileB f).2.2.2)).addPair f.mfmt.toNat f.acc.toNat (rowsOf f (s.tileA f))
    (rowsOf f (s.tileB f))

section
variable {s : State} {f : MatF}

theorem accumulatePair_refusesA (h : operandOk (s.tileA f).1 f.mfmt.toNat = false) : accumulatePair s f = .error f.ra.toNat :=
  if_pos (show (!operandOk (s.tileA f).1 f.mfmt.toNat) = true by rw [h]; rfl)

theorem accumulatePair_refusesB (h : operandOk (s.tileA f).1 f.mfmt.toNat = true) (h' : operandOk (s.tileB f).1 f.mfmt.toNat = false) :
    accumulatePair s f = .error f.rb.toNat :=
  (if_neg (show ¬(!operandOk (s.tileA f).1 f.mfmt.toNat) = true by rw [h]; exact Bool.false_ne_true)).trans
    (if_pos (show (!operandOk (s.tileB f).1 f.mfmt.toNat) = true by rw [h']; rfl))

theorem accumulatePair_ok (h : operandOk (s.tileA f).1 f.mfmt.toNat = true) (h' : operandOk (s.tileB f).1 f.mfmt.toNat = true) :
    accumulatePair s f = .ok (s.withMx (s.summedMx f)) :=
  (if_neg (show ¬(!operandOk (s.tileA f).1 f.mfmt.toNat) = true by rw [h]; exact Bool.false_ne_true)).trans
    (if_neg (show ¬(!operandOk (s.tileB f).1 f.mfmt.toNat) = true by rw [h']; exact Bool.false_ne_true))

theorem State.summedMx_summed : s.mx.Summed f.mfmt.toNat f.acc.toNat (rowsOf f (s.tileA f)) (rowsOf f (s.tileB f))
    ((s.tileA f).2.2.2 || (s.tileB f).2.2.2) (s.summedMx f) :=
  s.mx.notePoison_addPair_summed (rowsOf_length f _) (rowsOf_length f _) _

theorem Matrix.addPair_frame (m : Matrix) (mf a : Nat) (A B : List (List FVal)) :
    ∃ acc isum pairs flags, m.addPair mf a A B = { m with acc, isum, pairs, flags } := by
  by_cases hk : akindOf mf = .i32
  · rw [m.addPair_i32 hk]
    split
    · exact ⟨_, _, _, _, (m.withSums a _).fold_eq a⟩
    · exact ⟨_, _, _, _, rfl⟩
  · exact ⟨_, _, _, _, m.addPair_float hk⟩

theorem State.summedMx_frame : ∃ acc apsn isum pairs flags, s.summedMx f = { s.mx with acc, apsn, isum, pairs, flags } := by
  have hnoted := s.mx.notePoison_frame f.acc.toNat ((s.tileA f).2.2.2 || (s.tileB f).2.2.2)
  unfold State.summedMx
  generalize s.mx.notePoison f.acc.toNat ((s.tileA f).2.2.2 || (s.tileB f).2.2.2) = m at hnoted
  obtain ⟨_, _, _, _, hframe⟩ := m.addPair_frame f.mfmt.toNat f.acc.toNat (rowsOf f (s.tileA f)) (rowsOf f (s.tileB f))
  exact ⟨_, m.apsn, _, _, _, hframe.trans (by rw [hnoted])⟩

/-- The pair at the heads is summed and runs for its Bt cycles. -/
def PairRuns (s : State) (f : MatF) (t : State) : Prop :=
  Stays s t ∧ { t.myCore with matrix := s.mx } = s.myCore ∧ t.mx.phase = .pairRun ∧ t.mx.due + 1 = s.cyc + beatLen f.mfmt.toNat ∧
  s.mx.Summed f.mfmt.toNat f.acc.toNat (rowsOf f (s.tileA f)) (rowsOf f (s.tileB f)) ((s.tileA f).2.2.2 || (s.tileB f).2.2.2) t.mx

/-- What becomes of a pair or beat whose heads are present. -/
def PairClauses (s : State) (f : MatF) (i : Instr) (post : State → Prop) : Prop :=
  (operandOk (s.tileA f).1 f.mfmt.toNat = false → Refused s f i f.ra.toNat s.mx.idx) ∧
  (operandOk (s.tileA f).1 f.mfmt.toNat = true → operandOk (s.tileB f).1 f.mfmt.toNat = false → Refused s f i f.rb.toNat s.mx.idx) ∧
  (operandOk (s.tileA f).1 f.mfmt.toNat = true → operandOk (s.tileB f).1 f.mfmt.toNat = true →
    ∃ t, exec i s = .next t ∧ PairRuns s f t ∧ post t)

theorem pairClauses_of {i : Instr} {post : State → Prop} {next : State → State} (hcmd : s.mx.cmd = some f)
    (hexec : exec i s = .next (pairStep s f next))
    (hnext : PairRuns s f (next (s.withMx (s.summedMx f))) ∧ post (next (s.withMx (s.summedMx f)))) : PairClauses s f i post := by
  refine ⟨fun hA => ?_, fun hA hB => ?_, fun hA hB => ⟨_, ?_, hnext⟩⟩
  · rw [pairStep, accumulatePair_refusesA hA] at hexec
    exact refused_of hcmd hexec
  · rw [pairStep, accumulatePair_refusesB hA hB] at hexec
    exact refused_of hcmd hexec
  · rw [pairStep, accumulatePair_ok hA hB] at hexec
    exact hexec

theorem beatLen_pos (mf : Nat) : 0 < beatLen mf := by
  unfold beatLen
  split_ifs <;> decide

/-- Words of the array that no accumulator holds move after the sums. -/
theorem pairRuns_of {t : State} (hmoves : MovesArray s t) (hmx : ∃ evlost seenA seenB, t.mx = { s.summedMx f with
    phase := .pairRun, due := s.cyc + beatLen f.mfmt.toNat - 1, evlost, seenA, seenB }) : PairRuns s f t := by
  obtain ⟨_, _, _, hmx⟩ := hmx
  refine ⟨hmoves.stays, hmoves.restored, by rw [hmx], ?_, ?_⟩
  · rw [hmx]
    exact Nat.sub_add_cancel (Nat.le_add_left_of_le (beatLen_pos _))
  · rw [hmx]
    exact s.summedMx_summed

end

section
variable {s : State} {f : MatF} (hcmd : s.mx.cmd = some f)
include hcmd

theorem exec_mmaPairStart : exec .mmaPairStart s = .next (
    if s.mx.phase ≠ .pairWait ∨ s.cyc < s.mx.due then s
    else if s.present f.ra && s.present f.rb then
      pairStep s f (fun u => u.modMx (fun m => { m with phase := .pairRun, due := s.cyc + beatLen f.mfmt.toNat - 1 }))
    else if s.mx.untimed then s
    else matrixFault s 0x10 (if s.present f.ra then f.rb.toNat else f.ra.toNat) s.mx.idx) := by
  show execMmaPairStart s = _
  rw [execMmaPairStart, hcmd]
  rfl

theorem mmaPairStart_quiet (h : ¬(s.mx.phase = .pairWait ∧ s.mx.due ≤ s.cyc)) : exec .mmaPairStart s = .next s := by
  rw [exec_mmaPairStart hcmd, if_pos (by rwa [not_and_or, not_due_iff] at h)]

theorem mmaPairStart_waits (h : ¬(0 < (s.myCore.ring f.ra.toNat).count ∧ 0 < (s.myCore.ring f.rb.toNat).count))
    (huntimed : s.mx.untimed = true) : exec .mmaPairStart s = .next s := by
  rw [exec_mmaPairStart hcmd, if_neg (mt (s.both_present f).mp h), if_pos huntimed, ite_self]

variable (hphase : s.mx.phase = .pairWait) (hdue : s.mx.due ≤ s.cyc)
include hphase hdue

theorem mmaPairStart_present (hA : 0 < (s.myCore.ring f.ra.toNat).count) (hB : 0 < (s.myCore.ring f.rb.toNat).count) :
    PairClauses s f .mmaPairStart (fun t => t.evFlight = s.evFlight) := by
  refine pairClauses_of hcmd ((exec_mmaPairStart hcmd).trans (congrArg _
    ((if_neg (by rw [hphase]; simpa using hdue)).trans (if_pos ((s.both_present f).mpr ⟨hA, hB⟩))))) ?_
  rw [State.modMx_eq, State.withMx_withMx]
  exact ⟨pairRuns_of (.withMx s _) ⟨_, _, _, by rw [State.withMx_mx, State.withMx_mx]⟩, rfl⟩

theorem mmaPairStart_missed (h : ¬(0 < (s.myCore.ring f.ra.toNat).count ∧ 0 < (s.myCore.ring f.rb.toNat).count))
    (htimed : s.mx.untimed = false) :
    Fails s f .mmaPairStart 0x10 (if 0 < (s.myCore.ring f.ra.toNat).count then f.rb.toNat else f.ra.toNat) s.mx.idx 0 0 := by
  refine fails_of hcmd (.refl s) s.mx.noted_zero ?_
  rw [exec_mmaPairStart hcmd, if_neg (by rw [hphase]; simpa using hdue), if_neg (mt (s.both_present f).mp h),
    if_neg (by rw [htimed]; exact Bool.false_ne_true), s.absent_eq]

end

end Sys2Proof.Machine
end

section
/-! PROOF. The ends of the array's commands, its loads and its drains (06 R176, R179, R182 to R187, R191). -/

namespace Sys2Proof.Machine

/-! ## Commands that end, and an array without one -/

section
variable {s : State}

theorem mmaComplete_done (h : s.mx.phase = .finishing ∧ s.mx.due ≤ s.cyc) : exec .mmaComplete s = .next (s.withMx s.mx.finish) :=
  congrArg _ (if_pos h)
theorem mmaComplete_quiet (h : ¬(s.mx.phase = .finishing ∧ s.mx.due ≤ s.cyc)) : exec .mmaComplete s = .next s := congrArg _ (if_neg h)
theorem mzeroComplete_done (h : s.mx.phase = .zeroing ∧ s.mx.due ≤ s.cyc) : exec .mzeroComplete s = .next (s.withMx s.mx.finish) :=
  congrArg _ (if_pos h)
theorem mzeroComplete_quiet (h : ¬(s.mx.phase = .zeroing ∧ s.mx.due ≤ s.cyc)) : exec .mzeroComplete s = .next s := congrArg _ (if_neg h)

/-- Without a command the array does nothing. -/
theorem exec_no_command (h : s.mx.cmd = none) {i : Instr} (hi : i ∈ [Instr.mmaPairStart, .mmaPairEnd, .mloadComplete, .mdrainComplete,
    .simmerAttempt, .beatEnd, .simmerDrainPublish]) : exec i s = .next s := by
  simp only [List.mem_cons, List.not_mem_nil, or_false] at hi
  obtain rfl | rfl | rfl | rfl | rfl | rfl | rfl := hi
  · show execMmaPairStart s = _
    rw [execMmaPairStart, h]
  · show execMmaPairEnd s = _
    rw [execMmaPairEnd, h]
  · show execMloadComplete s = _
    rw [execMloadComplete, h]
  · show execMdrainComplete s = _
    rw [execMdrainComplete, h]
  · show execSimmerAttempt s = _
    rw [execSimmerAttempt, h]
  · show execBeatEnd s = _
    rw [execBeatEnd, h]
  · show execSimmerDrainPublish s = _
    rw [execSimmerDrainPublish, h]

end

/-! ## Heads released at the end of a pair or a load (R176) -/

/-- The head slots of the rings `rs` are released; the array's words aside, nothing else has moved. -/
def Released (s : State) (rs : List Nat) (t : State) : Prop :=
  Stays s t ∧ t.evFlight = s.evFlight ∧
  { t.myCore with matrix := s.mx, rings := s.myCore.rings, scratch := s.myCore.scratch, sundef := s.myCore.sundef } = s.myCore ∧
  (∀ r, r ∉ rs → t.myCore.ring r = s.myCore.ring r) ∧ (∀ r ∈ rs, t.myCore.ring r = (s.myCore.ring r).release) ∧
  (∀ j, (∃ r ∈ rs, s.myCore.HeadByte r j) → t.myCore.scrByte s.tick j = 0) ∧
  ∀ j, (¬∃ r ∈ rs, s.myCore.HeadByte r j) → t.myCore.scrByte s.tick j = s.myCore.scrByte s.tick j

theorem HeadsReleased.released {s u : State} {rs : List Nat} (h : HeadsReleased s rs u) (m : Matrix) : Released s rs (u.withMx m) := by
  rw [Released, State.withMx_myCore]
  refine ⟨⟨h.mem, h.threads, h.tasks⟩, h.evFlight, ?_, h.ring_other, h.ring_head, h.byte_head, h.byte_other⟩
  obtain ⟨_, _, _, hcore⟩ := h.core
  rw [hcore]
  rfl

theorem State.Inv.headReleased {s : State} (h : s.Inv) (r : Nat) : HeadsReleased s [r] (releaseHead s r) :=
  (HeadsReleased.nil (h.bytesWf.core _)).snoc List.not_mem_nil

@[simp] theorem releaseHead_mx (s : State) (r : Nat) : (releaseHead s r).mx = s.mx :=
  (congrArg Core.matrix (releaseHead_myCore s r)).trans rfl

theorem releaseHead_cyc (s : State) (r : Nat) : (releaseHead s r).cyc = s.cyc := rfl

/-- `s` with both operand slots of command `f` released. -/
def State.pastPair (s : State) (f : MatF) : State := releaseHead (releaseHead s f.ra.toNat) f.rb.toNat

theorem State.pastPair_cyc (s : State) (f : MatF) : (s.pastPair f).cyc = s.cyc := (releaseHead_cyc _ _).trans (releaseHead_cyc _ _)

theorem State.Inv.pairReleased {s : State} (h : s.Inv) {f : MatF} (hrings : f.ra ≠ f.rb) :
    HeadsReleased s [f.ra.toNat, f.rb.toNat] (s.pastPair f) :=
  (h.headReleased f.ra.toNat).snoc (fun hmem => hrings (BitVec.eq_of_toNat_eq (List.mem_singleton.mp hmem)).symm)

/-- A pair or beat counts. -/
def Matrix.pairDone (m : Matrix) : Matrix := { m with idx := m.idx + 1, beats := (m.beats + 1) % 2 ^ 35 }

theorem endPair_eq (s : State) (f : MatF) : endPair s f = (s.pastPair f).withMx s.mx.pairDone := by
  have hmx : (s.pastPair f).mx = s.mx := (releaseHead_mx _ _).trans (releaseHead_mx _ _)
  rw [endPair, State.modMx_eq, ← State.pastPair, hmx]
  rfl

/-- A pair that counts does not matter to the fold. -/
theorem Matrix.pairDone_foldIf (m : Matrix) (a : Nat) : m.pairDone.foldIf a = (m.foldIf a).pairDone := by
  by_cases h : m.kind a = .i32
  · rw [Matrix.foldIf_i32 h, Matrix.foldIf_i32 (m := m.pairDone) h, Matrix.fold_eq, Matrix.fold_eq]
    rfl
  · rw [Matrix.foldIf_of_ne h, Matrix.foldIf_of_ne (m := m.pairDone) h]

/-- The accumulators of the array are as they were. -/
def SameArray (s t : State) : Prop := t.mx.acc = s.mx.acc ∧ t.mx.akind = s.mx.akind ∧ t.mx.apsn = s.mx.apsn ∧ t.mx.isum = s.mx.isum

/-- The inner sums of accumulator `a` are folded. -/
def FoldedArray (s : State) (a : Nat) (t : State) : Prop :=
  t.mx.words a = s.mx.added a (s.mx.sums a) ∧ t.mx.sums a = List.replicate 4096 0 ∧
  t.mx.flags = s.mx.flags ||| s.mx.wrapped a (s.mx.sums a) ∧ ∀ b, b ≠ a → t.mx.words b = s.mx.words b ∧ t.mx.sums b = s.mx.sums b

theorem foldedArray_of {s t : State} {a : Nat} (hkind : s.mx.kind a = .i32) (hacc : t.mx.acc = (s.mx.foldIf a).acc)
    (hisum : t.mx.isum = (s.mx.foldIf a).isum) (hflags : t.mx.flags = (s.mx.foldIf a).flags) : FoldedArray s a t := by
  have hwords (b : Nat) : t.mx.words b = (s.mx.foldIf a).words b := by rw [Matrix.words_eq, hacc]; rfl
  have hsums (b : Nat) : t.mx.sums b = (s.mx.foldIf a).sums b := by rw [Matrix.sums_eq, hisum]; rfl
  rw [FoldedArray, hwords, hsums, hflags, Matrix.foldIf_i32 hkind]
  obtain ⟨hw, hs, hf, -⟩ := s.mx.fold_folded a
  exact ⟨hw, hs, hf, fun b hb => ⟨(hwords b).trans (s.mx.foldIf_others hb).1, (hsums b).trans (s.mx.foldIf_others hb).2⟩⟩

theorem sameArray_of_fold {s t : State} {a : Nat} (hkind : s.mx.kind a ≠ .i32) (hacc : t.mx.acc = (s.mx.foldIf a).acc)
    (hakind : t.mx.akind = s.mx.akind) (hapsn : t.mx.apsn = s.mx.apsn) (hisum : t.mx.isum = (s.mx.foldIf a).isum) : SameArray s t := by
  rw [Matrix.foldIf_of_ne hkind] at hacc hisum
  exact ⟨hacc, hakind, hapsn, hisum⟩

/-! ## Pairs that end (R182) -/

section
variable {s : State} {f : MatF} (hcmd : s.mx.cmd = some f)
include hcmd

/-- The array past the end of a pair: it waits for the next, or finishes. -/
def Matrix.pairEnded (m : Matrix) (f : MatF) (cyc : Nat) : Matrix :=
  if m.idx + 1 < f.count.toNat then { m.pairDone with phase := .pairWait, due := cyc + 1 }
  else { m.pairDone.foldIf f.acc.toNat with phase := .finishing, due := cyc + 9 }

theorem exec_mmaPairEnd : exec .mmaPairEnd s = .next (
    if s.mx.mop ≠ 0 ∨ s.mx.phase ≠ .pairRun ∨ s.cyc < s.mx.due then s
    else (s.pastPair f).withMx (s.mx.pairEnded f s.cyc)) := by
  show execMmaPairEnd s = _
  rw [execMmaPairEnd, hcmd]
  refine congrArg _ (if_congr .rfl rfl ?_)
  dsimp only
  rw [endPair_eq, State.modMx_eq, State.modMx_eq, State.withMx_withMx, State.withMx_withMx, State.withMx_mx,
    State.withMx_cyc, State.pastPair_cyc, Matrix.pairEnded]
  by_cases h : s.mx.idx + 1 < f.count.toNat
  · rw [if_pos h]
    exact if_pos h
  · rw [if_neg h]
    exact if_neg h

theorem mmaPairEnd_quiet (h : ¬(s.mx.mop = 0 ∧ s.mx.phase = .pairRun ∧ s.mx.due ≤ s.cyc)) : exec .mmaPairEnd s = .next s := by
  rw [exec_mmaPairEnd hcmd, if_pos (by rwa [not_and_or, not_and_or, not_due_iff] at h)]

theorem mmaPairEnd_releases (hinv : s.Inv) (hmop : s.mx.mop = 0) (hphase : s.mx.phase = .pairRun) (hdue : s.mx.due ≤ s.cyc)
    (hrings : f.ra ≠ f.rb) : ∃ t, exec .mmaPairEnd s = .next t ∧ Released s [f.ra.toNat, f.rb.toNat] t ∧ t.mx.idx = s.mx.idx + 1 ∧
      t.mx.beats = (s.mx.beats + 1) % 2 ^ 35 ∧ t.mx.state = s.mx.state ∧
      (s.mx.idx + 1 < f.count.toNat → t.mx.phase = .pairWait ∧ t.mx.due = s.cyc + 1 ∧ SameArray s t) ∧
      (f.count.toNat ≤ s.mx.idx + 1 → t.mx.phase = .finishing ∧ t.mx.due = s.cyc + 9 ∧
        (s.mx.kind f.acc.toNat = .i32 → FoldedArray s f.acc.toNat t) ∧ (s.mx.kind f.acc.toNat ≠ .i32 → SameArray s t)) := by
  have hready : ¬(s.mx.mop ≠ 0 ∨ s.mx.phase ≠ .pairRun ∨ s.cyc < s.mx.due) := by
    rw [hmop, hphase]
    simpa using hdue
  refine ⟨_, (exec_mmaPairEnd hcmd).trans (congrArg _ (if_neg hready)), (hinv.pairReleased hrings).released _, ?_⟩
  by_cases hmore : s.mx.idx + 1 < f.count.toNat
  · rw [SameArray, State.withMx_mx, Matrix.pairEnded, if_pos hmore]
    exact ⟨rfl, rfl, rfl, fun _ => ⟨rfl, rfl, rfl, rfl, rfl, rfl⟩, fun h => absurd hmore (Nat.not_lt.mpr h)⟩
  · have hframe := s.mx.foldIf_frame f.acc.toNat
    have hmx : ((s.pastPair f).withMx (s.mx.pairEnded f s.cyc)).mx =
        { (s.mx.foldIf f.acc.toNat).pairDone with phase := .finishing, due := s.cyc + 9 } := by
      rw [State.withMx_mx, Matrix.pairEnded, if_neg hmore, Matrix.pairDone_foldIf]
    rw [hmx]
    refine ⟨?_, ?_, ?_, fun h => absurd h hmore, fun _ => ⟨rfl, rfl, fun hk => ?_, fun hk => ?_⟩⟩
    · rw [hframe]; rfl
    · rw [hframe]; rfl
    · rw [hframe]; rfl
    · exact foldedArray_of hk (by rw [hmx]; rfl) (by rw [hmx]; rfl) (by rw [hmx]; rfl)
    · exact sameArray_of_fold hk (by rw [hmx]; rfl) (by rw [hmx, hframe]; rfl) (by rw [hmx, hframe]; rfl) (by rw [hmx]; rfl)

end

end Sys2Proof.Machine
end

section
/-! PROOF. The loads and the drains of the matrix array (06 R179, R185 to R187, R191). -/

namespace Sys2Proof.Machine

/-! ## Loads (R185) -/

/-- The bytes of the payload that a load reads. -/
def loadSize (f : MatF) : Nat := if f.mfmt.toNat = 4 then 32768 else 16384

/-- The tile that a load finds at the head of RA. -/
def State.tileL (s : State) (f : MatF) : Word × List Byte × List Byte × Bool := headTile s.myCore s.tick f.ra.toNat (loadSize f)

/-- The array past the read of that tile. -/
def State.loadedMx (s : State) (f : MatF) : Matrix :=
  s.mx.loaded s.tick f.acc.toNat (akindOf f.mfmt.toNat) (s.tileL f).2.2.1 (s.tileL f).2.2.2

/-- What a load does once it is due. -/
def loadStep (s : State) (f : MatF) : State :=
  if s.mx.phase = .loadWait then
    if s.present f.ra then
      if loadOk (s.tileL f).1 f.mfmt.toNat then
        s.withMx { s.loadedMx f with phase := .loading, due := s.cyc + loadSize f / 256 - 1 }
      else refuseTile s f.ra.toNat 0
    else s
  else if s.mx.phase = .loading then (releaseHead s f.ra.toNat).withMx s.mx.finish
  else s

section
variable {s : State} {f : MatF} (hcmd : s.mx.cmd = some f)
include hcmd

theorem exec_mloadComplete : exec .mloadComplete s = .next (if s.cyc < s.mx.due then s else loadStep s f) := by
  have hsize : (if f.mfmt = 4 then 32768 else 16384) = (loadSize f) := if_congr (BitVec.toNat_inj (y := 4)).symm rfl rfl
  show execMloadComplete s = _
  rw [execMloadComplete, hcmd]
  dsimp only
  rw [hsize, State.modMx_eq (releaseHead _ _), releaseHead_mx]
  refine congrArg _ (if_congr .rfl rfl (if_congr .rfl (if_congr .rfl (if_congr .rfl ?_ rfl) rfl) rfl))
  have hload : loadTile s f (s.tileL f).2.2.1 (s.tileL f).2.2.2 = s.withMx (s.loadedMx f) := rfl
  rw [← State.tileL, hload, State.modMx_eq, State.withMx_withMx, State.withMx_mx]

theorem mloadComplete_quiet (h : ¬(s.mx.due ≤ s.cyc ∧ (s.mx.phase = .loadWait ∨ s.mx.phase = .loading))) :
    exec .mloadComplete s = .next s := by
  rw [not_and_or, not_due_iff, not_or] at h
  rw [exec_mloadComplete hcmd]
  obtain hlate | ⟨hwait, hload⟩ := h
  · rw [if_pos hlate]
  · rw [loadStep, if_neg hwait, if_neg hload, ite_self]

variable (hdue : s.mx.due ≤ s.cyc)
include hdue

theorem exec_mloadComplete_due : exec .mloadComplete s = .next (loadStep s f) := by
  rw [exec_mloadComplete hcmd, if_neg (Nat.not_lt.mpr hdue)]

theorem mloadComplete_absent (hphase : s.mx.phase = .loadWait) (h : ¬0 < (s.myCore.ring f.ra.toNat).count) :
    exec .mloadComplete s = .next s := by
  rw [exec_mloadComplete_due hcmd hdue, loadStep, if_pos hphase, if_neg (mt (s.present_iff f.ra).mp h)]

theorem mloadComplete_refused (hphase : s.mx.phase = .loadWait) (h : 0 < (s.myCore.ring f.ra.toNat).count)
    (hok : loadOk (s.tileL f).1 f.mfmt.toNat = false) : Refused s f .mloadComplete f.ra.toNat 0 := by
  refine refused_of hcmd ?_
  rw [exec_mloadComplete_due hcmd hdue, loadStep, if_pos hphase, if_pos ((s.present_iff f.ra).mpr h),
    if_neg (by rw [hok]; exact Bool.false_ne_true)]

theorem mloadComplete_loads (hphase : s.mx.phase = .loadWait) (h : 0 < (s.myCore.ring f.ra.toNat).count)
    (hok : loadOk (s.tileL f).1 f.mfmt.toNat = true) : ∃ t, exec .mloadComplete s = .next t ∧ Stays s t ∧
      { t.myCore with matrix := s.mx } = s.myCore ∧ t.mx.phase = .loading ∧
      t.mx.due + 1 = s.cyc + (if f.mfmt.toNat = 4 then 128 else 64) ∧
      s.mx.Loaded f.acc.toNat (akindOf f.mfmt.toNat) (s.tileL f).2.2.1 (s.tileL f).2.2.2 t.mx := by
  have hexec : exec .mloadComplete s = .next (s.withMx { s.loadedMx f with phase := .loading, due := s.cyc + loadSize f / 256 - 1 }) := by
    rw [exec_mloadComplete_due hcmd hdue, loadStep, if_pos hphase, if_pos ((s.present_iff f.ra).mpr h), if_pos hok]
  have hmoves := MovesArray.withMx s { s.loadedMx f with phase := .loading, due := s.cyc + loadSize f / 256 - 1 }
  refine ⟨_, hexec, hmoves.stays, hmoves.restored, ?_, ?_, ?_⟩
  · rw [State.withMx_mx]
  · have hlength : loadSize f / 256 = if f.mfmt.toNat = 4 then 128 else 64 := by unfold loadSize; split <;> rfl
    rw [State.withMx_mx, hlength]
    exact Nat.sub_add_cancel (Nat.le_add_left_of_le (by split <;> decide))
  · rw [State.withMx_mx]
    exact s.mx.loaded_loaded s.tick f.acc.toNat _ _ _

theorem mloadComplete_releases (hinv : s.Inv) (hphase : s.mx.phase = .loading) :
    ∃ t, exec .mloadComplete s = .next t ∧ Released s [f.ra.toNat] t ∧ t.mx = s.mx.finish := by
  refine ⟨_, ?_, (hinv.headReleased f.ra.toNat).released s.mx.finish, State.withMx_mx _ _⟩
  rw [exec_mloadComplete_due hcmd hdue, loadStep, if_neg (by rw [hphase]; exact MPhase.noConfusion), if_pos hphase]

end

/-! ## Drains that begin (R186, R195) -/

/-- COUNT < depth, the slots of drains in progress counted (R186, R195). -/
def State.Room (s : State) (r : Nat) : Prop :=
  (s.myCore.ring r).count + (s.mx.drains.filter (fun d => d.ring == r)).length < (s.myCore.ring r).depth

theorem State.drainRoom_iff (s : State) (r : Nat) : s.drainRoom r = true ↔ s.Room r := decide_eq_true_iff

/-- The words that a drain of accumulator `a` holds. -/
def Matrix.drainWords (m : Matrix) (a : Nat) : List Word32 :=
  match m.kind a with
  | .f32 => m.words a
  | .i32 => m.added a (m.sums a)
  | .f64 => ((m.words (a / 2 * 2)).zip (m.words (a / 2 * 2 + 1))).flatMap (fun e => [e.1, e.2])

/-- The drain that begins in this cycle. -/
def State.drainOf (s : State) (f : MatF) (tag last : Nat) (simmer final : Bool) : Drain :=
  { ring := f.rd.toNat
    due := s.cyc + (if s.mx.kind f.acc.toNat = .f64 then 129 else 65), tag
    fcode := match s.mx.kind f.acc.toNat with | .f32 => 3 | .f64 => 4 | .i32 => 6
    words := s.mx.drainWords f.acc.toNat, poison := s.mx.poisoned f.acc.toNat, last, simmer, final }

/-- The array as that drain begins. -/
def State.drainingMx (s : State) (f : MatF) (tag last : Nat) (simmer final : Bool) : Matrix :=
  { s.mx.foldIf f.acc.toNat with drains := s.mx.drains ++ [s.drainOf f tag last simmer final] }

theorem Matrix.foldIf_kind (m : Matrix) (a b : Nat) : (m.foldIf a).kind b = m.kind b := by rw [Matrix.foldIf_frame]; rfl
theorem Matrix.foldIf_poisoned (m : Matrix) (a b : Nat) : (m.foldIf a).poisoned b = m.poisoned b := by rw [Matrix.foldIf_frame]; rfl
theorem Matrix.foldIf_drains (m : Matrix) (a : Nat) : (m.foldIf a).drains = m.drains := by rw [Matrix.foldIf_frame]

theorem ofNat_lower (v w : Word32) : BitVec.ofNat 32 (v.toNat + 2 ^ 32 * w.toNat) = v := by
  refine BitVec.eq_of_toNat_eq ?_
  have := v.isLt
  rw [BitVec.toNat_ofNat]
  omega

theorem ofNat_upper (v w : Word32) : BitVec.ofNat 32 ((v.toNat + 2 ^ 32 * w.toNat) / 2 ^ 32) = w := by
  refine BitVec.eq_of_toNat_eq ?_
  have := v.isLt
  have := w.isLt
  rw [BitVec.toNat_ofNat]
  omega

/-- The words of a drain, as read after the fold. -/
theorem Matrix.drainWords_eq (m : Matrix) (a : Nat) : m.drainWords a =
    match m.kind a with
    | .f64 => ((m.foldIf a).elems a (m.kind a)).flatMap (fun v => [BitVec.ofNat 32 v, BitVec.ofNat 32 (v / 2 ^ 32)])
    | _ => (m.foldIf a).words a := by
  unfold Matrix.drainWords
  cases hk : m.kind a with
  | f32 => rw [Matrix.foldIf_of_ne (by rw [hk]; decide)]
  | i32 => exact (Matrix.foldIf_i32 hk ▸ (m.fold_folded a).words).symm
  | f64 =>
    dsimp only
    rw [Matrix.foldIf_of_ne (by rw [hk]; decide), Matrix.elems_f64, List.flatMap_map]
    simp only [ofNat_lower, ofNat_upper]

theorem beginDrain_eq (s : State) (f : MatF) (tag last : Nat) (simmer final : Bool) :
    beginDrain s f tag last simmer final = s.withMx (s.drainingMx f tag last simmer final) := by
  rw [State.drainingMx, State.drainOf, Matrix.drainWords_eq, ← s.mx.foldIf_kind f.acc.toNat, ← s.mx.foldIf_poisoned f.acc.toNat,
    ← s.mx.foldIf_drains f.acc.toNat]
  rfl

end Sys2Proof.Machine
end

section
/-! PROOF. The drains of the matrix array, from the buffer to their publication (06 R179, R186, R187, R191). -/

namespace Sys2Proof.Machine

/-- A drain has begun, and nothing else but the array has moved. -/
def Begun (s : State) (f : MatF) (tag last : Nat) (simmer final : Bool) (t : State) : Prop :=
  Stays s t ∧ t.evFlight = s.evFlight ∧ { t.myCore with matrix := s.mx } = s.myCore ∧
  t.mx.drains = s.mx.drains ++ [s.drainOf f tag last simmer final]

theorem begun_withMx {s : State} {f : MatF} {tag last : Nat} {simmer final : Bool} {m : Matrix}
    (h : m.drains = s.mx.drains ++ [s.drainOf f tag last simmer final]) : Begun s f tag last simmer final (s.withMx m) :=
  ⟨(MovesArray.withMx s m).stays, rfl, (MovesArray.withMx s m).restored, by rw [State.withMx_mx, h]⟩

theorem State.due_room_iff (s : State) (r : Nat) : (s.mx.due ≤ s.cyc ∧ s.drainRoom r = true) ↔ (s.mx.due ≤ s.cyc ∧ s.Room r) :=
  and_congr_right' (s.drainRoom_iff r)

/-- A drain is due, and its ring has a slot to publish. -/
def State.Ripe (s : State) (d : Drain) : Prop := d.due ≤ s.cyc ∧ (s.myCore.ring d.ring).count < (s.myCore.ring d.ring).depth

theorem State.drainDue_iff (s : State) (d : Drain) : s.drainDue d = true ↔ s.Ripe d := by
  rw [State.drainDue, State.Ripe, Bool.and_eq_true, decide_eq_true_eq, decide_eq_true_eq]

/-! ## A drain that is written -/

/-- The tile of `d` stands in the slot at TAIL, which is published, and the flags have gone to the task. -/
def Written (s : State) (d : Drain) (t : State) : Prop :=
  let c := s.myCore
  let r := c.ring d.ring
  let off := r.slotAt r.tail
  let size := 256 + 4 * d.words.length
  let byte (i : Nat) : Byte := t.myCore.scrByte s.tick (off + i)
  (∀ i < 8, byte i = BitVec.ofNat 8 (drainHeader d / 256 ^ i)) ∧
  (∀ i < 248, byte (8 + i) = 0) ∧
  (∀ i w, d.words[i]? = some w → ∀ b < 4, byte (256 + 4 * i + b) = BitVec.ofNat 8 (w.toNat / 256 ^ b)) ∧
  (∀ j, j < off ∨ off + size ≤ j → t.myCore.scrByte s.tick j = c.scrByte s.tick j) ∧
  t.myCore.ring d.ring = { r with tail := (r.tail + 1) % r.depth, count := r.count + 1 } ∧
  (∀ q, q ≠ d.ring → t.myCore.ring q = c.ring q) ∧
  (off % 32 = 0 → size % 32 = 0 → ∀ x, x ∈ t.myCore.spoison ↔
    (d.poison = true ∧ (off + 256) / 32 ≤ x ∧ x < (off + size) / 32) ∨ (x ∈ c.spoison ∧ ¬(off / 32 ≤ x ∧ x < (off + size) / 32))) ∧
  { t.myCore with matrix := s.mx, rings := c.rings, scratch := c.scratch, spoison := c.spoison, sundef := c.sundef } = c ∧
  (t.taskOf c.home).tflagsAdd = (s.taskOf c.home).tflagsAdd ||| s.mx.flags ∧ (∀ q, q ≠ c.home → t.taskOf q = s.taskOf q) ∧
  t.mx.flags = 0 ∧ t.mem = s.mem

theorem Core.withMatrix_ring (c : Core) (matrix : Matrix) (q : Nat) : { c with matrix }.ring q = c.ring q := rfl
theorem Core.withMatrix_scrByte (c : Core) (matrix : Matrix) (tick j : Nat) : { c with matrix }.scrByte tick j = c.scrByte tick j := rfl

/-- `u` is past the write; what follows moves the array's words, the threads and the events alone. -/
theorem DrainWritten.written {s u t : State} {d : Drain} (h : DrainWritten s d u) (hinv : s.Inv) (hripe : s.Ripe d)
    (hcore : t.myCore = { u.myCore with matrix := t.mx }) (hmem : t.mem = u.mem) (htasks : t.tasks = u.tasks) (hflags : t.mx.flags = 0) :
    Written s d t := by
  have hwf : Memory.wf s.myCore.scratch = true := hinv.bytesWf.core _
  have htaskOf (q : Nat) : t.taskOf q = u.taskOf q := by rw [State.taskOf, htasks]; rfl
  have hmine : t.myCore = { s.myCore.drained d with matrix := t.mx } := by
    obtain ⟨_, hu⟩ := h.core
    rw [hcore, hu]
  have hring (q : Nat) : t.myCore.ring q = (s.myCore.drained d).ring q := by rw [hmine, Core.withMatrix_ring]
  have hbyte (j : Nat) : t.myCore.scrByte s.tick j = (s.myCore.drained d).scrByte s.tick j := by
    rw [hmine, Core.withMatrix_scrByte]
  have hpoison : t.myCore.spoison = s.myCore.drainPoison d := by rw [hmine]; rfl
  unfold Written
  refine ⟨fun i hi => ?_, fun i hi => ?_, fun i w hw b hb => ?_, fun j hj => ?_, ?_, fun q hq => ?_, fun hoff hsize x => ?_, ?_, ?_,
    fun q hq => ?_, hflags, hmem.trans h.mem⟩
  · exact (hbyte _).trans (Core.drained_byte d hwf s.tick (d.bytes_header hi))
  · exact (hbyte _).trans (Core.drained_byte d hwf s.tick (d.bytes_zeros hi))
  · exact (hbyte _).trans (Core.drained_byte d hwf s.tick (d.bytes_payload hw hb))
  · rw [hbyte, Core.drained_scrByte d hwf, d.bytes_length]
    refine if_neg fun hin => ?_
    obtain ⟨hlo, hhi⟩ := hin
    exact hj.elim (Nat.not_lt.mpr hlo) (Nat.not_le.mpr hhi)
  · rw [hring, Core.drained_ring_same]
    exact if_pos hripe.2
  · rw [hring, Core.drained_ring_other d hq]
  · rw [hpoison]
    exact Core.mem_drainPoison d hoff hsize x
  · rw [hmine]
    rfl
  · rw [htaskOf, h.task]
  · rw [htaskOf, h.tasks q hq]

/-! ## `mdrain` (R186, R187) -/

/-- `t` is `s` with accumulator `a` +0 and its APSN clear. -/
def ZeroedArray (s : State) (a : Nat) (t : State) : Prop :=
  s.mx.Blanked a t.mx ∧ t.mx.poisoned a = false ∧ (s.mx.kind a = .f64 → ∀ b, b / 2 = a / 2 → t.mx.poisoned b = false)

/-- What a move leaves of an accumulator depends on what it held. -/
theorem Matrix.Blanked.of_sameAcc {m m' M M' : Matrix} {a : Nat} (h : M.Blanked a M') (hm : m.SameAcc M) (hm' : M'.SameAcc m') :
    m.Blanked a m' := by
  simp only [Matrix.Blanked, hm.kind, hm.words, hm.sums, hm.poisoned, hm.akind] at h
  simpa only [Matrix.Blanked, hm'.words, hm'.sums, hm'.poisoned, hm'.akind] using h

/-- What an `mdrain` does with its drain, or while it waits for a slot. -/
def mdrainStep (s : State) (f : MatF) : State :=
  if s.mx.phase = .drainWait then
    if s.mx.due ≤ s.cyc ∧ s.drainRoom f.rd.toNat then s.withMx { s.drainingMx f 0 0 false false with phase := .draining } else s
  else if s.mx.phase = .draining then
    match s.mx.drains with
    | d :: l => if s.drainDue d then
        let u := (writeDrain s s.cur.m d).modMx (fun m => { m with drains := l })
        (if f.zero then u.modMx (fun m => m.zero f.acc.toNat (m.kind f.acc.toNat)) else u).modMx Matrix.finish
      else s
    | [] => s
  else s

section
variable {s : State} {f : MatF} (hcmd : s.mx.cmd = some f)
include hcmd

theorem exec_mdrainComplete : exec .mdrainComplete s = .next (mdrainStep s f) := by
  show execMdrainComplete s = _
  rw [execMdrainComplete, hcmd]
  dsimp only
  rw [beginDrain_eq, State.modMx_eq (s.withMx _), State.withMx_withMx, State.withMx_mx]
  rfl

theorem mdrainComplete_begins (hphase : s.mx.phase = .drainWait) (h : s.mx.due ≤ s.cyc ∧ s.Room f.rd.toNat) :
    ∃ t, exec .mdrainComplete s = .next t ∧ Begun s f 0 0 false false t ∧ t.mx.phase = .draining ∧
      (s.mx.kind f.acc.toNat ≠ .i32 → SameArray s t) ∧ (s.mx.kind f.acc.toNat = .i32 → FoldedArray s f.acc.toNat t) := by
  have hexec : exec .mdrainComplete s = .next (s.withMx { s.drainingMx f 0 0 false false with phase := .draining }) := by
    rw [exec_mdrainComplete hcmd, mdrainStep, if_pos hphase, if_pos ((s.due_room_iff _).mpr h)]
  have hmx := s.withMx_mx { s.drainingMx f 0 0 false false with phase := .draining }
  have hframe := s.mx.foldIf_frame f.acc.toNat
  refine ⟨_, hexec, begun_withMx rfl, by rw [hmx], fun hk => ?_, fun hk => ?_⟩
  · exact sameArray_of_fold hk (by rw [hmx]; rfl) (by rw [hmx, State.drainingMx, hframe]) (by rw [hmx, State.drainingMx, hframe])
      (by rw [hmx]; rfl)
  · exact foldedArray_of hk (by rw [hmx]; rfl) (by rw [hmx]; rfl) (by rw [hmx]; rfl)

theorem mdrainComplete_waits (hphase : s.mx.phase = .drainWait) (h : ¬(s.mx.due ≤ s.cyc ∧ s.Room f.rd.toNat)) :
    exec .mdrainComplete s = .next s := by
  rw [exec_mdrainComplete hcmd, mdrainStep, if_pos hphase, if_neg (mt (s.due_room_iff _).mp h)]

theorem mdrainComplete_other (hwait : s.mx.phase ≠ .drainWait) (h : s.mx.phase ≠ .draining ∨ s.mx.drains = []) :
    exec .mdrainComplete s = .next s := by
  rw [exec_mdrainComplete hcmd, mdrainStep, if_neg hwait]
  obtain hphase | hdrains := h
  · rw [if_neg hphase]
  · rw [hdrains]
    exact congrArg _ (ite_self s)

variable {d : Drain} {l : List Drain} (hphase : s.mx.phase = .draining) (hdrains : s.mx.drains = d :: l)
include hphase hdrains

theorem mdrainComplete_draining : exec .mdrainComplete s = .next (if s.drainDue d then
    let u := (writeDrain s s.cur.m d).modMx (fun m => { m with drains := l })
    (if f.zero then u.modMx (fun m => m.zero f.acc.toNat (m.kind f.acc.toNat)) else u).modMx Matrix.finish else s) := by
  rw [exec_mdrainComplete hcmd, mdrainStep, if_neg (by rw [hphase]; exact MPhase.noConfusion), if_pos hphase, hdrains]

theorem mdrainComplete_unripe (h : ¬s.Ripe d) : exec .mdrainComplete s = .next s := by
  rw [mdrainComplete_draining hcmd hphase hdrains, if_neg (mt (s.drainDue_iff d).mp h)]

theorem mdrainComplete_publishes (hinv : s.Inv) (h : s.Ripe d) : ∃ t, exec .mdrainComplete s = .next t ∧ Written s d t ∧
    t.threads = s.threads ∧ t.evFlight = s.evFlight ∧ t.mx.drains = l ∧ t.mx.cmd = none ∧ t.mx.state = 0 ∧ t.mx.phase = .idle ∧
    (f.zero = true → ZeroedArray s f.acc.toNat t) ∧ (f.zero = false → SameArray s t) := by
  have hwritten := writeDrain_written s d
  obtain ⟨was, hmx⟩ := hwritten.mx
  have hexec := mdrainComplete_draining hcmd hphase hdrains
  rw [if_pos ((s.drainDue_iff d).mpr h)] at hexec
  dsimp only at hexec
  rw [State.modMx_eq (writeDrain s s.cur.m d), hmx] at hexec
  generalize writeDrain s s.cur.m d = u at hwritten hmx hexec
  generalize hM : ({ s.mx with flags := 0, was, drains := l } : Matrix) = M at hexec
  have hsame : s.mx.SameAcc M := by rw [← hM]; exact ⟨rfl, rfl, rfl, rfl⟩
  have hafter (m : Matrix) (hflags : m.flags = 0) : Written s d (u.withMx m) :=
    hwritten.written hinv h (MovesArray.withMx u m).core rfl rfl (by rw [State.withMx_mx, hflags])
  by_cases hzero : f.zero = true
  · rw [if_pos hzero, State.modMx_eq (u.withMx M), State.withMx_withMx, State.withMx_mx, State.modMx_eq, State.withMx_withMx,
      State.withMx_mx] at hexec
    obtain ⟨_, _, _, _, hframe⟩ := M.zero_sameButAcc f.acc.toNat (M.kind f.acc.toNat)
    have hfin : (M.zero f.acc.toNat (M.kind f.acc.toNat)).SameAcc (M.zero f.acc.toNat (M.kind f.acc.toNat)).finish := ⟨rfl, rfl, rfl, rfl⟩
    obtain ⟨hblanked, hpoisoned, hpair⟩ := M.zero_blanked f.acc.toNat
    refine ⟨_, hexec, hafter _ (by rw [hframe, ← hM]; rfl), hwritten.threads, hwritten.evFlight, ?_, ?_, ?_, ?_, fun _ => ⟨?_, ?_, ?_⟩,
      fun h => absurd hzero (by rw [h]; exact Bool.false_ne_true)⟩
    · rw [State.withMx_mx, hframe, ← hM]; rfl
    · rw [State.withMx_mx]; rfl
    · rw [State.withMx_mx]; rfl
    · rw [State.withMx_mx]; rfl
    · rw [State.withMx_mx]
      exact hblanked.of_sameAcc hsame hfin
    · rw [State.withMx_mx, hfin.poisoned, hpoisoned]
    · rw [State.withMx_mx, ← hsame.kind]
      exact fun hk b hb => (hfin.poisoned b).trans (hpair hk b hb)
  · rw [if_neg hzero, State.modMx_eq (u.withMx M), State.withMx_withMx, State.withMx_mx] at hexec
    refine ⟨_, hexec, hafter _ (by rw [← hM]; rfl), hwritten.threads, hwritten.evFlight, ?_, ?_, ?_, ?_, fun h => absurd h hzero, fun _ => ?_⟩
    · rw [State.withMx_mx, ← hM]; rfl
    · rw [State.withMx_mx]; rfl
    · rw [State.withMx_mx]; rfl
    · rw [State.withMx_mx]; rfl
    · rw [SameArray, State.withMx_mx]
      exact ⟨hsame.acc, hsame.akind, hsame.apsn, hsame.isum⟩

end

end Sys2Proof.Machine
end

section
/-! PROOF. The beats of a run of the matrix array: attempts, misses and drain points (06 R193 to R197, R199, R200, R202). -/

namespace Sys2Proof.Machine

/-! ## Events that are posted, by their two outcomes -/

/-- The events `l` are on their way, or lost when their target has ended (R198). -/
def PostsOnly (s : State) (f : MatF) (l : List EvFlight) (t : State) : Prop :=
  (s.demandTarget f ≠ none → t.mx.evlost = s.mx.evlost ∧ t.evFlight = s.evFlight ++ numbered s.nextId l) ∧
  (s.demandTarget f = none → t.evFlight = s.evFlight ∧ t.mx.evlost = (s.mx.evlost || l != []))

theorem Posts.only {s t : State} {f : MatF} {l : List EvFlight} (h : Posts s f l t) : PostsOnly s f l t :=
  ⟨fun live => ⟨(h.sent live).1, (h.sent live).2.1⟩, h.lost⟩

/-! ## What a restart evaluates (R202) -/

section
variable (s : State) (f : MatF)

/-- `s` past the demand of a restart. -/
def State.redemanded : State :=
  demand (s.withMx { s.mx with again := false }) f s.mx.idx (s.mx.idx + f.la.toNat) (s.mx.idx + f.lb.toNat)

/-- The demand of a state whose array starts, slips and has looked as in `s`. -/
theorem MovesArray.bothDemands {s t : State} (h : MovesArray s t) (f : MatF) (hs0 : t.mx.s0 = s.mx.s0) (hslip : t.mx.slipk = s.mx.slipk)
    (hA : t.mx.seenA = s.mx.seenA) (hB : t.mx.seenB = s.mx.seenB) (b hiA hiB : Nat) :
    t.bothDemands f b hiA hiB = s.bothDemands f b hiA hiB := by
  rw [State.bothDemands, h.demands f hs0 hslip, hA, hB]
  rfl

theorem State.redemanded_moves : MovesArray s (s.redemanded f) ∧ ∃ evlost, (s.redemanded f).mx = { s.mx with
    again := false, evlost
    seenA := max s.mx.seenA (lookLimit f (s.mx.idx + f.la.toNat))
    seenB := max s.mx.seenB (lookLimit f (s.mx.idx + f.lb.toNat)) } := by
  obtain ⟨hmoves, evlost, hmx⟩ := demand_moves (s.withMx { s.mx with again := false }) f s.mx.idx (s.mx.idx + f.la.toNat)
    (s.mx.idx + f.lb.toNat)
  rw [State.withMx_mx] at hmx
  exact ⟨(MovesArray.withMx s _).trans hmoves, evlost, hmx⟩

theorem State.redemanded_posts :
    Posts s f (s.bothDemands f s.mx.idx (s.mx.idx + f.la.toNat) (s.mx.idx + f.lb.toNat)) (s.redemanded f) := by
  have hmx := s.withMx_mx { s.mx with again := false }
  have hposts := demand_posts (s.withMx { s.mx with again := false }) f s.mx.idx (s.mx.idx + f.la.toNat) (s.mx.idx + f.lb.toNat)
  rw [(MovesArray.withMx s _).bothDemands f (by rw [hmx]) (by rw [hmx]) (by rw [hmx]) (by rw [hmx])] at hposts
  exact .of_withMx (m := { s.mx with again := false }) rfl hposts

variable {s}

/-- What a restart leaves of the array besides its demand. -/
theorem redemanded_facts {f : MatF} (h : s.mx.again = true) : MovesArray s (s.redemanded f) ∧
    ({ (s.redemanded f).mx with again := true, seenA := s.mx.seenA, seenB := s.mx.seenB, evlost := s.mx.evlost } = s.mx ∧
      (s.redemanded f).mx.again = false ∧ (s.redemanded f).mx.seenA = max s.mx.seenA (lookLimit f (s.mx.idx + f.la.toNat)) ∧
      (s.redemanded f).mx.seenB = max s.mx.seenB (lookLimit f (s.mx.idx + f.lb.toNat))) ∧
    PostsOnly s f (s.bothDemands f s.mx.idx (s.mx.idx + f.la.toNat) (s.mx.idx + f.lb.toNat)) (s.redemanded f) := by
  obtain ⟨hmoves, _, hmx⟩ := s.redemanded_moves f
  refine ⟨hmoves, ?_, (s.redemanded_posts f).only⟩
  rw [hmx]
  refine ⟨?_, rfl, rfl, rfl⟩
  rw [← h]

theorem redemand_again (h : s.mx.again = true) : redemand s f = s.redemanded f := if_pos h
theorem redemand_once (h : s.mx.again = false) : redemand s f = s := if_neg (by rw [h]; exact Bool.false_ne_true)

theorem redemand_redemanded : redemand (s.redemanded f) f = s.redemanded f := by
  obtain ⟨-, _, hmx⟩ := s.redemanded_moves f
  exact redemand_once f (by rw [hmx])

end

/-! ## The end of a run (R200) -/

theorem endRun_moves (s : State) (f : MatF) : MovesArray s (endRun s f) ∧ ∃ evlost, (endRun s f).mx = { s.mx.finish with evlost } := by
  obtain ⟨hmoves, evlost, hmx⟩ := postMatrix_moves s f 4 f.rd.toNat s.mx.idx s.cyc
  refine ⟨hmoves.trans (.withMx _ _), evlost, (State.withMx_mx _ _).trans (congrArg Matrix.finish hmx)⟩

theorem endRun_posts (s : State) (f : MatF) : Posts s f [s.arrayEvent f 4 f.rd.toNat s.mx.idx s.cyc] (endRun s f) :=
  (postMatrix_posts s f 4 f.rd.toNat s.mx.idx s.cyc).then_withMx rfl

/-! ## Drain points (R195) -/

/-- The last beat of the run is done. -/
def Matrix.AtLast (m : Matrix) (f : MatF) : Prop := f.count ≠ 0 ∧ m.idx = f.count.toNat
/-- The boundary is a drain point, and the run's end. -/
def Matrix.AtPoint (m : Matrix) (f : MatF) : Prop := m.fin = true ∨ m.AtLast f ∨ m.idx % f.dper.toNat = 0
def Matrix.AtEnd (m : Matrix) (f : MatF) : Prop := m.fin = true ∨ m.AtLast f ∨ m.stopreq = true

theorem Matrix.atLast_iff (m : Matrix) (f : MatF) : (f.count != 0 && m.idx == f.count.toNat) = true ↔ m.AtLast f := by
  rw [Bool.and_eq_true, bne_iff_ne, beq_iff_eq, Matrix.AtLast]
theorem Matrix.atPoint_iff (m : Matrix) (f : MatF) :
    (m.fin || (f.count != 0 && m.idx == f.count.toNat) || m.idx % f.dper.toNat == 0) = true ↔ m.AtPoint f := by
  rw [Bool.or_eq_true, Bool.or_eq_true, Matrix.atLast_iff, beq_iff_eq, or_assoc, Matrix.AtPoint]
theorem Matrix.atEnd_iff (m : Matrix) (f : MatF) :
    (m.fin || (f.count != 0 && m.idx == f.count.toNat) || m.stopreq) = true ↔ m.AtEnd f := by
  rw [Bool.or_eq_true, Bool.or_eq_true, Matrix.atLast_iff, or_assoc, Matrix.AtEnd]

/-- The array past the drain of a drain point: the accumulator in its buffer is +0. -/
def State.pastDrain (s : State) (f : MatF) (final : Bool) : Matrix :=
  let m := s.drainingMx f s.mx.ndrain (s.mx.idx - 1) true final
  { m.blank f.acc.toNat (m.kind f.acc.toNat) with period := 0, ndrain := m.ndrain + 1, fin := false }

/-- The next attempt or check is one beat later. -/
def Matrix.slipped (m : Matrix) (f : MatF) (cyc : Nat) : Matrix :=
  { m with slipk := m.slipk + 1, slips := min (m.slips + 1) 0xFFFF, due := cyc + beatLen f.mfmt.toNat }

section
variable (s : State) (f : MatF)

theorem slip_eq : slip s f = s.withMx (s.mx.slipped f s.cyc) := rfl

theorem State.pastDrain_frame (final : Bool) : ∃ acc isum flags, s.pastDrain f final = { s.mx with
    acc, isum, flags, period := 0, ndrain := s.mx.ndrain + 1, fin := false
    drains := s.mx.drains ++ [s.drainOf f s.mx.ndrain (s.mx.idx - 1) true final] } := by
  have hframe := s.mx.foldIf_frame f.acc.toNat
  unfold State.pastDrain State.drainingMx
  generalize s.mx.foldIf f.acc.toNat = m at hframe
  generalize s.drainOf f s.mx.ndrain (s.mx.idx - 1) true final = d
  generalize m.acc = acc, m.flags = flags, m.isum = isum at hframe
  subst hframe
  dsimp only
  rw [Matrix.blank_frame]
  exact ⟨_, _, _, rfl⟩

theorem State.pastDrain_blanked (final : Bool) : s.mx.Blanked f.acc.toNat (s.pastDrain f final) := by
  have hblank : ((s.drainingMx f s.mx.ndrain (s.mx.idx - 1) true final).blank f.acc.toNat
      ((s.drainingMx f s.mx.ndrain (s.mx.idx - 1) true final).kind f.acc.toNat)).SameAcc (s.pastDrain f final) := ⟨rfl, rfl, rfl, rfl⟩
  have hkind := s.mx.foldIf_kind f.acc.toNat f.acc.toNat
  have hothers (b : Nat) (hb : b ≠ f.acc.toNat) := s.mx.foldIf_others hb
  have hpoisoned (b : Nat) := s.mx.foldIf_poisoned f.acc.toNat b
  have hakind : (s.mx.foldIf f.acc.toNat).akind = s.mx.akind := by rw [Matrix.foldIf_frame]
  have hfold : (s.mx.foldIf f.acc.toNat).SameAcc (s.drainingMx f s.mx.ndrain (s.mx.idx - 1) true final) := ⟨rfl, rfl, rfl, rfl⟩
  obtain ⟨hakind', hwords', hsums', hpair', hothers'⟩ :=
    ((s.drainingMx f s.mx.ndrain (s.mx.idx - 1) true final).blank_blanked f.acc.toNat).of_sameAcc hfold hblank
  rw [hkind] at hpair' hothers'
  refine ⟨hakind'.trans hakind, hwords', hsums', hpair', fun b hb hapart => ?_⟩
  obtain ⟨hw, hs, hp⟩ := hothers' b hb hapart
  exact ⟨hw.trans (hothers b hb).1, hs.trans (hothers b hb).2, hp.trans (hpoisoned b)⟩

variable {s f}

theorem drainPoint_between (h : ¬s.mx.AtPoint f) : drainPoint s f = s.withMx { s.mx with phase := .attempt, due := s.cyc } :=
  if_neg (mt (s.mx.atPoint_iff f).mp h)

variable (h : s.mx.AtPoint f)
include h

theorem drainPoint_at : drainPoint s f =
    if s.drainRoom f.rd.toNat then
      let final := s.mx.fin || (f.count != 0 && s.mx.idx == f.count.toNat) || s.mx.stopreq
      if final then s.withMx { s.pastDrain f final with phase := .ending }
      else s.withMx { s.pastDrain f final with phase := .attempt, due := s.cyc }
    else if f.policy then matrixFault s 0x11 f.rd.toNat s.mx.idx
    else slip s f := by
  refine (if_pos ((s.mx.atPoint_iff f).mpr h)).trans ?_
  dsimp only
  generalize (s.mx.fin || (f.count != 0 && s.mx.idx == f.count.toNat) || s.mx.stopreq) = final
  rw [beginDrain_eq, State.modMx_eq (s.withMx _), State.withMx_withMx, State.withMx_mx, State.modMx_eq, State.modMx_eq, State.withMx_withMx,
    State.withMx_withMx, State.withMx_mx]
  rfl

theorem drainPoint_ends (hroom : s.Room f.rd.toNat) (hend : s.mx.AtEnd f) :
    drainPoint s f = s.withMx { s.pastDrain f true with phase := .ending } := by
  rw [drainPoint_at h, if_pos ((s.drainRoom_iff _).mpr hroom), (s.mx.atEnd_iff f).mpr hend]
  rfl

theorem drainPoint_goes (hroom : s.Room f.rd.toNat) (hend : ¬s.mx.AtEnd f) :
    drainPoint s f = s.withMx { s.pastDrain f false with phase := .attempt, due := s.cyc } := by
  rw [drainPoint_at h, if_pos ((s.drainRoom_iff _).mpr hroom), Bool.eq_false_iff.mpr (mt (s.mx.atEnd_iff f).mp hend)]
  rfl

theorem drainPoint_full (hroom : ¬s.Room f.rd.toNat) :
    drainPoint s f = if f.policy then matrixFault s 0x11 f.rd.toNat s.mx.idx else s.withMx (s.mx.slipped f s.cyc) := by
  rw [drainPoint_at h, if_neg (mt (s.drainRoom_iff _).mp hroom), slip_eq]

end

end Sys2Proof.Machine
end

section
/-! PROOF. The events of a run of the matrix array, in its attempts and at its boundaries (06 R193 to R197, R199, R200, R202). -/

namespace Sys2Proof.Machine

/-! ## Drains of a run that begin -/

/-- `t` is `s` with accumulator `a` +0 by a drain of its run: APSN stays. -/
def DrainedArray (s : State) (a : Nat) (t : State) : Prop := s.mx.Blanked a t.mx ∧ t.mx.apsn = s.mx.apsn

/-- The last drain of the run begins. -/
def FinalDrain (s : State) (f : MatF) (tag : Nat) (t : State) : Prop :=
  Begun s f tag (s.mx.idx - 1) true true t ∧ DrainedArray s f.acc.toNat t ∧ t.mx.period = 0 ∧ t.mx.phase = .ending

section
variable {s u : State} {f : MatF} (hacc : s.mx.SameAcc u.mx)
include hacc

theorem drained_pastDrain (final : Bool) {m : Matrix} (hm : (u.pastDrain f final).SameAcc m) : DrainedArray s f.acc.toNat (u.withMx m) := by
  obtain ⟨_, _, _, hframe⟩ := u.pastDrain_frame f final
  rw [DrainedArray, State.withMx_mx]
  refine ⟨(u.pastDrain_blanked f final).of_sameAcc hacc hm, ?_⟩
  rw [hm.apsn, hframe]
  exact hacc.apsn

variable (hu : MovesArray s u)
include hu

theorem drainOf_of_moves (tag last : Nat) (simmer final : Bool) : u.drainOf f tag last simmer final = s.drainOf f tag last simmer final := by
  have hwords : u.mx.drainWords f.acc.toNat = s.mx.drainWords f.acc.toNat := by
    simp only [Matrix.drainWords, Matrix.added, hacc.kind, hacc.words, hacc.sums]
  rw [State.drainOf, hwords, hu.cyc, hacc.kind, hacc.poisoned]
  rfl

variable (hev : u.evFlight = s.evFlight) (hdrains : u.mx.drains = s.mx.drains) (hidx : u.mx.idx = s.mx.idx)
include hev hdrains hidx

/-- A drain of the state `u`, which has the accumulators of `s`, and the words that follow. -/
theorem begun_pastDrain (final : Bool) {m : Matrix} (hm : m.drains = (u.pastDrain f final).drains) :
    Begun s f u.mx.ndrain (s.mx.idx - 1) true final (u.withMx m) := by
  have hmoves := hu.trans (.withMx u m)
  refine ⟨hmoves.stays, hev, hmoves.restored, ?_⟩
  obtain ⟨_, _, _, hframe⟩ := u.pastDrain_frame f final
  rw [State.withMx_mx, hm, hframe, ← drainOf_of_moves hacc hu, ← hidx, ← hdrains]

theorem finalDrain_pastDrain : FinalDrain s f u.mx.ndrain (u.withMx { u.pastDrain f true with phase := .ending }) := by
  refine ⟨begun_pastDrain hacc hu hev hdrains hidx true rfl, drained_pastDrain hacc true ⟨rfl, rfl, rfl, rfl⟩, ?_, ?_⟩
  · rw [State.withMx_mx]
    rfl
  · rw [State.withMx_mx]

end

/-! ## Attempts (R193, R194, R199) -/

/-- A pair of a beat that runs, and the demand of its lookahead. -/
def runBeat (s : State) (f : MatF) (u : State) : State :=
  (demand u f s.mx.idx (s.mx.idx + f.la.toNat + 1) (s.mx.idx + f.lb.toNat + 1)).modMx
    (fun m => { m with phase := .pairRun, due := s.cyc + beatLen f.mfmt.toNat - 1 })

/-- An attempt of the beat at the heads. -/
def attemptBeat (s : State) (f : MatF) : State :=
  if s.present f.ra && s.present f.rb then pairStep s f (runBeat s f) else missBeat s f

/-- The array once a missed attempt is counted. -/
def Matrix.missed (m : Matrix) : Matrix := { m with missAdd := m.missAdd + 1 }

section
variable {s : State} {f : MatF} (hcmd : s.mx.cmd = some f)

theorem missBeat_eq : missBeat s f = (
    let u := s.withMx s.mx.missed
    if f.policy then matrixFault u 0x11 (if 0 < (s.myCore.ring f.ra.toNat).count then f.rb.toNat else f.ra.toNat) s.mx.idx
    else if s.mx.stopreq then
      if 0 < s.mx.period then drainPoint (s.withMx { s.mx.missed with fin := true, phase := .drainPoint, due := s.cyc }) f
      else if s.mx.drains = [] then endRun u f else s.withMx { s.mx.missed with phase := .ending }
    else s.withMx (s.mx.missed.slipped f s.cyc)) := by
  have hmiss : missBeat s f = (let u := s.withMx s.mx.missed
      if f.policy then matrixFault u 0x11 (if u.present f.ra then f.rb.toNat else f.ra.toNat) u.mx.idx
      else if u.mx.stopreq then
        if 0 < u.mx.period then drainPoint (u.withMx { u.mx with fin := true, phase := .drainPoint, due := s.cyc }) f
        else if u.mx.drains = [] then endRun u f else u.withMx { u.mx with phase := .ending }
      else u.withMx (u.mx.slipped f s.cyc)) := rfl
  rw [hmiss]
  dsimp only
  rw [State.absent_eq, (MovesArray.withMx s s.mx.missed).ring, State.withMx_mx, State.withMx_withMx, State.withMx_withMx, State.withMx_withMx]
  rfl

include hcmd

theorem exec_simmerAttempt : exec .simmerAttempt s =
    .next (if s.mx.phase ≠ .attempt ∨ s.cyc < s.mx.due then s else attemptBeat (redemand s f) f) := by
  show execSimmerAttempt s = _
  rw [execSimmerAttempt, hcmd]
  rfl

theorem simmerAttempt_quiet (h : ¬(s.mx.phase = .attempt ∧ s.mx.due ≤ s.cyc)) : exec .simmerAttempt s = .next s := by
  rw [exec_simmerAttempt hcmd, if_pos (by rwa [not_and_or, not_due_iff] at h)]

variable (hphase : s.mx.phase = .attempt) (hdue : s.mx.due ≤ s.cyc)
include hphase hdue

theorem simmerAttempt_due : exec .simmerAttempt s = .next (attemptBeat (redemand s f) f) := by
  rw [exec_simmerAttempt hcmd, if_neg (by rw [hphase]; simpa using hdue)]

/-- A restart looks at the beats of its lookahead, then attempts. -/
theorem simmerAttempt_again (h : s.mx.again = true) : exec .simmerAttempt s = exec .simmerAttempt (s.redemanded f) := by
  obtain ⟨hmoves, _, hmx⟩ := s.redemanded_moves f
  rw [simmerAttempt_due hcmd hphase hdue, redemand_again f h, simmerAttempt_due (s := s.redemanded f) (by rw [hmx]; exact hcmd)
    (by rw [hmx]; exact hphase) (by rw [hmx, hmoves.cyc]; exact hdue), redemand_redemanded]

variable (honce : s.mx.again = false)
include honce

theorem simmerAttempt_present (hA : 0 < (s.myCore.ring f.ra.toNat).count) (hB : 0 < (s.myCore.ring f.rb.toNat).count) :
    PairClauses s f .simmerAttempt (fun t =>
      PostsOnly s f (s.bothDemands f s.mx.idx (s.mx.idx + f.la.toNat + 1) (s.mx.idx + f.lb.toNat + 1)) t ∧
      t.mx.seenA = max s.mx.seenA (lookLimit f (s.mx.idx + f.la.toNat + 1)) ∧
      t.mx.seenB = max s.mx.seenB (lookLimit f (s.mx.idx + f.lb.toNat + 1))) := by
  have hexec := simmerAttempt_due hcmd hphase hdue
  rw [redemand_once f honce, attemptBeat, if_pos ((s.both_present f).mpr ⟨hA, hB⟩)] at hexec
  refine pairClauses_of hcmd hexec ?_
  obtain ⟨_, _, _, _, _, hsummed⟩ := State.summedMx_frame (s := s) (f := f)
  have hmx := s.withMx_mx (s.summedMx f)
  have hu := MovesArray.withMx s (s.summedMx f)
  obtain ⟨hmoves, evlost, hdemand⟩ := demand_moves (s.withMx (s.summedMx f)) f s.mx.idx (s.mx.idx + f.la.toNat + 1) (s.mx.idx + f.lb.toNat + 1)
  have hposts := demand_posts (s.withMx (s.summedMx f)) f s.mx.idx (s.mx.idx + f.la.toNat + 1) (s.mx.idx + f.lb.toNat + 1)
  rw [hu.bothDemands f (by rw [hmx, hsummed]) (by rw [hmx, hsummed]) (by rw [hmx, hsummed]) (by rw [hmx, hsummed])] at hposts
  have hlost : (s.summedMx f).evlost = s.mx.evlost := by rw [hsummed]
  have hseenA : (s.summedMx f).seenA = s.mx.seenA := by rw [hsummed]
  have hseenB : (s.summedMx f).seenB = s.mx.seenB := by rw [hsummed]
  rw [hmx] at hdemand
  rw [runBeat, State.modMx_eq, hdemand]
  refine ⟨pairRuns_of ((hu.trans hmoves).trans (.withMx _ _)) ⟨_, _, _, State.withMx_mx _ _⟩,
    ((Posts.of_withMx hlost hposts).then_withMx (by rw [hdemand])).only, ?_, ?_⟩
  · rw [State.withMx_mx, ← hseenA]
  · rw [State.withMx_mx, ← hseenB]

end

end Sys2Proof.Machine
end

section
/-! PROOF. The misses of a run of the matrix array and its boundaries (06 R194, R195, R199, R200). -/

namespace Sys2Proof.Machine

/-- The state in which a run that stops at a miss looks for room. -/
def State.stopping (s : State) : State := s.withMx { s.mx.missed with fin := true, phase := .drainPoint, due := s.cyc }

theorem State.stopping_mx (s : State) : s.stopping.mx = { s.mx.missed with fin := true, phase := .drainPoint, due := s.cyc } :=
  State.withMx_mx _ _
theorem State.stopping_room (s : State) (r : Nat) : s.stopping.Room r ↔ s.Room r := by
  rw [State.Room, State.stopping_mx, State.stopping, (MovesArray.withMx s _).ring]
  rfl

theorem run_ready {s : State} (hmop : s.mx.mop = 4) (hdue : s.mx.due ≤ s.cyc) : ¬(s.mx.mop ≠ 4 ∨ s.cyc < s.mx.due) := by
  rw [hmop]
  simpa using hdue

section
variable {s : State} {f : MatF} (hcmd : s.mx.cmd = some f)
include hcmd

/-! ## Missed attempts (R194, R199) -/

section
variable (hphase : s.mx.phase = .attempt) (hdue : s.mx.due ≤ s.cyc) (honce : s.mx.again = false)
  (habsent : ¬(0 < (s.myCore.ring f.ra.toNat).count ∧ 0 < (s.myCore.ring f.rb.toNat).count))
include hphase hdue honce habsent

theorem simmerAttempt_missed : exec .simmerAttempt s = .next (missBeat s f) := by
  rw [simmerAttempt_due hcmd hphase hdue, redemand_once f honce, attemptBeat, if_neg (mt (s.both_present f).mp habsent)]

theorem simmerAttempt_faults (hpolicy : f.policy = true) : Fails s f .simmerAttempt 0x11
    (if 0 < (s.myCore.ring f.ra.toNat).count then f.rb.toNat else f.ra.toNat) s.mx.idx 1 0 := by
  have hflags : s.mx.flags ||| 0 = s.mx.flags := BitVec.or_zero
  refine fails_of hcmd (.withMx s s.mx.missed) (by rw [State.withMx_mx, hflags, Matrix.missed]) ?_
  rw [simmerAttempt_missed hcmd hphase hdue honce habsent, missBeat_eq]
  exact congrArg _ (if_pos hpolicy)

variable (hpolicy : f.policy = false)
include hpolicy

theorem simmerAttempt_holds : exec .simmerAttempt s = .next (if s.mx.stopreq then
      if 0 < s.mx.period then drainPoint (s.withMx { s.mx.missed with fin := true, phase := .drainPoint, due := s.cyc }) f
      else if s.mx.drains = [] then endRun (s.withMx s.mx.missed) f else s.withMx { s.mx.missed with phase := .ending }
    else s.withMx (s.mx.missed.slipped f s.cyc)) := by
  rw [simmerAttempt_missed hcmd hphase hdue honce habsent, missBeat_eq]
  exact congrArg _ (if_neg (by rw [hpolicy]; exact Bool.false_ne_true))

theorem simmerAttempt_slips (hstop : s.mx.stopreq = false) : exec .simmerAttempt s = .next (s.withMx (s.mx.missed.slipped f s.cyc)) := by
  rw [simmerAttempt_holds hcmd hphase hdue honce habsent hpolicy, if_neg (by rw [hstop]; exact Bool.false_ne_true)]

variable (hstop : s.mx.stopreq = true)
include hstop

theorem simmerAttempt_ending (hperiod : s.mx.period = 0) (hdrains : s.mx.drains ≠ []) :
    exec .simmerAttempt s = .next (s.withMx { s.mx.missed with phase := .ending }) := by
  rw [simmerAttempt_holds hcmd hphase hdue honce habsent hpolicy, if_pos hstop, if_neg (by rw [hperiod]; exact Nat.lt_irrefl 0),
    if_neg hdrains]

theorem simmerAttempt_ends (hperiod : s.mx.period = 0) (hdrains : s.mx.drains = []) : ∃ t, exec .simmerAttempt s = .next t ∧ Stays s t ∧
    { t.myCore with matrix := s.mx } = s.myCore ∧ PostsOnly s f [s.arrayEvent f 4 f.rd.toNat s.mx.idx s.cyc] t ∧
    { t.mx with evlost := s.mx.evlost } = s.mx.missed.finish := by
  have hexec := simmerAttempt_holds hcmd hphase hdue honce habsent hpolicy
  rw [if_pos hstop, if_neg (by rw [hperiod]; exact Nat.lt_irrefl 0), if_pos hdrains] at hexec
  have hmx := s.withMx_mx s.mx.missed
  have hu := MovesArray.withMx s s.mx.missed
  obtain ⟨hmoves, _, hend⟩ := endRun_moves (s.withMx s.mx.missed) f
  have hposts := endRun_posts (s.withMx s.mx.missed) f
  rw [hu.arrayEvent, hu.cyc, hmx] at hposts
  have hall := hu.trans hmoves
  refine ⟨_, hexec, hall.stays, hall.restored, (Posts.of_withMx (m := s.mx.missed) rfl hposts).only, ?_⟩
  rw [hend, hmx]
  rfl

variable (hperiod : 0 < s.mx.period)
include hperiod

theorem simmerAttempt_stops : exec .simmerAttempt s = .next (drainPoint s.stopping f) := by
  rw [simmerAttempt_holds hcmd hphase hdue honce habsent hpolicy, if_pos hstop, if_pos hperiod]
  rfl

theorem simmerAttempt_finalDrain (hroom : s.Room f.rd.toNat) : ∃ t, exec .simmerAttempt s = .next t ∧ FinalDrain s f s.mx.ndrain t ∧
    t.mx.missAdd = s.mx.missAdd + 1 := by
  have hfin : s.stopping.mx.fin = true := by rw [State.stopping_mx]
  have hexec := simmerAttempt_stops hcmd hphase hdue honce habsent hpolicy hstop hperiod
  rw [drainPoint_ends (.inl hfin) ((s.stopping_room _).mpr hroom) (.inl hfin)] at hexec
  have hnumber : s.stopping.mx.ndrain = s.mx.ndrain := by rw [State.stopping_mx]; rfl
  have hfinal := finalDrain_pastDrain (s := s) (u := s.stopping) (f := f) (by rw [State.stopping_mx]; exact ⟨rfl, rfl, rfl, rfl⟩)
    (.withMx s _) rfl (by rw [State.stopping_mx]; rfl) (by rw [State.stopping_mx]; rfl)
  rw [hnumber] at hfinal
  refine ⟨_, hexec, hfinal, ?_⟩
  obtain ⟨_, _, _, hframe⟩ := s.stopping.pastDrain_frame f true
  rw [State.withMx_mx, hframe, State.stopping_mx]
  rfl

theorem simmerAttempt_full (hroom : ¬s.Room f.rd.toNat) : exec .simmerAttempt s =
    .next (s.withMx { s.mx.missed.slipped f s.cyc with fin := true, phase := .drainPoint }) := by
  have hfin : s.stopping.mx.fin = true := by rw [State.stopping_mx]
  rw [simmerAttempt_stops hcmd hphase hdue honce habsent hpolicy hstop hperiod,
    drainPoint_full (.inl hfin) (mt (s.stopping_room _).mp hroom), if_neg (by rw [hpolicy]; exact Bool.false_ne_true), State.stopping_mx,
    State.stopping, State.withMx_withMx]
  rfl

end

/-! ## Beats that end, and the boundaries after them (R193, R195) -/

theorem exec_beatEnd : exec .beatEnd s = .next (
    if s.mx.mop ≠ 4 ∨ s.cyc < s.mx.due then s
    else if s.mx.phase = .pairRun then
      (s.pastPair f).withMx { s.mx.pairDone with period := s.mx.period + 1, phase := .drainPoint, due := s.cyc + 1 }
    else if s.mx.phase = .drainPoint then drainPoint (redemand s f) f
    else s) := by
  show execBeatEnd s = _
  rw [execBeatEnd, hcmd]
  dsimp only
  rw [endPair_eq, State.modMx_eq, State.withMx_withMx, State.withMx_mx]
  rfl

theorem beatEnd_quiet (h : ¬(s.mx.mop = 4 ∧ s.mx.due ≤ s.cyc ∧ (s.mx.phase = .pairRun ∨ s.mx.phase = .drainPoint))) :
    exec .beatEnd s = .next s := by
  rw [exec_beatEnd hcmd]
  by_cases hready : s.mx.mop ≠ 4 ∨ s.cyc < s.mx.due
  · rw [if_pos hready]
  · rw [not_or, not_not, Nat.not_lt] at hready
    rw [and_iff_right hready.1, and_iff_right hready.2, not_or] at h
    rw [if_neg h.1, if_neg h.2, ite_self]

variable (hmop : s.mx.mop = 4) (hdue : s.mx.due ≤ s.cyc)
include hmop hdue

theorem beatEnd_releases (hinv : s.Inv) (hphase : s.mx.phase = .pairRun) (hrings : f.ra ≠ f.rb) : ∃ t, exec .beatEnd s = .next t ∧
    Released s [f.ra.toNat, f.rb.toNat] t ∧ t.mx.idx = s.mx.idx + 1 ∧ t.mx.beats = (s.mx.beats + 1) % 2 ^ 35 ∧
    t.mx.period = s.mx.period + 1 ∧ t.mx.phase = .drainPoint ∧ t.mx.due = s.cyc + 1 ∧ SameArray s t := by
  have hexec := exec_beatEnd hcmd
  rw [if_neg (run_ready hmop hdue), if_pos hphase] at hexec
  refine ⟨_, hexec, (hinv.pairReleased hrings).released _, ?_⟩
  rw [SameArray, State.withMx_mx]
  exact ⟨rfl, rfl, rfl, rfl, rfl, rfl, rfl, rfl, rfl⟩

variable (hphase : s.mx.phase = .drainPoint)
include hphase

theorem beatEnd_boundary : exec .beatEnd s = .next (drainPoint (redemand s f) f) := by
  rw [exec_beatEnd hcmd, if_neg (run_ready hmop hdue), if_neg (by rw [hphase]; exact MPhase.noConfusion), if_pos hphase]

/-- A restart looks at the beats of its lookahead, then at the boundary. -/
theorem beatEnd_again (h : s.mx.again = true) : exec .beatEnd s = exec .beatEnd (s.redemanded f) := by
  obtain ⟨hmoves, _, hmx⟩ := s.redemanded_moves f
  rw [beatEnd_boundary hcmd hmop hdue hphase, redemand_again f h, beatEnd_boundary (s := s.redemanded f) (by rw [hmx]; exact hcmd)
    (by rw [hmx]; exact hmop) (by rw [hmx, hmoves.cyc]; exact hdue) (by rw [hmx]; exact hphase), redemand_redemanded]

variable (honce : s.mx.again = false)
include honce

theorem beatEnd_drainPoint : exec .beatEnd s = .next (drainPoint s f) := by
  rw [beatEnd_boundary hcmd hmop hdue hphase, redemand_once f honce]

theorem beatEnd_between (h : ¬s.mx.AtPoint f) : exec .beatEnd s = .next (s.withMx { s.mx with phase := .attempt, due := s.cyc }) := by
  rw [beatEnd_drainPoint hcmd hmop hdue hphase honce, drainPoint_between h]

variable (h : s.mx.AtPoint f)
include h

theorem beatEnd_ends (hroom : s.Room f.rd.toNat) (hend : s.mx.AtEnd f) : ∃ t, exec .beatEnd s = .next t ∧ FinalDrain s f s.mx.ndrain t ∧
    t.mx.missAdd = s.mx.missAdd := by
  have hexec := beatEnd_drainPoint hcmd hmop hdue hphase honce
  rw [drainPoint_ends h hroom hend] at hexec
  refine ⟨_, hexec, finalDrain_pastDrain ⟨rfl, rfl, rfl, rfl⟩ (.refl s) rfl rfl rfl, ?_⟩
  obtain ⟨_, _, _, hframe⟩ := s.pastDrain_frame f true
  rw [State.withMx_mx, hframe]

theorem beatEnd_goes (hroom : s.Room f.rd.toNat) (hend : ¬s.mx.AtEnd f) : ∃ t, exec .beatEnd s = .next t ∧
    Begun s f s.mx.ndrain (s.mx.idx - 1) true false t ∧ DrainedArray s f.acc.toNat t ∧ t.mx.period = 0 ∧ t.mx.ndrain = s.mx.ndrain + 1 ∧
    t.mx.phase = .attempt ∧ t.mx.due = s.cyc := by
  have hexec := beatEnd_drainPoint hcmd hmop hdue hphase honce
  rw [drainPoint_goes h hroom hend] at hexec
  have hsame : s.mx.SameAcc s.mx := ⟨rfl, rfl, rfl, rfl⟩
  refine ⟨_, hexec, begun_pastDrain hsame (.refl s) rfl rfl rfl false rfl, drained_pastDrain hsame false ⟨rfl, rfl, rfl, rfl⟩, ?_⟩
  obtain ⟨_, _, _, hframe⟩ := s.pastDrain_frame f false
  rw [State.withMx_mx, hframe]
  exact ⟨rfl, rfl, rfl, rfl⟩

theorem beatEnd_faults (hroom : ¬s.Room f.rd.toNat) (hpolicy : f.policy = true) : Fails s f .beatEnd 0x11 f.rd.toNat s.mx.idx 0 0 := by
  refine fails_of hcmd (.refl s) s.mx.noted_zero ?_
  rw [beatEnd_drainPoint hcmd hmop hdue hphase honce, drainPoint_full h hroom, if_pos hpolicy]

theorem beatEnd_slips (hroom : ¬s.Room f.rd.toNat) (hpolicy : f.policy = false) :
    exec .beatEnd s = .next (s.withMx (s.mx.slipped f s.cyc)) := by
  rw [beatEnd_drainPoint hcmd hmop hdue hphase honce, drainPoint_full h hroom, if_neg (by rw [hpolicy]; exact Bool.false_ne_true)]

end

end Sys2Proof.Machine
end

section
/-! PROOF. The drains of a run of the matrix array that are published (06 R187, R191, R195, R198, R200, R203). -/

namespace Sys2Proof.Machine

/-! ## A drain that is published, and its event -/

/-- The state past the write of the drain `d`, of which `l` are left. -/
def State.written (s : State) (d : Drain) (l : List Drain) : State := (writeDrain s s.cur.m d).modMx (fun m => { m with drains := l })

/-- Its event, unless it was the last drain of the run. -/
def State.drainPosted (s : State) (f : MatF) (d : Drain) (l : List Drain) : State :=
  if d.final then s.written d l else postMatrix (s.written d l) f 3 f.rd.toNat d.last s.cyc

/-- The event that the publication of `d` posts. -/
def State.drainEvents (s : State) (f : MatF) (d : Drain) : List EvFlight :=
  if d.final then [] else [s.arrayEvent f 3 f.rd.toNat d.last s.cyc]

section
variable (s : State) (f : MatF) (d : Drain) (l : List Drain)

theorem State.written_moves : MovesArray (writeDrain s s.cur.m d) (s.written d l) := .withMx _ _

theorem State.written_mx : ∃ was, (s.written d l).mx = { s.mx with flags := 0, was, drains := l } := by
  obtain ⟨was, hmx⟩ := (writeDrain_written s d).mx
  exact ⟨was, (State.withMx_mx _ _).trans (congrArg (fun m : Matrix => { m with drains := l }) hmx)⟩

/-- The command's target and its events are those of before. -/
theorem State.written_target : (s.written d l).demandTarget = s.demandTarget ∧ (s.written d l).arrayEvent = s.arrayEvent := by
  have hwritten := writeDrain_written s d
  have hmoves := s.written_moves d l
  have hhome : (s.written d l).myCore.home = s.myCore.home := by
    obtain ⟨_, hcore⟩ := hwritten.core
    rw [hmoves.home, hcore]
    rfl
  have hrole : ((s.written d l).taskOf s.myCore.home).role = (s.taskOf s.myCore.home).role := by
    rw [hmoves.taskOf, hwritten.task]
  have hslot (f : MatF) : targetSlot ((s.written d l).taskOf s.myCore.home) f = targetSlot (s.taskOf s.myCore.home) f := by
    rw [targetSlot, hrole]
    rfl
  constructor
  · funext f
    rw [State.demandTarget, hhome, hslot, hmoves.keyOf, State.keyOf_of_threads hwritten.threads]
    rfl
  · funext f evk ring index cycle
    rw [State.arrayEvent, hhome, hslot, hrole]
    rfl

theorem State.written_posts : Posts s f [] (s.written d l) := by
  have hwritten := writeDrain_written s d
  obtain ⟨_, hmx⟩ := s.written_mx d l
  exact .none_of (congrFun (s.written_target d l).1 f) (by rw [hmx]) hwritten.evFlight hwritten.nextId

theorem State.written_cyc : (s.written d l).cyc = s.cyc := (s.written_moves d l).cyc.trans (writeDrain_written s d).cyc

theorem State.drainPosted_moves : MovesArray (writeDrain s s.cur.m d) (s.drainPosted f d l) ∧
    ∃ was evlost, (s.drainPosted f d l).mx = { s.mx with flags := 0, was, drains := l, evlost } := by
  obtain ⟨was, hmx⟩ := s.written_mx d l
  unfold State.drainPosted
  split
  · exact ⟨s.written_moves d l, was, s.mx.evlost, hmx⟩
  · obtain ⟨hmoves, evlost, hmx'⟩ := postMatrix_moves (s.written d l) f 3 f.rd.toNat d.last s.cyc
    exact ⟨(s.written_moves d l).trans hmoves, was, evlost, by rw [hmx', hmx]⟩

theorem State.drainPosted_posts : Posts s f (s.drainEvents f d) (s.drainPosted f d l) := by
  have hposts := s.written_posts f d l
  unfold State.drainEvents State.drainPosted
  split
  · exact hposts
  · rw [← (s.written_target d l).2]
    exact hposts.trans (postMatrix_posts (s.written d l) f 3 f.rd.toNat d.last s.cyc)

theorem State.drainPosted_arrayEvent : (s.drainPosted f d l).arrayEvent = s.arrayEvent := by
  unfold State.drainPosted
  split
  · exact (s.written_target d l).2
  · exact (postMatrix_moves _ f _ _ _ _).1.arrayEvent.trans (s.written_target d l).2

end

/-! ## SIMMER_DRAIN_PUBLISH -/

theorem simmerDrainPublish_empty {s : State} (h : s.mx.drains = []) : exec .simmerDrainPublish s = .next s := by
  show execSimmerDrainPublish s = _
  rw [execSimmerDrainPublish, h]
  cases s.mx.cmd <;> rfl

section
variable {s : State} {f : MatF} (hcmd : s.mx.cmd = some f) {d : Drain} {l : List Drain} (hdrains : s.mx.drains = d :: l)
include hcmd hdrains

theorem exec_simmerDrainPublish : exec .simmerDrainPublish s = .next (if !d.simmer || !(s.drainDue d) then s
    else if (s.drainPosted f d l).mx.phase = .ending ∧ l = [] then endRun (s.drainPosted f d l) f else raiseMatrix (s.drainPosted f d l)) := by
  have hcyc := s.written_cyc d l
  show execSimmerDrainPublish s = _
  rw [execSimmerDrainPublish, hcmd, hdrains]
  dsimp only
  rw [← State.written, hcyc]
  rfl

theorem simmerDrainPublish_waits (h : d.simmer = false ∨ ¬s.Ripe d) : exec .simmerDrainPublish s = .next s := by
  rw [exec_simmerDrainPublish hcmd hdrains, if_pos]
  rw [Bool.or_eq_true, Bool.not_eq_true', Bool.not_eq_true']
  exact h.imp_right fun hripe => Bool.eq_false_iff.mpr (mt (s.drainDue_iff d).mp hripe)

variable (hinv : s.Inv) (hsimmer : d.simmer = true) (hripe : s.Ripe d)

include hsimmer hripe in
theorem simmerDrainPublish_ripe : exec .simmerDrainPublish s = .next (
    if s.mx.phase = .ending ∧ l = [] then endRun (s.drainPosted f d l) f else raiseMatrix (s.drainPosted f d l)) := by
  have hphase : (s.drainPosted f d l).mx.phase = s.mx.phase := by
    obtain ⟨-, _, _, hmx⟩ := s.drainPosted_moves f d l
    rw [hmx]
  rw [exec_simmerDrainPublish hcmd hdrains, hphase, if_neg (by rw [hsimmer, (s.drainDue_iff d).mpr hripe]; exact Bool.false_ne_true)]

end

/-- What the publication of the oldest drain leaves, whatever follows: the tile, the accumulators, the drains and the events. -/
def Published (s : State) (f : MatF) (d : Drain) (l : List Drain) (t : State) : Prop :=
  Written s d t ∧ SameArray s t ∧ t.mx.drains = l ∧
  (l ≠ [] ∨ s.mx.pend = none ∨ s.mx.phase = .ending → t.threads = s.threads) ∧
  (∀ cause w, l = [] → s.mx.pend = some (cause, w) → s.mx.phase ≠ .ending → t.mx.pend = none ∧ Reaches s cause w t) ∧
  PostsOnly s f (s.drainEvents f d ++ (if s.mx.phase = .ending ∧ l = [] then [s.arrayEvent f 4 f.rd.toNat s.mx.idx s.cyc] else [])) t ∧
  (¬(s.mx.phase = .ending ∧ l = []) → t.mx.cmd = some f ∧ t.mx.phase = s.mx.phase ∧ t.mx.state = s.mx.state) ∧
  (s.mx.phase = .ending → l = [] → t.mx.cmd = none ∧ t.mx.state = 0 ∧ t.mx.stopreq = false ∧ t.mx.dla = 0 ∧ t.mx.dlb = 0 ∧
    t.mx.beats = s.mx.beats ∧ t.mx.slips = s.mx.slips)

section
variable {s : State} {f : MatF} {d : Drain} {l : List Drain} (hinv : s.Inv) (hripe : s.Ripe d)
include hinv hripe

/-- The run ends with its last drain. -/
theorem endRun_published (hphase : s.mx.phase = .ending) (hl : l = []) : Published s f d l (endRun (s.drainPosted f d l) f) := by
  obtain ⟨hmoves, was, _, hmx⟩ := s.drainPosted_moves f d l
  obtain ⟨hmoves', _, hmx'⟩ := endRun_moves (s.drainPosted f d l) f
  have hposts := endRun_posts (s.drainPosted f d l) f
  have hidx : (s.drainPosted f d l).mx.idx = s.mx.idx := by rw [hmx]
  rw [hidx, s.drainPosted_arrayEvent, hmoves.cyc, (writeDrain_written s d).cyc] at hposts
  have hall := hmoves.trans hmoves'
  have hend : s.mx.phase = .ending ∧ l = [] := ⟨hphase, hl⟩
  rw [hmx] at hmx'
  refine ⟨(writeDrain_written s d).written hinv hripe hall.core hall.mem hall.tasks (by rw [hmx']; rfl), ?_, by rw [hmx']; rfl,
    fun _ => hall.threads.trans (writeDrain_written s d).threads, fun _ _ _ _ h => absurd hphase h, ?_, fun h => absurd hend h,
    fun _ _ => ?_⟩
  · rw [SameArray, hmx']
    exact ⟨rfl, rfl, rfl, rfl⟩
  · rw [if_pos hend]
    exact ((s.drainPosted_posts f d l).trans hposts).only
  · rw [hmx']
    exact ⟨rfl, rfl, rfl, rfl, rfl, rfl, rfl⟩

/-- The run goes on: what follows moves the threads and the waiting fault alone. -/
theorem goingRun_published {t : State} (hcmd : s.mx.cmd = some f) (hgoes : ¬(s.mx.phase = .ending ∧ l = []))
    (hcore : t.myCore = { (s.drainPosted f d l).myCore with matrix := t.mx }) (hmem : t.mem = (s.drainPosted f d l).mem)
    (htasks : t.tasks = (s.drainPosted f d l).tasks) (hmx : ∃ pend, t.mx = { (s.drainPosted f d l).mx with pend })
    (hev : t.evFlight = (s.drainPosted f d l).evFlight)
    (hquiet : l ≠ [] ∨ s.mx.pend = none ∨ s.mx.phase = .ending → t.threads = s.threads)
    (hraised : ∀ cause w, l = [] → s.mx.pend = some (cause, w) → s.mx.phase ≠ .ending → t.mx.pend = none ∧ Reaches s cause w t) :
    Published s f d l t := by
  obtain ⟨hmoves, was, evlost, hposted⟩ := s.drainPosted_moves f d l
  have hposts := (s.drainPosted_posts f d l).only
  have hlost : t.mx.evlost = (s.drainPosted f d l).mx.evlost := by
    obtain ⟨_, hmx⟩ := hmx
    rw [hmx]
  have hcore' : t.myCore = { (writeDrain s s.cur.m d).myCore with matrix := t.mx } := by rw [hcore, hmoves.core]
  rw [PostsOnly, ← hlost, ← hev] at hposts
  rw [hposted] at hmx
  obtain ⟨pend, hmx⟩ := hmx
  refine ⟨(writeDrain_written s d).written hinv hripe hcore' (hmem.trans hmoves.mem) (htasks.trans hmoves.tasks) (by rw [hmx]), ?_,
    by rw [hmx], hquiet, hraised, ?_, fun _ => ?_, fun hphase hl => absurd ⟨hphase, hl⟩ hgoes⟩
  · rw [SameArray, hmx]
    exact ⟨rfl, rfl, rfl, rfl⟩
  · rw [if_neg hgoes, List.append_nil]
    exact hposts
  · rw [hmx]
    exact ⟨hcmd, rfl, rfl⟩

/-- A fault that waited for the last drain of a run is raised. -/
theorem raiseMatrix_published (hcmd : s.mx.cmd = some f) (hgoes : ¬(s.mx.phase = .ending ∧ l = [])) :
    Published s f d l (raiseMatrix (s.drainPosted f d l)) := by
  obtain ⟨hmoves, _, _, hmx⟩ := s.drainPosted_moves f d l
  have hthreads := hmoves.threads.trans (writeDrain_written s d).threads
  have hcur := hmoves.cur.trans (writeDrain_written s d).cur
  have hpend : (s.drainPosted f d l).mx.pend = s.mx.pend := by rw [hmx]
  have hleft : (s.drainPosted f d l).mx.drains = l := by rw [hmx]
  have hsilent (h : l ≠ [] ∨ s.mx.pend = none) (hraise : raiseMatrix (s.drainPosted f d l) = s.drainPosted f d l) :
      Published s f d l (raiseMatrix (s.drainPosted f d l)) := by
    rw [hraise]
    refine goingRun_published hinv hripe hcmd hgoes rfl rfl rfl ⟨_, rfl⟩ rfl (fun _ => hthreads) fun _ _ hl hsome => ?_
    exact h.elim (absurd hl) fun hnone => absurd (hnone.symm.trans hsome) (Option.some_ne_none _).symm
  by_cases hl : l = []
  · cases hwaiting : s.mx.pend with
    | none => exact hsilent (.inr hwaiting) (raiseMatrix_none (hpend.trans hwaiting))
    | some fault =>
      obtain ⟨cause, w⟩ := fault
      have hraised := raiseMatrix_raised (hpend.trans hwaiting) (hleft.trans hl)
      have hmx' : (raiseMatrix (s.drainPosted f d l)).mx = { (s.drainPosted f d l).mx with pend := none } := congrArg Core.matrix hraised.core
      refine goingRun_published hinv hripe hcmd hgoes (by rw [hmx']; exact hraised.core) hraised.mem hraised.tasks ⟨none, hmx'⟩
        hraised.evFlight (fun h => ?_) fun cause' w' _ hsome _ => ?_
      · obtain hne | hnone | hend := h
        · exact absurd hl hne
        · exact absurd (hwaiting.symm.trans hnone) (Option.some_ne_none _)
        · exact absurd ⟨hend, hl⟩ hgoes
      · obtain ⟨rfl, rfl⟩ := Prod.mk.inj (Option.some.inj (hwaiting.symm.trans hsome))
        exact ⟨by rw [hmx'], hraised.reaches.of_threads hcur hthreads⟩
  · exact hsilent (.inl hl) (raiseMatrix_waits (by rw [hleft]; exact hl))

end

theorem simmerDrainPublish_publishes {s : State} {f : MatF} {d : Drain} {l : List Drain} (hcmd : s.mx.cmd = some f)
    (hdrains : s.mx.drains = d :: l) (hinv : s.Inv) (hsimmer : d.simmer = true) (hripe : s.Ripe d) :
    ∃ t, exec .simmerDrainPublish s = .next t ∧ Published s f d l t := by
  have hexec := simmerDrainPublish_ripe hcmd hdrains hsimmer hripe
  by_cases hend : s.mx.phase = .ending ∧ l = []
  · rw [if_pos hend] at hexec
    exact ⟨_, hexec, endRun_published hinv hripe hend.1 hend.2⟩
  · rw [if_neg hend] at hexec
    exact ⟨_, hexec, raiseMatrix_published hinv hripe hcmd hend⟩

end Sys2Proof.Machine
end

section
/-! PROOF. The events of the matrix array, settled (06 R182 to R200). -/

namespace Sys2Proof.Machine

/-- Settles O57: each move of the array by the state it leaves, in the order of pairs, loads, drains, beats and the drains of a run. -/
theorem matrixEvents : Obligations.MatrixEvents := by
  unfold Obligations.MatrixEvents
  intro s f hinv n c m a mf k bt zeros quiet becomes done due present absent reaches fails faults refused stays added wrapped A B summed
    pairClauses released same folded blanked zeroed drained task slot event posts reserved room begun finalDrain ripe written
  refine ⟨fun h _ => exec_no_command h, mmaComplete_done, mmaComplete_quiet, mzeroComplete_done, mzeroComplete_quiet, fun hcmd => ?_⟩
  refine ⟨mmaPairStart_quiet hcmd, ?_, mmaPairEnd_quiet hcmd, ?_, mloadComplete_quiet hcmd, ?_, ?_, ?_, ?_, mdrainComplete_other hcmd,
    simmerAttempt_quiet hcmd, ?_, ?_, ?_, beatEnd_quiet hcmd, ?_, ?_, simmerDrainPublish_empty, ?_⟩
  · exact fun hphase hdue => ⟨mmaPairStart_present hcmd hphase hdue, fun habsent =>
      ⟨mmaPairStart_waits hcmd habsent, mmaPairStart_missed hcmd hphase hdue habsent⟩⟩
  · exact mmaPairEnd_releases hcmd hinv
  · exact fun hphase hdue => ⟨mloadComplete_absent hcmd hdue hphase, mloadComplete_refused hcmd hdue hphase,
      mloadComplete_loads hcmd hdue hphase⟩
  · exact fun hphase hdue => mloadComplete_releases hcmd hdue hinv hphase
  · exact fun hphase => ⟨mdrainComplete_begins hcmd hphase, mdrainComplete_waits hcmd hphase⟩
  · exact fun d l hphase hdrains => ⟨mdrainComplete_unripe hcmd hphase hdrains, mdrainComplete_publishes hcmd hphase hdrains hinv⟩
  · intro hagain hdue hwhere hi demands
    obtain ⟨hmoves, hmx, hposts⟩ := redemanded_facts (f := f) hagain
    obtain ⟨hframe, honce, hseenA, hseenB⟩ := hmx
    refine ⟨s.redemanded f, hmoves.stays, hmoves.restored, hposts, hframe, honce, hseenA, hseenB,
      fun hphase => simmerAttempt_again hcmd hphase hdue hagain, fun hphase => ?_⟩
    obtain hattempt | ⟨hmop, -⟩ := hwhere
    · exact absurd (hattempt.symm.trans hphase) MPhase.noConfusion
    · exact beatEnd_again hcmd hmop hdue hphase hagain
  · exact simmerAttempt_present hcmd
  · intro hphase hdue honce habsent missed slips
    refine ⟨simmerAttempt_faults hcmd hphase hdue honce habsent, simmerAttempt_slips hcmd hphase hdue honce habsent,
      fun hpolicy hstop => ⟨simmerAttempt_ending hcmd hphase hdue honce habsent hpolicy hstop,
        simmerAttempt_ends hcmd hphase hdue honce habsent hpolicy hstop, simmerAttempt_finalDrain hcmd hphase hdue honce habsent hpolicy hstop,
        simmerAttempt_full hcmd hphase hdue honce habsent hpolicy hstop⟩⟩
  · exact fun hmop hphase hdue => beatEnd_releases hcmd hmop hdue hinv hphase
  · intro hmop hphase hdue honce last point ends
    exact ⟨beatEnd_between hcmd hmop hdue hphase honce, beatEnd_ends hcmd hmop hdue hphase honce, beatEnd_goes hcmd hmop hdue hphase honce,
      fun hpoint hroom => ⟨beatEnd_faults hcmd hmop hdue hphase honce hpoint hroom, beatEnd_slips hcmd hmop hdue hphase honce hpoint hroom⟩⟩
  · exact fun d l hdrains => ⟨simmerDrainPublish_waits hcmd hdrains, simmerDrainPublish_publishes hcmd hdrains hinv⟩

end Sys2Proof.Machine
end
